-- ==== Sys2Proof/Word.lean ====
section
/-!
DEFINITION. Word.lean: the word types of Gelril (spec 04 R65, R68, R71; 02 R27, R38).
-/

namespace Sys2Proof

/-- A byte of memory. -/
abbrev Byte := BitVec 8

/-- A code word: clause header, instruction word or extension word (R65, R68, R71). -/
abbrev Word := BitVec 32

/-- A d, q or c register, or a 64-bit special value (R38). -/
abbrev Reg := BitVec 64

/-- A lane mask: bit i stands for lane i (R27). -/
abbrev Mask := BitVec 32

end Sys2Proof
end

