-- ==== Sys2Proof/Syntax.lean ====
section
/-!
DEFINITION. Syntax.lean: the steps of the part, one constructor for each row of the table of operations and
events (spec 04 R65 to R77 for the instructions, 95 for what the steps hold). An instruction carries the
fields of its word and extension word (R68, R71); an event carries what the outside world or an arbiter
supplies with it.
-/

namespace Sys2Proof

/-- The fields of an instruction word and its extension word (R68, R71). Without an extension word
(`x = false`) the extension fields have the defaults of R72. -/
structure Fields where
  stall : BitVec 2
  x : Bool
  g : BitVec 3
  d : BitVec 6
  a : BitVec 6
  b : BitVec 6
  gn : Bool
  w : BitVec 3
  aq : Bool
  bq : Bool
  cq : Bool
  rm : BitVec 2
  sat : Bool
  c : BitVec 6
  mod : BitVec 15
deriving DecidableEq, Repr

/-- A page as the supervisor installs it for a partition (R177, R309): bases are byte addresses, `size` is
64 KB, 2 MB or 1 GB, `pbase` is a domain physical address. -/
structure PageSpec where
  vbase : Nat
  size : Nat
  pbase : Nat
  read : Bool
  write : Bool
  atomic : Bool
  key : Nat
deriving DecidableEq, Repr

/-- A firmware image as it stands in a bank (R359): its 4,096-byte header and its payload. -/
structure Image where
  header : List (BitVec 8)
  payload : List (BitVec 8)
deriving DecidableEq, Repr

/-- What the outside fixes of a start-up (R24): the outcome of each step's tests and the id that the domain
assigns. A step that is false fails. -/
structure Boot where
  /-- Steps 2, 3 and 4 succeed. -/
  step2 : Bool
  step3 : Bool
  step4 : Bool
  /-- Stacks that fail in step 2. -/
  badStacks : List Nat
  /-- Ports that fail in step 4. -/
  badPorts : List Nat
  /-- Matrix engines whose self-test fails (R351). -/
  badEngines : List Nat
  pkgid : Nat
  /-- The domain's plane map, when it is not the reset map (R355). -/
  planeMap : Option Reg
deriving DecidableEq, Repr

/-- A message between firmware cores (R358). -/
structure MailMsg where
  sender : Nat
  body : List (BitVec 8)
deriving DecidableEq, Repr

/-- A link that can fail: a fabric port by plane, a compute-to-compute link of die n to die n+1, or die n's
link to the hub (R12, R17). -/
inductive Link where
  | port (n : Nat)
  | ring (n : Nat)
  | hub (n : Nat)
deriving DecidableEq, Repr

/-- The place an error strikes (R343), down to its poison grain. -/
inductive ErrSite where
  | dreg (gang reg lane : Nat)
  | pred (gang reg lane : Nat)
  | amax (gang lane : Nat)
  | q (gang reg : Nat)
  | k (gang reg : Nat)
  | c (gang reg : Nat)
  /-- An entry of a slice's deferred, loop or call stack (`file` 0, 1, 2), counted from the bottom; as 3, what the slice has
  taken from a poisoned entry. -/
  | stack (gang slice file pos : Nat)
  | trapState (gang : Nat)
  | scoreboard (gang : Nat)
  /-- 8 bytes of a block's scratchpad. -/
  | scratch (block word : Nat)
  | cell (block cell : Nat)
  /-- 8 bytes of a lane's stack in the memory that backs it (R179). -/
  | backing (gang lane grain : Nat)
  /-- 8 bytes in a wing's L2 slice, by domain physical address over 8; `clean` when the line can be fetched again. Poison of
  this form lies at the home of the bytes. -/
  | l2 (wing word : Nat) (clean : Bool)
  /-- A tag of a 256-byte line in a wing's slice. -/
  | l2tag (wing line : Nat) (dirty : Bool)
  /-- A 64-byte unit of HBM. -/
  | hbm (unit : Nat)
  /-- A code word being fetched by an agent. -/
  | code (gang : Nat) (slice : Option Nat)
  | engine (cluster : Nat)
  /-- Control state of a copy engine, stream engine or sketch unit. -/
  | copyUnit (cluster : Nat)
  | streamUnit (wing : Nat)
  | sketchUnit (wing : Nat)
deriving DecidableEq, Repr

/-- An access to a supervisor or function register that has no row of its own (R20, R199, R254, R317, R335), or an action
of the supervisor OS on the structures it owns. -/
inductive RegWrite where
  /-- A supervisor core's load (no value) or store of 1, 2, 4 or 8 bytes at a supervisor physical address (R20). -/
  | super (core addr bytes : Nat) (val : Option Reg)
  /-- A host's read (no value) or write of 4 or 8 bytes in memory window 0 of a function, 1 to 16 for partitions 0 to 15
  (R317). -/
  | host (fn offset bytes : Nat) (val : Option Reg)
  /-- A submission queue's base, ENTRIES and priority cap. -/
  | queue (part q base entries cap : Nat)
  /-- A page installed in a partition's page table, or removed. -/
  | pageMap (part : Nat) (page : PageSpec)
  | pageUnmap (part vbase : Nat)
  /-- An engine context created with its owner and declared scope. -/
  | context (wing ctx part scope : Nat)
  /-- A partition's memory for heat blocks: base address and bytes (R265). -/
  | heatArea (part base bytes : Nat)
  /-- A translation installed for a device behind a root port (R19). -/
  | deviceMap (device : Nat) (page : PageSpec)
  /-- The sealed clock (R315). -/
  | sealedClock (mhz : Nat)
  /-- The arithmetic clock raised again by the power core (R25). -/
  | clock (mhz : Nat)
deriving DecidableEq, Repr

/-- The steps: 148 instruction rows, then 86 event rows, in the order of the table. -/
inductive Instr where
  /-- NOP (R74). -/
  | nop (cls : BitVec 3) (f : Fields)
  /-- IADD (R110). -/
  | iadd (f : Fields)
  /-- ISUB (R110). -/
  | isub (f : Fields)
  /-- IMUL (R110). -/
  | imul (f : Fields)
  /-- IMULH (R110). -/
  | imulh (f : Fields)
  /-- IMAD (R110). -/
  | imad (f : Fields)
  /-- IADDC (R111). -/
  | iaddc (f : Fields)
  /-- IMIN (R110). -/
  | imin (f : Fields)
  /-- IMAX (R110). -/
  | imax (f : Fields)
  /-- IABS (R110). -/
  | iabs (f : Fields)
  /-- INEG (R110). -/
  | ineg (f : Fields)
  /-- IDOT4 (R112). -/
  | idot4 (f : Fields)
  /-- ICMP (R113). -/
  | icmp (f : Fields)
  /-- AND (R114). -/
  | and (f : Fields)
  /-- OR (R114). -/
  | or (f : Fields)
  /-- XOR (R114). -/
  | xor (f : Fields)
  /-- ANDN (R114). -/
  | andn (f : Fields)
  /-- NOT (R114). -/
  | not (f : Fields)
  /-- BITF (R114). -/
  | bitf (f : Fields)
  /-- SHL (R115). -/
  | shl (f : Fields)
  /-- SHR (R115). -/
  | shr (f : Fields)
  /-- SAR (R115). -/
  | sar (f : Fields)
  /-- ROL (R115). -/
  | rol (f : Fields)
  /-- CLZ (R115). -/
  | clz (f : Fields)
  /-- FFS (R115). -/
  | ffs (f : Fields)
  /-- POPC (R115). -/
  | popc (f : Fields)
  /-- BREV (R115). -/
  | brev (f : Fields)
  /-- BFX (R116). -/
  | bfx (f : Fields)
  /-- BFI (R116). -/
  | bfi (f : Fields)
  /-- FADD (R117). -/
  | fadd (f : Fields)
  /-- FSUB (R117). -/
  | fsub (f : Fields)
  /-- FMUL (R117). -/
  | fmul (f : Fields)
  /-- FFMA (R117). -/
  | ffma (f : Fields)
  /-- FMIN (R117). -/
  | fmin (f : Fields)
  /-- FMAX (R117). -/
  | fmax (f : Fields)
  /-- FCMP (R118). -/
  | fcmp (f : Fields)
  /-- FRND (R117). -/
  | frnd (f : Fields)
  /-- FCLASS (R119). -/
  | fclass (f : Fields)
  /-- FSCALE (R117). -/
  | fscale (f : Fields)
  /-- FRCP (R120). -/
  | frcp (f : Fields)
  /-- FRSQ (R120). -/
  | frsq (f : Fields)
  /-- FSQRT (R120). -/
  | fsqrt (f : Fields)
  /-- FDIV (R120). -/
  | fdiv (f : Fields)
  /-- FEXP2 (R120). -/
  | fexp2 (f : Fields)
  /-- FLOG2 (R120). -/
  | flog2 (f : Fields)
  /-- FSINP (R120). -/
  | fsinp (f : Fields)
  /-- FCOSP (R120). -/
  | fcosp (f : Fields)
  /-- FTANH (R120). -/
  | ftanh (f : Fields)
  /-- CVT (R122). -/
  | cvt (f : Fields)
  /-- CVTQ (R122). -/
  | cvtq (f : Fields)
  /-- CVTD (R122). -/
  | cvtd (f : Fields)
  /-- AMXRD (R123). -/
  | amxrd (f : Fields)
  /-- AMXSET (R123). -/
  | amxset (f : Fields)
  /-- PACK (R124). -/
  | pack (f : Fields)
  /-- UNPK (R124). -/
  | unpk (f : Fields)
  /-- MOV (R125). -/
  | mov (f : Fields)
  /-- MOVI (R125). -/
  | movi (f : Fields)
  /-- SEL (R126). -/
  | sel (f : Fields)
  /-- BPICK (R126). -/
  | bpick (f : Fields)
  /-- MOVU (R125). -/
  | movu (f : Fields)
  /-- PMOV (R127). -/
  | pmov (f : Fields)
  /-- LXCH (R129). -/
  | lxch (f : Fields)
  /-- POLL (R130). -/
  | poll (f : Fields)
  /-- RFAL (R131). -/
  | rfal (f : Fields)
  /-- PEERS (R132). -/
  | peers (f : Fields)
  /-- LFOLD (R133). -/
  | lfold (f : Fields)
  /-- SCAN (R134). -/
  | scan (f : Fields)
  /-- UADD (R136). -/
  | uadd (f : Fields)
  /-- USUB (R136). -/
  | usub (f : Fields)
  /-- UMUL (R136). -/
  | umul (f : Fields)
  /-- UMULH (R136). -/
  | umulh (f : Fields)
  /-- UMAD (R136). -/
  | umad (f : Fields)
  /-- UMIN (R136). -/
  | umin (f : Fields)
  /-- UMAX (R136). -/
  | umax (f : Fields)
  /-- UAND (R136). -/
  | uand (f : Fields)
  /-- UOR (R136). -/
  | uor (f : Fields)
  /-- UXOR (R136). -/
  | uxor (f : Fields)
  /-- USHL (R136). -/
  | ushl (f : Fields)
  /-- USHR (R136). -/
  | ushr (f : Fields)
  /-- USAR (R136). -/
  | usar (f : Fields)
  /-- UMOV (R136). -/
  | umov (f : Fields)
  /-- UMOVI (R136). -/
  | umovi (f : Fields)
  /-- USEL (R136). -/
  | usel (f : Fields)
  /-- UCMP (R136). -/
  | ucmp (f : Fields)
  /-- ULD (R137). -/
  | uld (f : Fields)
  /-- USREAD (R138). -/
  | usread (f : Fields)
  /-- LD (R187). -/
  | ld (f : Fields)
  /-- ST (R187). -/
  | st (f : Fields)
  /-- ATOM (R189). -/
  | atom (f : Fields)
  /-- RED (R189). -/
  | red (f : Fields)
  /-- FENCE (R191). -/
  | fence (f : Fields)
  /-- PREF (R192). -/
  | pref (f : Fields)
  /-- CCTL (R193). -/
  | cctl (f : Fields)
  /-- CPA (R194). -/
  | cpa (f : Fields)
  /-- CPT (R195). -/
  | cpt (f : Fields)
  /-- BSEAL (R197). -/
  | bseal (f : Fields)
  /-- BWAIT (R198). -/
  | bwait (f : Fields)
  /-- GATH (R200). -/
  | gath (f : Fields)
  /-- COLL (R202). -/
  | coll (f : Fields)
  /-- TLWAIT (R203). -/
  | tlwait (f : Fields)
  /-- TLRD (R203). -/
  | tlrd (f : Fields)
  /-- MMA (R147). -/
  | mma (f : Fields)
  /-- MZERO (R151). -/
  | mzero (f : Fields)
  /-- ACLD (R152). -/
  | acld (f : Fields)
  /-- ACST (R152). -/
  | acst (f : Fields)
  /-- ACRD (R155). -/
  | acrd (f : Fields)
  /-- ACWR (R156). -/
  | acwr (f : Fields)
  /-- PLANE (R157). -/
  | plane (f : Fields)
  /-- MCOEF (R163). -/
  | mcoef (f : Fields)
  /-- MPOLY (R164). -/
  | mpoly (f : Fields)
  /-- MITER (R166). -/
  | miter (f : Fields)
  /-- MNORM (R172). -/
  | mnorm (f : Fields)
  /-- MISTAT (R173). -/
  | mistat (f : Fields)
  /-- VIEW (R284). -/
  | view (f : Fields)
  /-- VIEWL (R284). -/
  | viewl (f : Fields)
  /-- VSTAT (R288). -/
  | vstat (f : Fields)
  /-- NDALLOC (R263). -/
  | ndalloc (f : Fields)
  /-- NDEMIT (R264). -/
  | ndemit (f : Fields)
  /-- NDDONE (R266). -/
  | nddone (f : Fields)
  /-- NDLAUNCH (R266). -/
  | ndlaunch (f : Fields)
  /-- BRA (R226). -/
  | bra (f : Fields)
  /-- BRA_GUARDED (R32). -/
  | braGuarded (f : Fields)
  /-- BRX (R227). -/
  | brx (f : Fields)
  /-- PAD (R229). -/
  | pad (f : Fields)
  /-- CALL (R230). -/
  | call (f : Fields)
  /-- CALLX (R227). -/
  | callx (f : Fields)
  /-- RET (R231). -/
  | ret (f : Fields)
  /-- LOOP (R232). -/
  | loop (f : Fields)
  /-- EXIT (R235). -/
  | exit (f : Fields)
  /-- REGANG (R31). -/
  | regang (f : Fields)
  /-- YIELD (R237). -/
  | yield (f : Fields)
  /-- KWAIT (R238). -/
  | kwait (f : Fields)
  /-- BARINIT (R240). -/
  | barinit (f : Fields)
  /-- BARARV (R241). -/
  | bararv (f : Fields)
  /-- BARWAIT (R243). -/
  | barwait (f : Fields)
  /-- BARXB (R241). -/
  | barxb (f : Fields)
  /-- BARSYNC (R243). -/
  | barsync (f : Fields)
  /-- PACE (R245). -/
  | pace (f : Fields)
  /-- PACERD (R246). -/
  | pacerd (f : Fields)
  /-- SIGCHK (R247). -/
  | sigchk (f : Fields)
  /-- TRAP (R327). -/
  | trap (f : Fields)
  /-- BRK (R328). -/
  | brk (f : Fields)
  /-- SREAD (R329). -/
  | sread (f : Fields)
  /-- SWRITE (R329). -/
  | swrite (f : Fields)
  /-- TRET (R330). -/
  | tret (f : Fields)
  /-- TRET_SKIP (R330). -/
  | tretSkip (f : Fields)
  /-- CHKPT (R331). -/
  | chkpt (f : Fields)
  /-- DEADRD (R332). -/
  | deadrd (f : Fields)
  /-- PACKAGE_RESET (R24): Power-on or management reset runs the verified start-up sequence of the package. -/
  | packageReset (b : Boot)
  /-- POWER_LIMIT_THROTTLE (R25): Power core lowers the arithmetic clock to hold 2,200 W. -/
  | powerLimitThrottle (mhz : Nat)
  /-- CLIENT_PORT_READY (R22): Supervisor OS declares the client port ready, ending retry responses. -/
  | clientPortReady 
  /-- CLIENT_CONFIG_REQUEST (R22): A configuration request on the client port, retried until ready or during reset. -/
  | clientConfigRequest (fn : Nat)
  /-- CLIENT_LINK_RESET (R22): Conventional or hot reset of the client link resets every live partition. -/
  | clientLinkReset 
  /-- FUNCTION_LEVEL_RESET (R319): Resets one partition: ends its work, zeroes state, rekeys and returns it to off. -/
  | functionLevelReset (fn : Nat)
  /-- BACKGROUND_SCRUB_END (R311): Background scrub of a key id finishes, freeing its ids and slots and releasing waiting rekeys. -/
  | backgroundScrubEnd (key : Nat)
  /-- PARTITION_RESET_END (R319): Outstanding work drained, the reset completes and STATE returns to 0. -/
  | partitionResetEnd (part : Nat)
  /-- DOORBELL (R254): Host writes a queue's tail index, or sets ERR for a bad tail. -/
  | doorbell (part q tail : Nat)
  /-- SUBMISSION_ENTRY_READ (R257): Device reads a submission entry and checks its graph, refusing or accepting it. -/
  | submissionEntryRead (part q : Nat)
  /-- BLOCK_PLACEMENT (R259): The ready pool places a block on a fitting cluster when room exists. -/
  | blockPlacement (launch : Nat)
  /-- HEAD_OF_LEVEL_TIMEOUT (R259): A block unplaced for 1 ms blocks lower-level placement on its soonest wing. -/
  | headOfLevelTimeout (launch : Nat)
  /-- BLOCK_END (R46): A block whose gangs and copies have ended releases its resources and writes at domain scope. -/
  | blockEnd (block : Nat)
  /-- HEAT_TIMEOUT (R265): TIMEOUT cycles after its first record, an open heat launches. -/
  | heatTimeout (graph node : Nat)
  /-- EASEL_CYCLE (R248): Each cycle the easel chooses one ready gang and agent to issue, and counts a stall reason. -/
  | easelCycle (easel : Nat)
  /-- GANG_PROMOTION (R250): A pending gang ready for 256 cycles replaces an idle active gang. -/
  | gangPromotion (easel : Nat)
  /-- RESIDENCY_LIMIT (R250): A pending gang ready for 4,096 cycles replaces the longest active gang. -/
  | residencyLimit (easel : Nat)
  /-- RESULT_WRITEBACK (R80): A fixed-latency result lands exactly L cycles after issue. -/
  | resultWriteback (gang : Nat)
  /-- BAR_STARVED (R244): A barrier-starved block's waiting agent traps within 4,096 cycles. -/
  | barStarved (gang : Nat) (slice : Option Nat)
  /-- LOAD_SECTOR_ARRIVAL (R184): A returned sector is written into lane registers; the last one decrements the token. -/
  | loadSectorArrival (op lane : Nat)
  /-- STORE_PERFORMED (R187): A store is performed at its scope and its token, if any, is decremented. -/
  | storePerformed (op lane : Nat)
  /-- ATOMIC_PERFORM (R190): The home slice arbiter performs an atomic and returns its old value. -/
  | atomicPerform (op lane : Nat)
  /-- SPECIAL_FUNCTION_DELIVERY (R120): A special-function result is written and its token decremented. -/
  | specialFunctionDelivery (op : Nat)
  /-- FENCE_COMPLETE (R191): A fence's conditions are met, freeing later memory operations. -/
  | fenceComplete (op : Nat)
  /-- COPY_COMPLETE (R196): A copy finishes its writes, releases at block scope and subtracts from its barrier. -/
  | copyComplete (op : Nat)
  /-- STREAM_OP_COMPLETE (R200): A stream-engine operation completes and the timeline advances. -/
  | streamOpComplete (wing ctx num : Nat)
  /-- MATRIX_ENTRY_COMPLETE (R142): A matrix-engine entry finishes its band and frees its queue place. -/
  | matrixEntryComplete (op : Nat)
  /-- ACRD_DELIVERY (R155): An ACRD entry performed in engine order writes lanes and decrements its token. -/
  | acrdDelivery (op : Nat)
  /-- MITER_UNIT (R166): One indivisible MITER unit runs, possibly stopping with a status. -/
  | miterUnit (op : Nat)
  /-- SKETCH_TURN (R268): The traversal unit takes one fetch or triangle test for the next slot in rotation. -/
  | sketchTurn (wing : Nat)
  /-- SHADING_GANG_START (R290): A shading gang starts when a place of its level is free. -/
  | shadingGangStart (view : Nat)
  /-- VIEW_DELIVERY (R285): A view's tile, status and token land in one event and its slot is freed. -/
  | viewDelivery (view : Nat)
  /-- FAULT_RESOLVE (R182): The supervisor resolves a parked fault. -/
  | faultResolve (park : Nat) (pages : List PageSpec)
  /-- FAULT_DECLINE (R333): The supervisor declines a fault, moving lanes to the refused mask. -/
  | faultDecline (park : Nat)
  /-- PARK_REPLAY (R333): A resolved park replays the instruction for its unfinished lanes. -/
  | parkReplay (park : Nat)
  /-- PAGE_MIGRATION (R334): The memory core moves a page to a new home as one operation. -/
  | pageMigration (part vbase pbase : Nat)
  /-- SUPERVISOR_END_BLOCK (R325): The supervisor ends a block after an escalated trap or call. -/
  | supervisorEndBlock (block : Nat)
  /-- SUPERVISOR_RESUME (R325): The supervisor resumes a parked agent at TRAPPC or after a TRAP. -/
  | supervisorResume (gang : Nat) (slice : Option Nat) (writes : List (Nat × Reg))
  /-- SUPERVISOR_RESUME_SKIP (R325): The supervisor resumes a parked agent after the trapped instruction. -/
  | supervisorResumeSkip (gang : Nat) (slice : Option Nat)
  /-- PREEMPT_ADAPTIVE (R336): Pre-emption request in adaptive mode chooses drain, flush or save per block. -/
  | preemptAdaptive (request : Reg)
  /-- PREEMPT_SAVE (R339): Pre-emption request in save mode saves every block on the cluster. -/
  | preemptSave (request : Reg)
  /-- PREEMPT_FLUSH (R338): Pre-emption request flushing blocks where allowed and saving the rest. -/
  | preemptFlush (request : Reg)
  /-- DRAIN_TIMEOUT (R336): A drained block not ended within DRAIN cycles is flushed or saved. -/
  | drainTimeout (block : Nat)
  /-- BLOCK_SAVED (R340): A block's in-flight work has settled and its context is written to the save area. -/
  | blockSaved (block : Nat)
  /-- BLOCK_RESTORE (R341): A saved block is placed and its context checked and reinstated. -/
  | blockRestore (addr cluster : Nat)
  /-- PARTITION_TABLE_WRITE (R305): A write to a partition entry is applied whole or refused with a cause. -/
  | partitionTableWrite (part word : Nat) (val : Reg)
  /-- REGISTER_WRITE (R20): A write to any other supervisor or function register without its own row. -/
  | registerWrite (w : RegWrite)
  /-- MSIX_UNMASK (R318): Unmasking an MSI-X entry with its pending bit set sends the message. -/
  | msixUnmask (part vector : Nat)
  /-- IRQ_WINDOW (R318): A new 10 µs window lets pending messages leave within the budget. -/
  | irqWindow 
  /-- MAILBOX_MESSAGE (R358): A firmware core's mailbox delivers a message from another core. -/
  | mailboxMessage (core : Nat) (msg : Option MailMsg)
  /-- CORRECTABLE_ERROR (R347): A correctable error is repaired and counted. -/
  | correctableError (e : ErrSite)
  /-- UNCORRECTABLE_ERROR (R343): An uncorrectable error poisons its grain and is reported. -/
  | uncorrectableError (e : ErrSite)
  /-- MATRIX_ENGINE_FAIL (R159): A failed matrix engine discards its work and marks the cluster. -/
  | matrixEngineFail (cluster : Nat)
  /-- MATRIX_RETEST (R351): A supervisor-requested self-test of a matrix engine. -/
  | matrixRetest (cluster : Nat) (pass : Bool)
  /-- TWIN_STORE_COMPARE (R349): Once both twin copies issue an outward operation, their signatures are compared. -/
  | twinStoreCompare (gang slice : Nat)
  /-- FLIT_CRC_FAIL (R352): A flit fails its CRC and is replayed with all later flits. -/
  | flitCrcFail (link : Link)
  /-- EYE_MARGIN_LOW (R353): A lane margin below threshold steps the port rate down. -/
  | eyeMarginLow (link : Link)
  /-- SYMBOL_COUNT_EXCEEDED (R353): More than 1,024 corrected symbols in 10 ms steps the port down. -/
  | symbolCountExceeded (link : Link)
  /-- RETRAIN_COMPLETE (R353): A port finishes retraining and resumes sending held flits. -/
  | retrainComplete (link : Link)
  /-- RETRAIN_REQUEST (R353): The supervisor asks a port to retrain, allowing a step up. -/
  | retrainRequest (link : Link) (up : Bool)
  /-- SIGNAL_LOSS (R356): A port loses its signal and its plane dies. -/
  | signalLoss (plane : Nat)
  /-- QUIESCE (R356): A QUIESCE message with dead planes starts or restarts a rehash. -/
  | quiesce (planes : Nat)
  /-- REHASH_DRAIN_DONE (R356): Outstanding live-plane requests answered, lost requests replayed and the new map installed. -/
  | rehashDrainDone (gone : List Nat)
  /-- REHASH_RESUME (R356): Every package has installed the map and held requests go out. -/
  | rehashResume 
  /-- GET_VERSION (R362): SPDM GET_VERSION request. -/
  | getVersion 
  /-- GET_CAPABILITIES (R362): SPDM GET_CAPABILITIES request. -/
  | getCapabilities (ver : Nat)
  /-- NEGOTIATE_ALGORITHMS (R362): SPDM NEGOTIATE_ALGORITHMS request. -/
  | negotiateAlgorithms (ver alg : Nat)
  /-- GET_DIGESTS (R362): SPDM GET_DIGESTS request. -/
  | getDigests 
  /-- GET_CERTIFICATE (R362): SPDM GET_CERTIFICATE request. `alg` is 256 times the negotiated version plus the negotiated algorithm, here and in the next two. -/
  | getCertificate (alg offset length : Nat)
  /-- CHALLENGE (R362): SPDM CHALLENGE request. -/
  | challenge (alg nonce : Nat)
  /-- GET_MEASUREMENTS (R362): SPDM GET_MEASUREMENTS request reporting the security core's measurements. -/
  | getMeasurements (alg index nonce : Nat)
  /-- SPDM_UNSUPPORTED_REQUEST (R362): Any other SPDM request is answered with ERROR, UnsupportedRequest. -/
  | spdmUnsupportedRequest (code : Nat)
  /-- REQUEST_FIRMWARE_DATA (R363): PLDM transfer of an image into a staging bank. -/
  | requestFirmwareData (component : Nat) (image : Image) (ok : Bool)
  /-- ACTIVATE_FIRMWARE (R364): Activation is decided against live save layouts and applied or deferred. -/
  | activateFirmware (component : Nat)
  /-- GET_STATUS (R364): PLDM GetStatus reports update state, including a deferred activation. -/
  | getStatus 
  /-- CANCEL_UPDATE (R363): A cancelled update leaves the active image and measurements unchanged. -/
  | cancelUpdate (component : Nat)
  /-- FIRMWARE_RESTART_DONE (R365): The firmware cores finish restarting from the new image and placement resumes. -/
  | firmwareRestartDone 
  /-- SUPERVISOR_OS_RESTART (R365): Supervisor OS restart activates a staged component 2 image. -/
  | supervisorOsRestart 
  /-- UNASSIGNED_OPCODE (R74): Issuing a word with opcode 0x7F or an opcode that no table lists raises ILLEGAL_OP at issue. -/
  | unassignedOpcode (cls : BitVec 3) (op : BitVec 7) (f : Fields)
  /-- CCTL_COMPLETE (R193): A CCTL has treated every line of its range and its named token is decremented. -/
  | cctlComplete (op : Nat)
  /-- CODE_FETCH_ARRIVAL (R67): A fetched code word arrives, so the agent can become ready; a poisoned word raises SOFT. -/
  | codeFetchArrival (gang : Nat) (slice : Option Nat) (poisoned : Bool)
  /-- QUEUE_RESET (R254): The supervisor OS resets a submission queue whose ERR is set, so the queue reads entries again. -/
  | queueReset (part q : Nat)
  /-- SAVED_CONTEXT_DISCARD (R364): The supervisor OS discards a live saved context, so its layout no longer blocks an activation. -/
  | savedContextDiscard (addr : Nat)
  /-- POWER_REMOVAL (R22): Power is removed from the package, ending all activity until power returns and the package resets. -/
  | powerRemoval 
  /-- CLIENT_LINK_DOWN (R23): The client-port link goes down, while the management interface stays usable. -/
  | clientLinkDown 
  /-- ROOT_PORT_DEVICE_ACCESS (R19): A device behind a root port accesses package memory through translations that the supervisor OS installed for it. -/
  | rootPortDeviceAccess (device addr : Nat) (write : Option (List (BitVec 8))) (bytes : Nat)
deriving DecidableEq, Repr

end Sys2Proof
end

