-- ==== Sys2Proof/Config.lean ====
section
/-!
DEFINITION. Config.lean: what the part fixes (its geometry) and the free values, opaque constants with no
body: whatever the spec leaves open is one of these, and no proof can see its value.
-/

namespace Sys2Proof.Config

/-! ### Geometry (R8 to R11) -/

def wings : Nat := 48
def clusters : Nat := 192
def easels : Nat := 768
def spans : Nat := 12
/-- Bytes of an HBM stack (R11). -/
def stackBytes : Nat := 0x1400000000
/-- Scratchpad bytes of a cluster (R8). -/
def scratchBytes : Nat := 524288
/-- Register-file bytes of an easel (R8). -/
def regFileBytes : Nat := 196608

/-- An L2 slice: bytes, ways, and sets of 256-byte lines (R8, R312). -/
def l2Bytes : Nat := 8388608
def l2Ways : Nat := 16
def l2Sets : Nat := l2Bytes / (256 * l2Ways)

/-! ### Free values -/

/-- A free choice among `n` candidates, by the number of the choice taken (log 3). -/
opaque pick : Nat → Nat → Nat

/-- Which elements of a register a short read or a racing write takes from the older value: a 64-bit mask by
choice number, register key and lane (R83, R85; log 4). -/
opaque mixMask : Nat → Nat → Nat → BitVec 64

/-- The pair of 256-bit keys that a key id holds in an epoch, drawn from the hardware's random source (R308, R311; log 13). -/
opaque keyPair : Nat → Nat → BitVec 512

/-- The set of a wing's L2 slice in which a line stands, before reduction to the number of sets (R312; log 84). -/
opaque l2Set : Nat → Nat → Nat

/-- Which of its values a fetch gives of a code word that was written while its code ran, by choice number and address (R67;
log 67). -/
opaque oldCode : Nat → Nat → Nat

/-- Which of the sights that an engine operation had of an element it takes, by choice number, operation and element (R143, R196,
R200; log 36). -/
opaque sight : Nat → Nat → Nat → Nat

/-- A byte of a failed collective's result, where members did not give it, by choice number and address (R204; log 86). -/
opaque lostByte : Nat → Nat → Nat

/-- A cell of a palette tile that an engine's failure has lost, by choice number, block and cell (R159; log 96). -/
opaque lostCell : Nat → Nat → Nat → BitVec 64

/-- The words of a saved context whose contents are private to the firmware, by the number of the choice and the
word's place (R371; log 16). -/
opaque contextWord : Nat → Nat → Nat

/-- Where the dispatch core puts a heat block, as a number of 128-byte places of its area: by graph, node and SEQ
(R265; log 52). -/
opaque heatPlace : Nat → Nat → Nat → Nat

/-- SHA-384 (R359, R361; log 15). -/
opaque sha384 : List (BitVec 8) → BitVec 384

/-- Whether a signature verifies under the keys in boot ROM (R360; log 15). -/
opaque ed25519Verifies : List (BitVec 8) → List (BitVec 8) → Bool
opaque mldsaVerifies : List (BitVec 8) → List (BitVec 8) → Bool

/-- The boot ROM and the fuse configuration as measured (R361; log 15). -/
opaque bootRom : List (BitVec 8)
opaque fuses : List (BitVec 8)

/-- The images in the active banks as the part leaves the factory, by component 0 and 1: header and payload (R360; log 15). -/
opaque shippedHeader : Nat → List (BitVec 8)
opaque shippedPayload : Nat → List (BitVec 8)

/-- The device's answers that carry its identity: certificates and signatures (R362; log 15). -/
opaque spdmAnswer : String → List Nat → List Nat

end Sys2Proof.Config
end

