-- ==== Sys2Proof/Machine/Crypt.lean ====
section
/-!
DEFINITION. Machine/Crypt.lean: XTS-AES-256 of a 64-byte data unit, as IEEE 1619 and FIPS 197 define it (17 R308). Bytes are
numbers below 256, in the order in which they stand.
-/

namespace Sys2Proof.Machine

/-! ### AES-256 -/

/-- The substitution table. -/
def aesSubst : List Nat :=
  [0x63, 0x7C, 0x77, 0x7B, 0xF2, 0x6B, 0x6F, 0xC5, 0x30, 0x01, 0x67, 0x2B, 0xFE, 0xD7, 0xAB, 0x76] ++
  [0xCA, 0x82, 0xC9, 0x7D, 0xFA, 0x59, 0x47, 0xF0, 0xAD, 0xD4, 0xA2, 0xAF, 0x9C, 0xA4, 0x72, 0xC0] ++
  [0xB7, 0xFD, 0x93, 0x26, 0x36, 0x3F, 0xF7, 0xCC, 0x34, 0xA5, 0xE5, 0xF1, 0x71, 0xD8, 0x31, 0x15] ++
  [0x04, 0xC7, 0x23, 0xC3, 0x18, 0x96, 0x05, 0x9A, 0x07, 0x12, 0x80, 0xE2, 0xEB, 0x27, 0xB2, 0x75] ++
  [0x09, 0x83, 0x2C, 0x1A, 0x1B, 0x6E, 0x5A, 0xA0, 0x52, 0x3B, 0xD6, 0xB3, 0x29, 0xE3, 0x2F, 0x84] ++
  [0x53, 0xD1, 0x00, 0xED, 0x20, 0xFC, 0xB1, 0x5B, 0x6A, 0xCB, 0xBE, 0x39, 0x4A, 0x4C, 0x58, 0xCF] ++
  [0xD0, 0xEF, 0xAA, 0xFB, 0x43, 0x4D, 0x33, 0x85, 0x45, 0xF9, 0x02, 0x7F, 0x50, 0x3C, 0x9F, 0xA8] ++
  [0x51, 0xA3, 0x40, 0x8F, 0x92, 0x9D, 0x38, 0xF5, 0xBC, 0xB6, 0xDA, 0x21, 0x10, 0xFF, 0xF3, 0xD2] ++
  [0xCD, 0x0C, 0x13, 0xEC, 0x5F, 0x97, 0x44, 0x17, 0xC4, 0xA7, 0x7E, 0x3D, 0x64, 0x5D, 0x19, 0x73] ++
  [0x60, 0x81, 0x4F, 0xDC, 0x22, 0x2A, 0x90, 0x88, 0x46, 0xEE, 0xB8, 0x14, 0xDE, 0x5E, 0x0B, 0xDB] ++
  [0xE0, 0x32, 0x3A, 0x0A, 0x49, 0x06, 0x24, 0x5C, 0xC2, 0xD3, 0xAC, 0x62, 0x91, 0x95, 0xE4, 0x79] ++
  [0xE7, 0xC8, 0x37, 0x6D, 0x8D, 0xD5, 0x4E, 0xA9, 0x6C, 0x56, 0xF4, 0xEA, 0x65, 0x7A, 0xAE, 0x08] ++
  [0xBA, 0x78, 0x25, 0x2E, 0x1C, 0xA6, 0xB4, 0xC6, 0xE8, 0xDD, 0x74, 0x1F, 0x4B, 0xBD, 0x8B, 0x8A] ++
  [0x70, 0x3E, 0xB5, 0x66, 0x48, 0x03, 0xF6, 0x0E, 0x61, 0x35, 0x57, 0xB9, 0x86, 0xC1, 0x1D, 0x9E] ++
  [0xE1, 0xF8, 0x98, 0x11, 0x69, 0xD9, 0x8E, 0x94, 0x9B, 0x1E, 0x87, 0xE9, 0xCE, 0x55, 0x28, 0xDF] ++
  [0x8C, 0xA1, 0x89, 0x0D, 0xBF, 0xE6, 0x42, 0x68, 0x41, 0x99, 0x2D, 0x0F, 0xB0, 0x54, 0xBB, 0x16]

def aesSub (x : Nat) : Nat := aesSubst.getD x 0
/-- The inverse substitution: the place of a value in the table. -/
def aesUnsub (x : Nat) : Nat := (List.range 256).foldl (fun r i => if aesSub i = x then i else r) 0

/-- Doubling in the field of AES. -/
def aesDouble (x : Nat) : Nat := if x < 128 then 2 * x else (2 * x) % 256 ^^^ 0x1B

/-- A product in the field, by the eight bits of the second factor. -/
def aesMul (x y : Nat) : Nat :=
  ((List.range 8).foldl (fun (acc : Nat × Nat) i => (if y / 2 ^ i % 2 = 1 then acc.1 ^^^ acc.2 else acc.1, aesDouble acc.2)) (0, x)).1

def xorBytes (a b : List Nat) : List Nat := List.zipWith (· ^^^ ·) a b

/-- Byte `i` of a block comes from byte `f i`. -/
def permuted (f : Nat → Nat) (b : List Nat) : List Nat := (List.range 16).map (fun i => b.getD (f i) 0)

/-- ShiftRows: row `i % 4` of column `i / 4` comes from the column that many to the right; and its inverse. -/
def aesShift (b : List Nat) : List Nat := permuted (fun i => (i + 4 * (i % 4)) % 16) b
def aesUnshift (b : List Nat) : List Nat := permuted (fun i => (i + 16 - 4 * (i % 4)) % 16) b

/-- A column product by the four coefficients of its first row, which turn from row to row. -/
def aesMix (c : List Nat) (b : List Nat) : List Nat :=
  (List.range 16).map (fun i => (List.range 4).foldl (fun r k => r ^^^ aesMul (b.getD (4 * (i / 4) + k) 0) (c.getD ((k + 4 - i % 4) % 4) 0)) 0)

/-- One more word of the key schedule of a 256-bit key: `l` has the words so far, newest first. -/
def aesNextWord (l : List (List Nat)) (i : Nat) : List Nat :=
  let prev := l.headD []
  let t := if i % 8 = 0 then xorBytes ((prev.drop 1 ++ prev.take 1).map aesSub) [2 ^ (i / 8 - 1), 0, 0, 0]
           else if i % 8 = 4 then prev.map aesSub
           else prev
  xorBytes (l.getD 7 []) t

/-- The fifteen round keys of a 32-byte key. -/
def aesKeys (key : List Nat) : List (List Nat) :=
  let first := ((List.range 8).map (fun i => (key.drop (4 * i)).take 4)).reverse
  let all := ((List.range 52).foldl (fun l i => aesNextWord l (i + 8) :: l) first).reverse
  (List.range 15).map (fun r => ((all.drop (4 * r)).take 4).flatten)

/-- The cipher of one block under its round keys. -/
def aesEncrypt (ks : List (List Nat)) (b : List Nat) : List Nat :=
  let b0 := xorBytes b (ks.getD 0 [])
  let b13 := (List.range 13).foldl (fun b r =>
    xorBytes (aesMix [2, 3, 1, 1] (aesShift (b.map aesSub))) (ks.getD (r + 1) [])) b0
  xorBytes (aesShift (b13.map aesSub)) (ks.getD 14 [])

/-- The inverse cipher. -/
def aesDecrypt (ks : List (List Nat)) (b : List Nat) : List Nat :=
  let b14 := (aesUnshift (xorBytes b (ks.getD 14 []))).map aesUnsub
  let b1 := (List.range 13).foldl (fun b r =>
    (aesUnshift (aesMix [14, 11, 13, 9] (xorBytes b (ks.getD (13 - r) [])))).map aesUnsub) b14
  xorBytes b1 (ks.getD 0 [])

/-! ### XTS -/

/-- `n` bytes of a number, least significant first, and back. -/
def bytesOfNat (n v : Nat) : List Nat := (List.range n).map (fun i => v / 256 ^ i % 256)
def natOfBytes (l : List Nat) : Nat := l.foldr (fun b v => b + 256 * v) 0

/-- The next block's tweak: times the primitive element. -/
def xtsNext (t : List Nat) : List Nat :=
  let v := natOfBytes t
  bytesOfNat 16 (if v < 2 ^ 127 then 2 * v else (2 * v) % 2 ^ 128 ^^^ 0x87)

/-- A pair of 256-bit keys: the data key, then the tweak key. -/
def dataKey (k : BitVec 512) : List (List Nat) := aesKeys (bytesOfNat 32 (k.toNat % 2 ^ 256))
def tweakKey (k : BitVec 512) : List (List Nat) := aesKeys (bytesOfNat 32 (k.toNat / 2 ^ 256))

/-- The tweaks of a unit's four blocks; a unit's tweak value is its local physical address over 64 (R308). -/
def xtsTweaks (k : BitVec 512) (unit : Nat) : List (List Nat) :=
  let t0 := aesEncrypt (tweakKey k) (bytesOfNat 16 unit)
  let t1 := xtsNext t0
  let t2 := xtsNext t1
  [t0, t1, t2, xtsNext t2]

/-- A block cipher applied between its tweak. -/
def xtsBlock (f : List Nat → List Nat) (t b : List Nat) : List Nat := xorBytes (f (xorBytes b t)) t

/-- The 64 bytes of a unit, encrypted or decrypted by `f`, which takes the data key. -/
def xtsUnit (f : List (List Nat) → List Nat → List Nat) (k : BitVec 512) (unit : Nat) (l : List Nat) : List Nat :=
  ((List.range 4).map (fun j => xtsBlock (f (dataKey k)) ((xtsTweaks k unit).getD j []) ((l.drop (16 * j)).take 16))).flatten

def xtsEncrypt (k : BitVec 512) (unit : Nat) (l : List Nat) : List Nat := xtsUnit aesEncrypt k unit l
def xtsDecrypt (k : BitVec 512) (unit : Nat) (l : List Nat) : List Nat := xtsUnit aesDecrypt k unit l

end Sys2Proof.Machine
end

