-- ==== Sys2Proof/Machine/Num.lean ====
section
/-!
DEFINITION. Machine/Num.lean: number formats, exact values, rounding and conversion
(spec 05 R87 to R97 and 06 R121).
-/

namespace Sys2Proof.Machine

/-- The least non-negative residue of an integer modulo `2^w` (R6, helper Res). -/
def wrap (w : Nat) (x : Int) : Nat := (x % (2 ^ w : Int)).toNat

/-- The signed reading of a `w`-bit code (R93). -/
def sInt (w : Nat) (x : Nat) : Int :=
  if 2 * (x % 2 ^ w) < 2 ^ w then (x % 2 ^ w : Nat) else (x % 2 ^ w : Nat) - (2 ^ w : Int)

/-- An integer reading at a signedness (R93). -/
def readInt (w : Nat) (unsigned : Bool) (x : Nat) : Int :=
  if unsigned then (x % 2 ^ w : Nat) else sInt w x

/-- The least value of a `w`-bit integer type. -/
def loOf (w : Nat) (unsigned : Bool) : Int := if unsigned then 0 else -(2 ^ (w - 1) : Int)

/-- The largest value of a `w`-bit integer type. -/
def hiOf (w : Nat) (unsigned : Bool) : Int := if unsigned then 2 ^ w - 1 else 2 ^ (w - 1) - 1

/-- An integer limited to a `w`-bit type's range (R110). -/
def clampTo (w : Nat) (unsigned : Bool) (x : Int) : Int :=
  if x < loOf w unsigned then loOf w unsigned
  else if hiOf w unsigned < x then hiOf w unsigned else x

/-- A result with or without saturation, as a `w`-bit code (R110). -/
def narrow (w : Nat) (unsigned sat : Bool) (x : Int) : Nat :=
  wrap w (if sat then clampTo w unsigned x else x)

/-! ### Float values -/

/-- The value of a float code: a NaN, an infinity, or `±m·2^e` (R88 to R91). -/
inductive FVal where
  | nan
  | inf (neg : Bool)
  | fin (neg : Bool) (m : Nat) (e : Int)
deriving DecidableEq, Repr

/-- How a float format treats its top codes (R88, R90, R91). -/
inductive FloatKind where
  /-- IEEE rules: FP64, FP32, BF16, FP16. -/
  | ieee
  /-- GF8A: 0x80 is the only NaN, no infinity, no negative zero. -/
  | gf8a
  /-- GF8B: IEEE codes, but conversions clamp. -/
  | gf8b
  /-- GF6 and GF4: every code is finite. -/
  | allFinite
deriving DecidableEq, Repr

/-- A float format: exponent bits, fraction bits, bias (R87). -/
structure FFmt where
  ebits : Nat
  fbits : Nat
  bias : Int
  kind : FloatKind
deriving DecidableEq, Repr

def fp64 : FFmt := ⟨11, 52, 1023, .ieee⟩
def fp32 : FFmt := ⟨8, 23, 127, .ieee⟩
def bf16 : FFmt := ⟨8, 7, 127, .ieee⟩
def fp16 : FFmt := ⟨5, 10, 15, .ieee⟩
def gf8a : FFmt := ⟨4, 3, 7, .gf8a⟩
def gf8b : FFmt := ⟨5, 2, 15, .gf8b⟩
def gf6 : FFmt := ⟨3, 2, 3, .allFinite⟩
def gf4 : FFmt := ⟨2, 1, 1, .allFinite⟩

/-- The width of a float format in bits. -/
def FFmt.width (f : FFmt) : Nat := 1 + f.ebits + f.fbits

/-- The exponent of the format's smallest quantum (R94). -/
def FFmt.qmin (f : FFmt) : Int := 1 - f.bias - f.fbits

/-- The sign bit of a code. -/
def FFmt.signOf (f : FFmt) (x : Nat) : Bool := (x >>> (f.ebits + f.fbits)) % 2 == 1

/-- The raw exponent field of a code. -/
def FFmt.expOf (f : FFmt) (x : Nat) : Nat := (x >>> f.fbits) % 2 ^ f.ebits

/-- The raw fraction field of a code. -/
def FFmt.fracOf (f : FFmt) (x : Nat) : Nat := x % 2 ^ f.fbits

/-- The finite value of a code under R97, whatever the format's special codes. -/
def FFmt.finOf (f : FFmt) (x : Nat) : FVal :=
  if f.expOf x = 0 then .fin (f.signOf x) (f.fracOf x) f.qmin
  else .fin (f.signOf x) (2 ^ f.fbits + f.fracOf x) (f.qmin + (f.expOf x : Int) - 1)

/-- The value of a code (R88, R90, R91). -/
def FFmt.decode (f : FFmt) (x : Nat) : FVal :=
  match f.kind with
  | .allFinite => f.finOf x
  | .gf8a => if x % 256 = 0x80 then .nan else f.finOf x
  | .ieee | .gf8b =>
    if f.expOf x = 2 ^ f.ebits - 1 then
      if f.fracOf x = 0 then .inf (f.signOf x) else .nan
    else f.finOf x

/-- The sign bit placed in a code. -/
def FFmt.signBit (f : FFmt) (neg : Bool) : Nat := if neg then 2 ^ (f.ebits + f.fbits) else 0

/-- The canonical NaN code, or +0 where the format has none (R88, R90, R95). -/
def FFmt.nanCode (f : FFmt) : Nat :=
  match f.kind with
  | .ieee | .gf8b => (2 ^ f.ebits - 1) * 2 ^ f.fbits + 2 ^ (f.fbits - 1)
  | .gf8a => 0x80
  | .allFinite => 0

/-- The code of an infinity (IEEE kinds). -/
def FFmt.infCode (f : FFmt) (neg : Bool) : Nat :=
  f.signBit neg + (2 ^ f.ebits - 1) * 2 ^ f.fbits

/-- The largest finite code (R88, R90, R91). -/
def FFmt.maxCode (f : FFmt) (neg : Bool) : Nat :=
  f.signBit neg +
  match f.kind with
  | .ieee | .gf8b => (2 ^ f.ebits - 2) * 2 ^ f.fbits + (2 ^ f.fbits - 1)
  | .gf8a | .allFinite => 2 ^ (f.ebits + f.fbits) - 1

/-- The zero code of a sign (R95: GF8A has no negative zero). -/
def FFmt.zeroCode (f : FFmt) (neg : Bool) : Nat :=
  match f.kind with
  | .gf8a => 0
  | _ => f.signBit neg

/-- The four rounding modes (R94). -/
inductive RMode where
  | rne | rtz | rup | rdn
deriving DecidableEq, Repr

/-- The mode that RM codes (R71). -/
def rmodeOf (x : BitVec 2) : RMode :=
  if x = 0 then .rne else if x = 1 then .rtz else if x = 2 then .rup else .rdn

/-- Whether the magnitude is rounded away from zero: quotient `q`, remainder `r` of `2^k`. -/
def roundsUp (mode : RMode) (neg : Bool) (q r k : Nat) : Bool :=
  match mode with
  | .rne => decide (2 ^ k < 2 * r) || (decide (2 * r = 2 ^ k) && q % 2 == 1)
  | .rtz => false
  | .rup => !neg && decide (r ≠ 0)
  | .rdn => neg && decide (r ≠ 0)

/-- `m·2^e` rounded to a multiple of `2^q` (R94): the multiplier. -/
def roundAt (mode : RMode) (neg : Bool) (m : Nat) (e q : Int) : Nat :=
  if q ≤ e then m * 2 ^ (e - q).toNat
  else
    let k := (q - e).toNat
    let d := m / 2 ^ k
    if roundsUp mode neg d (m % 2 ^ k) k then d + 1 else d

/-- The IEEE overflow result goes to infinity (R95). -/
def overflowsToInf (mode : RMode) (neg : Bool) : Bool :=
  match mode with
  | .rne => true
  | .rtz => false
  | .rup => !neg
  | .rdn => neg

/-- What a value beyond the largest finite becomes (R95). -/
def FFmt.overflow (f : FFmt) (mode : RMode) (sat neg : Bool) : Nat :=
  match f.kind with
  | .ieee => if !sat && overflowsToInf mode neg then f.infCode neg else f.maxCode neg
  | _ => f.maxCode neg

/-- The largest exponent field of a finite code. -/
def FFmt.topExp (f : FFmt) : Nat :=
  match f.kind with
  | .ieee | .gf8b => 2 ^ f.ebits - 2
  | .gf8a | .allFinite => 2 ^ f.ebits - 1

/-- The code of the magnitude `s·2^q`, `q` its rounding quantum (R94, R95). -/
def FFmt.encodeSig (f : FFmt) (mode : RMode) (sat neg : Bool) (s : Nat) (q : Int) : Nat :=
  if s = 0 then f.zeroCode neg
  else if s < 2 ^ f.fbits then f.signBit neg + s
  else
    let s' := if s = 2 ^ (f.fbits + 1) then 2 ^ f.fbits else s
    let q' := if s = 2 ^ (f.fbits + 1) then q + 1 else q
    let ex := q' - f.qmin + 1
    if (f.topExp : Int) < ex then f.overflow mode sat neg
    else f.signBit neg + ex.toNat * 2 ^ f.fbits + (s' - 2 ^ f.fbits)

/-- A value rounded once to a float format: the code (R94, R95). -/
def FFmt.round (f : FFmt) (mode : RMode) (sat : Bool) : FVal → Nat
  | .nan => f.nanCode
  | .inf neg =>
    match f.kind with
    | .ieee => if sat then f.maxCode neg else f.infCode neg
    | _ => f.maxCode neg
  | .fin neg m e =>
    if m = 0 then f.zeroCode neg
    else
      let q := max (e + (m.log2 : Int) - f.fbits) f.qmin
      f.encodeSig mode sat neg (roundAt mode neg m e q) q

/-- INVALID of a float destination: a NaN into GF6 or GF4 (R95). -/
def FFmt.invalid (f : FFmt) : FVal → Bool
  | .nan => f.kind == .allFinite
  | _ => false

/-- RoundNE of R6 with SAT = 0. -/
def FFmt.ne (f : FFmt) (x : FVal) : Nat := f.round .rne false x

/-! ### Exact arithmetic on values -/

/-- The signed significand of a finite value. -/
def signed (neg : Bool) (m : Nat) : Int := if neg then -(m : Int) else m

/-- A finite value from a signed significand; a zero takes the sign `zneg`. -/
def ofSigned (zneg : Bool) (x : Int) (e : Int) : FVal :=
  .fin (if x = 0 then zneg else decide (x < 0)) x.natAbs e

def FVal.neg : FVal → FVal
  | .nan => .nan
  | .inf n => .inf (!n)
  | .fin n m e => .fin (!n) m e

def FVal.abs : FVal → FVal
  | .nan => .nan
  | .inf _ => .inf false
  | .fin _ m e => .fin false m e

def FVal.isNan : FVal → Bool
  | .nan => true
  | _ => false

def FVal.isZero : FVal → Bool
  | .fin _ m _ => m == 0
  | _ => false

def FVal.isNeg : FVal → Bool
  | .nan => false
  | .inf n => n
  | .fin n _ _ => n

/-- The value of an integer: zero is +0. -/
def FVal.ofInt (x : Int) : FVal := ofSigned false x 0

/-- The exact sum, with the IEEE sign of a zero sum (R117). -/
def FVal.add (mode : RMode) : FVal → FVal → FVal
  | .nan, _ => .nan
  | _, .nan => .nan
  | .inf a, .inf b => if a = b then .inf a else .nan
  | .inf a, _ => .inf a
  | _, .inf b => .inf b
  | .fin a m e, .fin b n g =>
    let q := min e g
    let x := signed a (m * 2 ^ (e - q).toNat) + signed b (n * 2 ^ (g - q).toNat)
    ofSigned (if a = b then a else mode == .rdn) x q

/-- The exact product (IEEE special cases). -/
def FVal.mul : FVal → FVal → FVal
  | .nan, _ => .nan
  | _, .nan => .nan
  | .inf a, .inf b => .inf (a != b)
  | .inf a, .fin b m _ => if m = 0 then .nan else .inf (a != b)
  | .fin a m _, .inf b => if m = 0 then .nan else .inf (a != b)
  | .fin a m e, .fin b n g => .fin (a != b) (m * n) (e + g)

/-- IEEE order of two numbers, zeros equal; none if one is a NaN (R118). -/
def FVal.cmp : FVal → FVal → Option Ordering
  | .nan, _ => none
  | _, .nan => none
  | .inf a, .inf b => some (if a = b then .eq else if a then .lt else .gt)
  | .inf a, _ => some (if a then .lt else .gt)
  | _, .inf b => some (if b then .gt else .lt)
  | .fin a m e, .fin b n g =>
    let q := min e g
    let x := signed a (m * 2 ^ (e - q).toNat)
    let y := signed b (n * 2 ^ (g - q).toNat)
    some (if x < y then .lt else if x = y then .eq else .gt)

/-- minimumNumber, with -0 below +0 (R117). -/
def FVal.minNum (x y : FVal) : FVal :=
  match x.cmp y with
  | none => if x.isNan then y else x
  | some .lt => x
  | some .gt => y
  | some .eq => if x.isNeg then x else y

/-- maximumNumber, with -0 below +0 (R117). -/
def FVal.maxNum (x y : FVal) : FVal :=
  match x.cmp y with
  | none => if x.isNan then y else x
  | some .gt => x
  | some .lt => y
  | some .eq => if x.isNeg then y else x

/-- A finite value rounded to an integer (R94). -/
def roundInt (mode : RMode) (neg : Bool) (m : Nat) (e : Int) : Int :=
  signed neg (roundAt mode neg m e 0)

/-- FRND: a value rounded to an integral value, its sign kept (R117). -/
def FVal.integral (mode : RMode) : FVal → FVal
  | .fin n m e => .fin n (roundAt mode n m e 0) 0
  | v => v

/-- A bound on an exponent scale: past it every format over- or underflows alike. -/
def scaleBound : Int := 8192

/-- `x·2^n`, exact as far as any format's rounding can tell (R117, FSCALE). -/
def FVal.scale (x : FVal) (n : Int) : FVal :=
  match x with
  | .fin s m e => .fin s m (e + max (-scaleBound) (min scaleBound n))
  | v => v

/-! ### Quotients and roots, to enough bits with a sticky low bit -/

/-- The square root digit by digit: `r` grows while its square stays within `n`. -/
def isqrtGo (n : Nat) : Nat → Nat → Nat
  | 0, r => r
  | i + 1, r => isqrtGo n i (if (r + 2 ^ i) * (r + 2 ^ i) ≤ n then r + 2 ^ i else r)

/-- The integer square root, rounded down. -/
def isqrt (n : Nat) : Nat := isqrtGo n (n.log2 / 2 + 1) 0

/-- A magnitude with a low bit that says whether anything was cut off. -/
def sticky (m : Nat) (inexact : Bool) : Nat := 2 * m + (if inexact then 1 else 0)

/-- Bits of headroom for quotients and roots. -/
def extraBits : Nat := 130

/-- `m/n` of finite non-zero magnitudes. -/
def quotMag (m n : Nat) : Nat :=
  sticky (m * 2 ^ extraBits / n) (decide (m * 2 ^ extraBits % n ≠ 0))

/-- IEEE division up to the final rounding (R120). -/
def FVal.div : FVal → FVal → FVal
  | .nan, _ => .nan
  | _, .nan => .nan
  | .inf _, .inf _ => .nan
  | .inf a, .fin b _ _ => .inf (a != b)
  | .fin a _ _, .inf b => .fin (a != b) 0 0
  | .fin a m e, .fin b n g =>
    if n = 0 then (if m = 0 then .nan else .inf (a != b))
    else .fin (a != b) (quotMag m n) (e - g - extraBits - 1)

/-- The square root of a finite positive `m·2^e`. -/
def sqrtFin (m : Nat) (e : Int) : FVal :=
  let m' := if e % 2 = 0 then m else 2 * m
  let e' := if e % 2 = 0 then e else e - 1
  let n := m' * 2 ^ (2 * extraBits)
  let r := isqrt n
  .fin false (sticky r (decide (r * r ≠ n))) (e' / 2 - extraBits - 1)

/-- FSQRT up to the final rounding (R120). -/
def FVal.sqrt : FVal → FVal
  | .nan => .nan
  | .inf n => if n then .nan else .inf false
  | .fin n m e => if m = 0 then .fin n 0 0 else if n then .nan else sqrtFin m e

/-- The reciprocal root of a finite positive `m·2^e`. -/
def rsqrtFin (m : Nat) (e : Int) : FVal :=
  let m' := if e % 2 = 0 then m else 2 * m
  let e' := if e % 2 = 0 then e else e - 1
  let k := extraBits + m'.log2
  let r := isqrt (2 ^ (2 * k) / m')
  .fin false (sticky r (decide (r * r * m' ≠ 2 ^ (2 * k)))) (-(e' / 2) - k - 1)

/-- FRSQ up to the final rounding (R120). -/
def FVal.rsqrt : FVal → FVal
  | .nan => .nan
  | .inf n => if n then .nan else .fin false 0 0
  | .fin n m e => if m = 0 then .inf n else if n then .nan else rsqrtFin m e

/-! ### Conversion types (R92, R95, R121) -/

/-- A type of the conversion instructions. -/
inductive NumTy where
  | flt (f : FFmt)
  | int (w : Nat) (unsigned : Bool)
  | int1
deriving DecidableEq, Repr

/-- The type a 5-bit code names; none for the codes R121 leaves out. -/
def tyOf (code : Nat) : Option NumTy :=
  match code with
  | 0 => some (.flt fp64)
  | 1 => some (.flt fp32)
  | 2 => some (.flt bf16)
  | 3 => some (.flt fp16)
  | 4 => some (.flt gf8a)
  | 5 => some (.flt gf8b)
  | 6 => some (.flt gf6)
  | 7 => some (.flt gf4)
  | 8 => some (.int 8 false)
  | 9 => some (.int 4 false)
  | 10 => some (.int 2 false)
  | 11 => some .int1
  | 16 => some (.int 8 false)
  | 17 => some (.int 16 false)
  | 18 => some (.int 32 false)
  | 19 => some (.int 64 false)
  | 20 => some (.int 8 true)
  | 21 => some (.int 16 true)
  | 22 => some (.int 32 true)
  | 23 => some (.int 64 true)
  | _ => none

def NumTy.width : NumTy → Nat
  | .flt f => f.width
  | .int w _ => w
  | .int1 => 1

/-- An exact value of a conversion's source. -/
inductive Num where
  | f (x : FVal)
  | i (x : Int)
deriving DecidableEq, Repr

/-- The value of a code at a type (R88 to R93). -/
def NumTy.decode (t : NumTy) (x : Nat) : Num :=
  match t with
  | .flt f => .f (f.decode x)
  | .int w u => .i (readInt w u x)
  | .int1 => .i (if x % 2 = 0 then 1 else -1)

/-- A value as a float value: an integer is exact. -/
def Num.toF : Num → FVal
  | .f x => x
  | .i x => .ofInt x

/-- A float value into an integer type: code and INVALID; the range is judged on the rounded value (R95; log 79). -/
def floatToInt (w : Nat) (unsigned : Bool) (mode : RMode) : FVal → Nat × Bool
  | .nan => (0, true)
  | .inf n => (wrap w (if n then loOf w unsigned else hiOf w unsigned), true)
  | .fin n m e =>
    let x := roundInt mode n m (max e (-20000))
    (wrap w (clampTo w unsigned x), decide (clampTo w unsigned x ≠ x))

/-- A value into INT1 (R95). -/
def toInt1 : Num → Nat × Bool
  | .f .nan => (0, true)
  | .f x => (if x.isNeg then 1 else 0, false)
  | .i x => (if x < 0 then 1 else 0, false)

/-- Convert (R95, R96): the destination code and INVALID. -/
def convert (t : NumTy) (mode : RMode) (sat : Bool) (x : Num) : Nat × Bool :=
  match t, x with
  | .flt f, x => (f.round mode sat x.toF, f.invalid x.toF)
  | .int1, x => toInt1 x
  | .int w u, .f x => floatToInt w u mode x
  | .int w u, .i x => (narrow w u sat x, decide (clampTo w u x ≠ x))

end Sys2Proof.Machine
end

