-- ==== Sys2Proof/Machine/Special.lean ====
section
/-!
DEFINITION. Machine/Special.lean: the exact functions behind FEXP2, FLOG2, FSINP, FCOSP and FTANH
(spec 06 R120). Each is computed in fixed point to far more bits than a .w element holds and then
rounded once; exact cases are separated first. DEDUCED: log 24 says why that is the correct rounding.
-/

namespace Sys2Proof.Machine

/-- Fraction bits of the fixed-point work. -/
def fxBits : Nat := 320

/-- One in fixed point. -/
def fxOne : Nat := 2 ^ fxBits

/-- `Σ z^(2k+1)/(2k+1)`: the inverse hyperbolic tangent of a fixed-point `z`. -/
def fxAtanhGo (z2 : Nat) : Nat → Nat → Nat → Nat → Nat
  | 0, _, _, acc => acc
  | n + 1, k, t, acc => fxAtanhGo z2 n (k + 2) (t * z2 / fxOne) (acc + t / k)

def fxAtanh (z : Nat) : Nat := fxAtanhGo (z * z / fxOne) 110 1 z 0

/-- ln 2 = 2·atanh(1/3). -/
def fxLn2 : Nat := 2 * fxAtanh (fxOne / 3)

/-- The alternating series of arctan(1/q), positive and negative terms apart. -/
def fxAtanGo (q2 : Nat) : Nat → Nat → Nat → Bool → Int → Int
  | 0, _, _, _, acc => acc
  | n + 1, k, t, plus, acc =>
    fxAtanGo q2 n (k + 2) (t / q2) (!plus) (if plus then acc + (t / k : Nat) else acc - (t / k : Nat))

/-- π = 16·arctan(1/5) - 4·arctan(1/239). -/
def fxPi : Nat :=
  (16 * fxAtanGo 25 90 1 (fxOne / 5) true 0 - 4 * fxAtanGo (239 * 239) 30 1 (fxOne / 239) true 0).toNat

/-- The exponential series of a fixed-point `x` below one. -/
def fxExpGo (x : Nat) : Nat → Nat → Nat → Nat → Nat
  | 0, _, _, acc => acc
  | n + 1, k, t, acc => fxExpGo x n (k + 1) (t * x / fxOne / k) (acc + t)

def fxExp (x : Nat) : Nat := fxExpGo x 80 1 fxOne 0

/-- The sine series of a fixed-point angle of at most π/2. -/
def fxSinGo (x2 : Nat) : Nat → Nat → Nat → Bool → Int → Int
  | 0, _, _, _, acc => acc
  | n + 1, k, t, plus, acc =>
    fxSinGo x2 n (k + 2) (t * x2 / fxOne / ((k + 1) * (k + 2))) (!plus)
      (if plus then acc + t else acc - t)

def fxSin (x : Nat) : Nat := (fxSinGo (x * x / fxOne) 45 1 x true 0).toNat

/-- A non-exact fixed-point result as a value: a sticky low bit marks it inexact. -/
def fxVal (neg : Bool) (m : Nat) (e : Int) : FVal := .fin neg (sticky m true) (e - fxBits - 1)

/-- A finite value's floor and fixed-point fraction; exact for every .h and .w value. -/
def fxFloor (neg : Bool) (m : Nat) (e : Int) : Int × Nat :=
  let x := signed neg (m * 2 ^ (e + fxBits).toNat)
  (x / (fxOne : Int), (x % (fxOne : Int)).toNat)

/-- 2^A (R120). -/
def FVal.exp2 : FVal → FVal
  | .nan => .nan
  | .inf n => if n then .fin false 0 0 else .inf false
  | .fin n m e =>
    if decide (m ≠ 0) && decide (8 ≤ e + (m.log2 : Int)) then .fin false 1 (if n then -1000 else 1000)
    else
      let p := fxFloor n m e
      if p.2 = 0 then .fin false 1 p.1 else fxVal false (fxExp (p.2 * fxLn2 / fxOne)) p.1

/-- log2 A (R120). -/
def FVal.log2 : FVal → FVal
  | .nan => .nan
  | .inf n => if n then .nan else .inf false
  | .fin n m e =>
    if m = 0 then .inf true
    else if n then .nan
    else
      let k := m.log2
      if m = 2 ^ k then .ofInt (e + k)
      else
        let f := m * 2 ^ (fxBits - k)
        let l := 2 * fxAtanh ((f - fxOne) * fxOne / (f + fxOne)) * fxOne / fxLn2
        let x := (e + k) * (fxOne : Int) + l
        fxVal (decide (x < 0)) x.natAbs 0

/-- sin(π·t) for `0 ≤ t < 2` in fixed point: exact zero and ±1 apart; `zneg` signs a zero. -/
def sinTurn (zneg neg : Bool) (t : Nat) : FVal :=
  let flip := decide (fxOne ≤ t)
  let u := if flip then t - fxOne else t
  let v := if fxOne < 2 * u then fxOne - u else u
  if v = 0 then .fin zneg 0 0
  else if 2 * v = fxOne then .fin (neg != flip) 1 0
  else fxVal (neg != flip) (fxSin (v * fxPi / fxOne)) 0

/-- A finite magnitude modulo 2 in fixed point. -/
def turnOf (m : Nat) (e : Int) : Nat := m * 2 ^ (e + fxBits).toNat % (2 * fxOne)

/-- sin(πA) (R120). -/
def FVal.sinPi : FVal → FVal
  | .nan => .nan
  | .inf _ => .nan
  | .fin n m e => sinTurn n n (turnOf m e)

/-- cos(πA) (R120). -/
def FVal.cosPi : FVal → FVal
  | .nan => .nan
  | .inf _ => .nan
  | .fin _ m e => sinTurn false false ((turnOf m e + fxOne / 2) % (2 * fxOne))

/-- tanh A (R120). -/
def FVal.tanh : FVal → FVal
  | .nan => .nan
  | .inf n => .fin n 1 0
  | .fin n m e =>
    if m = 0 then .fin n 0 0
    else if 5 ≤ e + (m.log2 : Int) then .fin n (2 ^ 200 - 1) (-200)
    else
      let y := 2 * (m * 2 ^ (e + fxBits).toNat) * fxOne / fxLn2
      let ex := fxExp (y % fxOne * fxLn2 / fxOne) * 2 ^ (y / fxOne)
      fxVal n ((ex - fxOne) * fxOne / (ex + fxOne)) 0

end Sys2Proof.Machine
end

