-- ==== Sys2Proof/Machine/Alu.lean ====
section
/-!
DEFINITION. Machine/Alu.lean: what the VEC and UNI instructions compute on 64-bit registers
(spec 06 R107 to R127). Elements are natural numbers below `2^W`; a register is their packing (05 R93).
-/

namespace Sys2Proof.Machine

/-- Element `k` of width `w` of a register (R93). -/
def elem (w k : Nat) (r : Reg) : Nat := r.toNat / 2 ^ (w * k) % 2 ^ w

/-- A register with element `k` of width `w` replaced. -/
def setElem (w k : Nat) (r : Reg) (v : Nat) : Reg :=
  let m := BitVec.ofNat 64 ((2 ^ w - 1) * 2 ^ (w * k))
  (r &&& ~~~m) ||| (BitVec.ofNat 64 (v * 2 ^ (w * k)) &&& m)

/-- The register whose element `k` of width `w` is `f k`, for `k` below `n`, and zero above. -/
def packN (w n : Nat) (f : Nat → Nat) : Reg :=
  BitVec.ofNat 64 ((List.range n).foldl (fun acc k => acc + (f k % 2 ^ w) * 2 ^ (w * k)) 0)

/-- The register whose every element of width `w` is given by `f`. -/
def packW (w : Nat) (f : Nat → Nat) : Reg := packN w (64 / w) f

/-- Which elements an operation writes: the whole form, or element `k` (R107). -/
structure Form where
  one : Bool
  k : Nat
deriving DecidableEq, Repr

/-- An elementwise result over the old destination (R107). -/
def Form.apply (fm : Form) (w : Nat) (old : Reg) (f : Nat → Nat) : Reg :=
  if fm.one then setElem w fm.k old (f fm.k) else packW w f

/-- Element 0, or element K in the single form (R113, R118). -/
def Form.key (fm : Form) : Nat := if fm.one then fm.k else 0

/-! ### Integer arithmetic (R110 to R113) -/

/-- The integer instructions of R110. -/
inductive IntOp where
  | add | sub | mul | mulh | mad | min | max | abs | neg
deriving DecidableEq, Repr

/-- One element of an integer instruction (R110). -/
def intOp (op : IntOp) (w : Nat) (u sat : Bool) (a b c : Nat) : Nat :=
  let x := readInt w u a
  let y := readInt w u b
  let z := readInt w u c
  match op with
  | .add => narrow w u sat (x + y)
  | .sub => narrow w u sat (x - y)
  | .mul => narrow w u sat (x * y)
  | .mulh => wrap w (x * y / (2 ^ w : Int))
  | .mad => narrow w u sat (x * y + z)
  | .min => wrap w (if x ≤ y then x else y)
  | .max => wrap w (if x ≤ y then y else x)
  | .abs => narrow w false sat (sInt w a).natAbs
  | .neg => narrow w false sat (-sInt w a)

/-- IADDC's carry chain over `n` elements from element `k` on (R111): sum and carry out. -/
def addcGo (w : Nat) (a b : Reg) : Nat → Nat → Reg → Nat → Reg × Nat
  | 0, _, d, cy => (d, cy)
  | n + 1, k, d, cy =>
    let t := elem w k a + elem w k b + cy
    addcGo w a b n (k + 1) (setElem w k d (t % 2 ^ w)) (t / 2 ^ w)

/-- IADDC in one lane (R111). -/
def addc (fm : Form) (w : Nat) (old a b : Reg) (cy : Bool) : Reg × Bool :=
  let r := if fm.one then addcGo w a b 1 fm.k old cy.toNat else addcGo w a b (64 / w) 0 old cy.toNat
  (r.1, r.2 != 0)

/-- IDOT4 on one .w element (R112). -/
def dot4 (ua ub sat : Bool) (a b c : Reg) (e : Nat) : Nat :=
  let u := ua && ub
  let t := (List.range 4).foldl
    (fun acc j => acc + readInt 8 ua (elem 8 (4 * e + j) a) * readInt 8 ub (elem 8 (4 * e + j) b))
    (readInt 32 u (elem 32 e c))
  narrow 32 u sat t

/-- An integer comparison (R113); codes 6 and 7 are refused at issue. -/
def icmp (code w : Nat) (u : Bool) (a b : Nat) : Bool :=
  let x := readInt w u a
  let y := readInt w u b
  match code with
  | 0 => decide (x = y)
  | 1 => decide (x ≠ y)
  | 2 => decide (x < y)
  | 3 => decide (x ≤ y)
  | 4 => decide (y < x)
  | _ => decide (y ≤ x)

/-! ### Logic, shifts and bit fields (R114 to R116) -/

/-- Logic on whole registers (R114). -/
inductive LogicOp where
  | and | or | xor | andn | not
deriving DecidableEq, Repr

def logic (op : LogicOp) (a b : Reg) : Reg :=
  match op with
  | .and => a &&& b
  | .or => a ||| b
  | .xor => a ^^^ b
  | .andn => a &&& ~~~b
  | .not => ~~~a

/-- BITF: the three-input table at every bit (R114). -/
def bitf (table : Nat) (a b c : Reg) : Reg :=
  packN 1 64 (fun i => table / 2 ^ (elem 1 i a + 2 * elem 1 i b + 4 * elem 1 i c))

/-- The shifts (R115). -/
inductive ShiftOp where
  | shl | shr | sar | rol
deriving DecidableEq, Repr

/-- One element of a shift; the count is taken modulo the width (R115). -/
def shift (op : ShiftOp) (w a b : Nat) : Nat :=
  let n := b % w
  match op with
  | .shl => a * 2 ^ n % 2 ^ w
  | .shr => a / 2 ^ n
  | .sar => wrap w (sInt w a / (2 ^ n : Int))
  | .rol => (a * 2 ^ n % 2 ^ w) + a / 2 ^ (w - n) % 2 ^ n

/-- The bit counts and the bit reversal (R115). -/
inductive BitOp where
  | clz | ffs | popc | brev
deriving DecidableEq, Repr

/-- The number of set bits among the lowest `n`. -/
def popcount (n x : Nat) : Nat := (List.range n).foldl (fun acc i => acc + x / 2 ^ i % 2) 0

/-- The index of the lowest set bit among bits `i`, `i+1`, ...; none left gives the next index. -/
def firstSet : Nat → Nat → Nat → Nat
  | 0, i, _ => i
  | n + 1, i, x => if x / 2 ^ i % 2 = 1 then i else firstSet n (i + 1) x

/-- One element of a bit count (R115). -/
def bitCount (op : BitOp) (w a : Nat) : Nat :=
  match op with
  | .clz => if a = 0 then w else w - 1 - a.log2
  | .ffs => firstSet w 0 a
  | .popc => popcount w a
  | .brev => (List.range w).foldl (fun acc i => acc + a / 2 ^ i % 2 * 2 ^ (w - 1 - i)) 0

/-- BFX on one element, control word `ctl` (R116). -/
def bfx (w : Nat) (s : Bool) (a ctl : Nat) : Nat :=
  let pos := ctl % 256
  let len := ctl / 256 % 256
  if w ≤ pos ∨ len = 0 then 0
  else
    let f := min len (w - pos)
    let x := a / 2 ^ pos % 2 ^ f
    if s then wrap w (sInt f x) else x

/-- BFI on one element, control word `ctl` (R116). -/
def bfi (w a b ctl : Nat) : Nat :=
  let pos := ctl % 256
  let len := ctl / 256 % 256
  if w ≤ pos ∨ len = 0 then a
  else
    let f := min len (w - pos)
    a % 2 ^ pos + b % 2 ^ f * 2 ^ pos + a / 2 ^ (pos + f) * 2 ^ (pos + f)

/-! ### Float arithmetic (R117 to R119) -/

/-- The float format of a width (R89). -/
def fmtOfW (w : Nat) : FFmt := if w = 16 then fp16 else if w = 32 then fp32 else fp64

/-- The float instructions of R117 with a rounded or selected result. -/
inductive FltOp where
  | add | sub | mul | fma | min | max | rnd | scale
deriving DecidableEq, Repr

/-- One element of a float instruction (R117). -/
def fltOp (op : FltOp) (w : Nat) (m : RMode) (a b c : Nat) : Nat :=
  let f := fmtOfW w
  let x := f.decode a
  let y := f.decode b
  let z := f.decode c
  match op with
  | .add => f.round m false (x.add m y)
  | .sub => f.round m false (x.add m y.neg)
  | .mul => f.round m false (x.mul y)
  | .fma => f.round m false ((x.mul y).add m z)
  | .min => f.ne (x.minNum y)
  | .max => f.ne (x.maxNum y)
  | .rnd => f.ne (x.integral m)
  | .scale => f.round m false (x.scale (sInt w b))

/-- A float comparison (R118): codes 0 to 5 compare, 6 asks for numbers, 7 for a NaN. -/
def fcmp (code w : Nat) (un : Bool) (a b : Nat) : Bool :=
  let f := fmtOfW w
  match (f.decode a).cmp (f.decode b) with
  | none => if code = 6 then false else if code = 7 then true else if code = 1 then true else un
  | some o =>
    match code with
    | 0 => o == .eq
    | 1 => o != .eq
    | 2 => o == .lt
    | 3 => o != .gt
    | 4 => o == .gt
    | 5 => o != .lt
    | 6 => true
    | _ => false

/-- The FCLASS mask of one element (R119). -/
def fclass (w a : Nat) : Nat :=
  let f := fmtOfW w
  match f.decode a with
  | .nan => if a / 2 ^ (f.fbits - 1) % 2 = 1 then 2 ^ 9 else 2 ^ 8
  | .inf n => if n then 2 ^ 0 else 2 ^ 7
  | .fin n m _ =>
    if m = 0 then (if n then 2 ^ 3 else 2 ^ 4)
    else if f.expOf a = 0 then (if n then 2 ^ 2 else 2 ^ 5)
    else (if n then 2 ^ 1 else 2 ^ 6)

/-- The special functions (R120). -/
inductive SpecOp where
  | rcp | rsq | sqrt | div | exp2 | log2 | sinp | cosp | tanh
deriving DecidableEq, Repr

/-- One element of a special function (R120). -/
def specOp (op : SpecOp) (w : Nat) (m : RMode) (a b : Nat) : Nat :=
  let f := fmtOfW w
  let x := f.decode a
  match op with
  | .rcp => f.round m false ((FVal.fin false 1 0).div x)
  | .rsq => f.ne x.rsqrt
  | .sqrt => f.round m false x.sqrt
  | .div => f.round m false (x.div (f.decode b))
  | .exp2 => f.ne x.exp2
  | .log2 => f.ne x.log2
  | .sinp => f.ne x.sinPi
  | .cosp => f.ne x.cosPi
  | .tanh => f.ne x.tanh

/-! ### Conversions (R122 to R124) -/

/-- How many elements a conversion converts (R122). -/
def cvtCount (src dst : NumTy) : Nat := min (64 / src.width) (64 / dst.width)

/-- The scaled source value `i` of a conversion: CVT has no scale (R122). -/
def cvtSource (src : NumTy) (scale : Option Nat) (a : Reg) (i : Nat) : Num :=
  let x := src.decode (elem src.width i a)
  match scale with
  | none => x
  | some s => .f (x.toF.mul (fp32.decode s))

/-- A conversion in one lane: D and whether any element is INVALID (R122). -/
def cvtLane (src dst : NumTy) (m : RMode) (sat : Bool) (scale : Option Nat) (a : Reg) : Reg × Bool :=
  let n := cvtCount src dst
  let one := fun i => convert dst m sat (cvtSource src scale a i)
  (packN dst.width n (fun i => (one i).1), (List.range n).any (fun i => (one i).2))

/-- AMAX after one value (R123). -/
def amaxStep (amax : Nat) (x : FVal) : Nat :=
  fp32.ne ((fp32.decode amax).maxNum (fp32.decode (fp32.round .rup false x.abs)))

/-- AMAX after the source elements of a conversion, before scaling (R122, R123). -/
def amaxLane (src dst : NumTy) (a : Reg) (amax : Nat) : Nat :=
  (List.range (cvtCount src dst)).foldl
    (fun acc i => amaxStep acc (src.decode (elem src.width i a)).toF) amax

/-- AMXSET's new AMAX (R123). -/
def amxset (a : Reg) : Nat := fp32.ne (fp32.decode (elem 32 0 a)).abs

/-- PACK in one lane (R124). -/
def packLane (w : Nat) (u sat : Bool) (a b : Reg) : Reg :=
  let m := 64 / w
  packN (w / 2) (2 * m) (fun i =>
    narrow (w / 2) u sat (readInt w u (if i < m then elem w i a else elem w (i - m) b)))

/-- UNPK in one lane (R124). -/
def unpkLane (w : Nat) (u h : Bool) (a : Reg) : Reg :=
  packW w (fun i => wrap w (readInt (w / 2) u (elem (w / 2) ((if h then 64 / w else 0) + i) a)))

/-! ### Moves and selection (R125, R126) -/

/-- The integer immediate of width `w` at every element (R75, R125). -/
def immInt (w imm : Nat) : Reg := packW w (fun _ => wrap w (sInt 16 imm))

/-- The float immediate at every element: an FP16 value widened exactly (R75). -/
def immFlt (w imm : Nat) : Reg := packW w (fun _ => (fmtOfW w).ne (fp16.decode imm))

/-- BPICK in one lane (R126). -/
def bpick (a b c : Reg) : Reg :=
  packN 8 8 (fun i =>
    let n := elem 4 i c
    if n < 8 then elem 8 n a else elem 8 (n - 8) b)

/-! ### Folds over lanes (R133) -/

/-- The combining operation of LFOLD and SCAN (R133). -/
def foldOp (fn w a b : Nat) : Nat :=
  match fn with
  | 0 => (a + b) % 2 ^ w
  | 1 => intOp .min w false false a b 0
  | 2 => intOp .max w false false a b 0
  | 3 => a &&& b
  | 4 => a ||| b
  | 5 => a ^^^ b
  | 6 => fltOp .add w .rne a b 0
  | 7 => fltOp .min w .rne a b 0
  | 8 => fltOp .max w .rne a b 0
  | 9 => intOp .min w true false a b 0
  | _ => intOp .max w true false a b 0

/-- Its identity (R133). -/
def foldId (fn w : Nat) : Nat :=
  match fn with
  | 1 => 2 ^ (w - 1) - 1
  | 2 => 2 ^ (w - 1)
  | 3 => 2 ^ w - 1
  | 6 => (fmtOfW w).zeroCode true
  | 7 => (fmtOfW w).nanCode
  | 8 => (fmtOfW w).nanCode
  | 9 => 2 ^ w - 1
  | _ => 0

/-- One level of the tree: neighbours combined (R133). -/
def pairUp (op : Nat → Nat → Nat) : List Nat → List Nat
  | a :: b :: rest => op a b :: pairUp op rest
  | rest => rest

/-- The tree over 32 positions (R133). -/
def lfoldTree (fn w : Nat) (v : List Nat) : Nat :=
  let t := (List.range 5).foldl (fun l _ => pairUp (foldOp fn w) l) v
  t.headD 0

end Sys2Proof.Machine
end

