-- ==== Sys2Proof/Machine/Map.lean ====
section
/-!
DEFINITION. Machine/Map.lean: sparse maps in one canonical form, the shape of every memory and register
file of the state: keys strictly rising, no entry equal to the zero that an unlisted key reads as.
-/

namespace Sys2Proof.Machine

/-- A sparse map of `w`-bit values by key. -/
abbrev SMap (w : Nat) := List (Nat × BitVec w)

/-- The value at a key; an unlisted key reads as zero. -/
def mapGet {w : Nat} : SMap w → Nat → BitVec w
  | [], _ => 0
  | (k, v) :: t, a => if k = a then v else mapGet t a

/-- The map without a key. -/
def mapDrop {w : Nat} (m : SMap w) (a : Nat) : SMap w := m.filter (fun p => decide (p.1 ≠ a))

/-- The map with one key's value set; a zero removes the entry. -/
def mapSet {w : Nat} : SMap w → Nat → BitVec w → SMap w
  | [], a, v => if v = 0 then [] else [(a, v)]
  | (k, x) :: t, a, v =>
    if k < a then (k, x) :: mapSet t a v
    else if v = 0 then mapDrop ((k, x) :: t) a
    else (a, v) :: mapDrop ((k, x) :: t) a

/-- The map with several keys set, in order. -/
def mapSetAll {w : Nat} (m : SMap w) (l : List (Nat × BitVec w)) : SMap w :=
  l.foldl (fun acc p => mapSet acc p.1 p.2) m

/-- The map without the keys of `lo ≤ key < hi`. -/
def mapClear {w : Nat} (m : SMap w) (lo hi : Nat) : SMap w :=
  m.filter (fun p => decide (p.1 < lo) || decide (hi ≤ p.1))

/-- Every key is above `n`. -/
def mapAbove {w : Nat} (n : Nat) (m : SMap w) : Bool := m.all (fun p => decide (n < p.1))

/-- The canonical form: keys strictly rising and no zero value. -/
def mapWf {w : Nat} : SMap w → Bool
  | [] => true
  | (k, v) :: t => decide (v ≠ 0) && mapAbove k t && mapWf t

/-- `n` bytes from a byte reader, little-endian (05 R93). -/
def leGet (rd : Nat → Nat) (a : Nat) : Nat → Nat
  | 0 => 0
  | n + 1 => rd a % 256 + 256 * leGet rd (a + 1) n

/-- The bytes of a value, little-endian, as cells from address `a`. -/
def leCells (a : Nat) : Nat → Nat → List (Nat × BitVec 8)
  | 0, _ => []
  | n + 1, v => (a, BitVec.ofNat 8 v) :: leCells (a + 1) n (v / 256)

/-- A list in ascending order of a key; entries of one key keep their order. -/
def insertBy {α : Type} (key : α → Nat) (x : α) : List α → List α
  | [] => [x]
  | y :: t => if key x < key y then x :: y :: t else y :: insertBy key x t

def sortBy {α : Type} (key : α → Nat) (l : List α) : List α := l.foldl (fun acc x => insertBy key x acc) []

end Sys2Proof.Machine
end

