-- ==== Sys2Proof/Machine/Tile.lean ====
section
/-!
DEFINITION. Machine/Tile.lean: the arithmetic of the matrix engine (spec 05 R97 to R106, 07 R139 to R157,
08 R161 to R172) on cells, operands and square matrices, without the state that holds them.
-/

namespace Sys2Proof.Machine

/-! ### The format block (R139) -/

/-- The fields of a format block (R139). -/
structure FBlock where
  bsoff : Nat
  asoff : Nat
  rsvd : Nat
  eb : Int
  bs : Bool
  as : Bool
  sbl : Nat
  bf : Nat
  af : Nat
deriving DecidableEq, Repr

/-- The format block a q register holds (R139). -/
def fblockOf (x : Reg) : FBlock :=
  let n := x.toNat
  { bsoff := n / 2 ^ 44, asoff := n / 2 ^ 24 % 2 ^ 20, rsvd := n / 2 ^ 20 % 16,
    eb := sInt 8 (n / 2 ^ 12 % 256), bs := n / 2 ^ 11 % 2 == 1, as := n / 2 ^ 10 % 2 == 1,
    sbl := n / 2 ^ 8 % 4, bf := n / 16 % 16, af := n % 16 }

/-- The wide formats are codes 0 to 3 (R87). -/
def isWide (code : Nat) : Bool := decide (code < 4)

/-- The scale block length that SBL codes (R139). -/
def scaleLen (sbl : Nat) : Nat := match sbl with
  | 1 => 16
  | 2 => 32
  | 3 => 64
  | _ => 0

/-- The lowest failing check 1 to 6 of R140, or 0. -/
def fblockCause (b : FBlock) : Nat :=
  if 12 ≤ b.af ∨ 12 ≤ b.bf then 1
  else if isWide b.af ≠ isWide b.bf ∨ (isWide b.af ∧ b.af ≠ b.bf) then 2
  else if isWide b.af ∧ (b.sbl ≠ 0 ∨ b.as ∨ b.bs) then 3
  else if (b.sbl = 0 ∧ (b.as ∨ b.bs)) ∨ (b.sbl ≠ 0 ∧ b.as = false ∧ b.bs = false) then 4
  else if b.rsvd ≠ 0 then 5
  else if isWide b.af ∧ b.eb ≠ 0 then 6
  else 0

/-- A memory format code's width in bits (R87). -/
def codeWidth (code : Nat) : Nat := match tyOf code with
  | some t => t.width
  | none => 64

/-- The magnitude planes of a format (R87). -/
def planesOf (code : Nat) : Nat := match tyOf code with
  | some (.flt f) => f.fbits + 1
  | some (.int w _) => w
  | _ => 1

/-- The 18-bit chunks of a B significand (R99). -/
def chunksOf (code : Nat) : Nat := if code = 0 then 3 else if code = 1 then 2 else 1

/-- Bytes of a strip's sign plane and exponent blocks (R98). -/
def stripHead (code : Nat) : Nat := if code = 0 then 544 else if code < 8 then 288 else 0

/-- Bytes per strip (R98). -/
def stripBytes (code : Nat) : Nat := stripHead code + 32 * planesOf code

/-- Bytes of a planed fragment of `k` terms (R98, R146). -/
def planedBytes (code k : Nat) : Nat := k / 32 * stripBytes code

/-! ### Elements (R97 to R99) -/

/-- An element as the engine reads it (R97). -/
inductive Elem where
  /-- Not finite on its path: a NaN or an infinity. -/
  | odd (v : FVal)
  /-- A finite float: sign, magnitude, exponent. -/
  | flt (neg : Bool) (m : Nat) (e : Int)
  /-- An integer code of `w` bits. -/
  | int (w code : Nat)
  /-- An INT1 code. -/
  | one (code : Nat)
deriving DecidableEq, Repr

/-- An element from a float's sign, exponent field and stored magnitude (R97, R98). -/
def fltElem (f : FFmt) (neg : Bool) (ex m : Nat) : Elem :=
  let fin := Elem.flt neg m (f.qmin + (if ex = 0 then 0 else (ex : Int) - 1))
  match f.kind with
  | .allFinite => fin
  | .gf8a => if neg && decide (ex = 0) && decide (m = 0) then .odd .nan else fin
  | .ieee | .gf8b =>
    if ex = 2 ^ f.ebits - 1 then
      .odd (if m % 2 ^ f.fbits = 0 then .inf neg else .nan)
    else fin

/-- An element from its code in element layout (R97). -/
def codeElem (code x : Nat) : Elem :=
  match tyOf code with
  | some (.flt f) =>
    fltElem f (f.signOf x) (f.expOf x) (f.fracOf x + if f.expOf x = 0 then 0 else 2 ^ f.fbits)
  | some (.int w _) => .int w (x % 2 ^ w)
  | _ => .one (x % 2)

/-- The element's value (R97). -/
def Elem.val : Elem → FVal
  | .odd v => v
  | .flt n m e => .fin n m e
  | .int w c => .ofInt (sInt w c)
  | .one c => .ofInt (if c = 0 then 1 else -1)

/-- One bit of a 32-byte plane: row `i`, element `j` (R98). -/
def planeBit (rd : Nat → Nat) (base i j : Nat) : Nat := rd (base + 4 * i + j / 8) / 2 ^ (j % 8) % 2

/-- The magnitude of row `i`, element `j` from its planes (R98). -/
def planeMag (rd : Nat → Nat) (base planes i j : Nat) : Nat :=
  (List.range planes).foldl (fun acc p => acc + planeBit rd (base + 32 * p) i j * 2 ^ p) 0

/-- The A element of row `i`, term `k` of a planed fragment at `base` (R98): exponent bits above the format's field are dropped, the
magnitude planes are taken as they stand (log 80). -/
def aElem (code : Nat) (rd : Nat → Nat) (base i k : Nat) : Elem :=
  let b := base + k / 32 * stripBytes code
  let j := k % 32
  let m := planeMag rd (b + stripHead code) (planesOf code) i j
  match tyOf code with
  | some (.flt f) =>
    let lo := rd (b + 32 + 32 * i + j)
    let ex := if code = 0 then lo + 256 * (rd (b + 288 + 32 * i + j) % 8) else lo % 2 ^ f.ebits
    fltElem f (planeBit rd b i j == 1) ex m
  | some (.int w _) => .int w m
  | _ => .one m

/-- `w` bits at a bit offset of a little-endian run (R93). -/
def runBits (rd : Nat → Nat) (base off w : Nat) : Nat :=
  leGet rd (base + off / 8) ((off % 8 + w + 7) / 8) / 2 ^ (off % 8) % 2 ^ w

/-- The B element of term `k`, column `n` (R99). -/
def bElem (code : Nat) (rd : Nat → Nat) (base k n : Nat) : Elem :=
  codeElem code (runBits rd base ((32 * k + n) * codeWidth code) (codeWidth code))

/-- A scale exponent; none for 0xFF (R100). -/
def scaleExp (s : Nat) : Option Int := if s % 256 = 255 then none else some ((s % 256 : Nat) - 127)

/-! ### The residue path (R101 to R104) -/

/-- `n·2^sh` cut toward zero. -/
def truncShift (n : Nat) (sh : Int) : Nat :=
  if 0 ≤ sh then n * 2 ^ sh.toNat else n / 2 ^ (-sh).toNat

/-- Adds plane `j`'s contribution of magnitude `c` and sign `neg` to a sum and a magnitude sum. -/
def addC (acc : Int × Nat) (neg : Bool) (c : Nat) : Int × Nat := (acc.1 + signed neg c, acc.2 + c)

/-- B's signed significand and exponent, finite elements (R97). -/
def bSig : Elem → Bool × Nat × Int
  | .odd _ => (false, 0, 0)
  | .flt n m e => (n, m, e)
  | .int w c => (decide (sInt w c < 0), (sInt w c).natAbs, 0)
  | .one c => (decide (c ≠ 0), 1, 0)

/-- The contributions of one term: their sum and the sum of their magnitudes (R102). -/
def termContrib (a b : Elem) (scales : Int) (eb : Int) : Int × Nat :=
  let y := bSig b
  match a with
  | .odd _ => (0, 0)
  | .flt n m e =>
    (List.range (m.log2 + 1)).foldl
      (fun acc j => if m / 2 ^ j % 2 = 1
        then addC acc (n != y.1) (truncShift (2 ^ j * y.2.1) (e + y.2.2 + scales - eb)) else acc) (0, 0)
  | .int w c =>
    (List.range w).foldl
      (fun acc j => if c / 2 ^ j % 2 = 1
        then addC acc ((j == w - 1) != y.1) (truncShift (2 ^ j * y.2.1) (y.2.2 + scales - eb)) else acc) (0, 0)
  | .one c => addC (0, 0) (decide (c ≠ 0) != y.1) (truncShift y.2.1 (y.2.2 + scales - eb))

def Elem.isOdd : Elem → Bool
  | .odd _ => true
  | _ => false

/-- Some plane of an element of A is set: INT1's one is in both codes (R98, R102). -/
def Elem.anyPlane : Elem → Bool
  | .odd _ => false
  | .flt _ m _ => decide (m ≠ 0)
  | .int w c => decide (c % 2 ^ w ≠ 0)
  | .one _ => true

/-- One K-term of a pass: its elements and the scales that cover it (none: not finite). -/
structure Term where
  a : Elem
  b : Elem
  sa : Option Int
  sb : Option Int
deriving DecidableEq, Repr

/-- The least `e ≤ 63` with `ceil(y/2^e) ≤ 255`, searched from `e` up (R102). -/
def boundExp (y : Nat) : Nat → Nat → Option Nat
  | 0, _ => none
  | n + 1, e => if (y + 2 ^ e - 1) / 2 ^ e ≤ 255 then some e else boundExp y n (e + 1)

/-- RoundUpBound: UE and UM (R102). -/
def roundUpBound (y : Nat) : Nat × Nat :=
  match boundExp y 64 0 with
  | some e => (e, (y + 2 ^ e - 1) / 2 ^ e)
  | none => (63, 255)

/-- The bound above which a cell's value is lost (R102). -/
def valueLimit : Nat := 2 ^ 47 - 2 ^ 15

/-- A residue cell packed from its fields (R101). -/
def packCell (ovf : Bool) (ue um r3 r2 r1 : Nat) : Reg :=
  BitVec.ofNat 64
    ((if ovf then 2 ^ 63 else 0) + ue * 2 ^ 57 + um * 2 ^ 49 + r3 * 2 ^ 32 + r2 * 2 ^ 16 + r1)

def cellOvf (c : Reg) : Bool := c.toNat / 2 ^ 63 == 1
def cellBound (c : Reg) : Nat := c.toNat / 2 ^ 49 % 256 * 2 ^ (c.toNat / 2 ^ 57 % 64)
def cellR1 (c : Reg) : Nat := c.toNat % 2 ^ 16
def cellR2 (c : Reg) : Nat := c.toNat / 2 ^ 16 % 2 ^ 16
def cellR3 (c : Reg) : Nat := c.toNat / 2 ^ 32 % 2 ^ 17

/-- A term that adds to a residue cell: finite, with finite scales (R102). -/
def Term.finite (t : Term) : Bool := t.sa.isSome && t.sb.isSome && !t.a.isOdd && !t.b.isOdd

/-- One pass of an MMA on a residue cell: the residues are assigned under a set plane of A alone (R102). -/
def residuePass (eb : Int) (cell : Reg) (terms : List Term) : Reg :=
  let r := terms.foldl (fun (acc : (Int × Nat) × Bool) t =>
    match t.sa, t.sb with
    | some x, some y =>
      if t.a.isOdd || t.b.isOdd then (acc.1, true)
      else
        let c := termContrib t.a t.b (x + y) eb
        ((acc.1.1 + c.1, acc.1.2 + c.2), acc.2)
    | _, _ => (acc.1, true)) ((0, 0), false)
  let c := r.1.1
  let b := roundUpBound (cellBound cell + r.1.2)
  let set := terms.any (fun t => t.finite && t.a.anyPlane)
  let res := fun (m x : Nat) => if set then (((x : Int) + c) % m).toNat else x
  packCell (cellOvf cell || r.2 || decide (valueLimit ≤ b.2 * 2 ^ b.1)) b.1 b.2
    (res 65537 (cellR3 cell)) (res 65536 (cellR2 cell)) (res 65535 (cellR1 cell))

/-- The integer a residue cell holds (R103). -/
def reconstruct (cell : Reg) : Int :=
  let u := ((cellR1 cell : Int) - cellR2 cell) % 65535
  let v := ((cellR2 cell : Int) - cellR3 cell) % 65537
  let t := v + 65537 * ((u - v) * 32768 % 65535)
  let x := (65536 * t + cellR2 cell) % (2 ^ 48 - 2 ^ 16)
  if x < (valueLimit : Int) then x else x - (2 ^ 48 - 2 ^ 16)

/-- A residue cell written whole with an integer (R153). -/
def cellOfInt (lost : Bool) (x : Int) : Reg :=
  let b := roundUpBound x.natAbs
  packCell lost b.1 b.2 (x % 65537).toNat (x % 65536).toNat (x % 65535).toNat

/-! ### The window path (R105) -/

/-- The accumulator format of a wide format code (R105). -/
def accFmt (af : Nat) : FFmt := if af = 0 then fp64 else fp32

/-- The window of a wide format code (R105). -/
def windowOf (af : Nat) : Int := if af = 0 then 192 else if af = 1 then 96 else 48

/-- The accumulator a cell holds (R105). -/
def cellAcc (af : Nat) (c : Reg) : Nat := if af = 0 then c.toNat else c.toNat % 2 ^ 32

/-- `floor(log2 |p|)` of a finite non-zero value. -/
def FVal.expo : FVal → Int
  | .fin _ m e => e + (m.log2 : Int)
  | _ => 0

/-- A finite value cut toward zero to a multiple of `2^q`: the multiplier. -/
def FVal.cut (q : Int) : FVal → Int
  | .fin n m e => signed n (truncShift m (e - q))
  | _ => 0

/-- One K-block on an accumulator (R105). -/
def windowBlock (af : Nat) (acc : Nat) (ps : List FVal) : Nat :=
  let f := accFmt af
  let x := f.decode acc
  if x.isNan || ps.any FVal.isNan || (ps.contains (.inf true) && ps.contains (.inf false)) then f.nanCode
  else if ps.contains (.inf true) then f.ne (x.add .rne (.inf true))
  else if ps.contains (.inf false) then f.ne (x.add .rne (.inf false))
  else
    match ps.filter (fun p => !p.isZero) with
    | [] => acc
    | p :: rest =>
      let e := rest.foldl (fun m r => max m r.expo) p.expo
      let q := e + 1 - windowOf af
      let s := (p :: rest).foldl (fun (t : Int) r => t + r.cut q) 0
      if s = 0 then acc else f.ne (x.add .rne (ofSigned false s q))

/-- A list cut into runs of `n`, at most `fuel` of them. -/
def runs {α : Type} (n : Nat) : Nat → List α → List (List α)
  | 0, _ => []
  | fuel + 1, l => if l.isEmpty then [] else l.take n :: runs n fuel (l.drop n)

/-- The window path over all K-blocks of 16, in ascending order (R105). -/
def windowAll (af : Nat) (acc : Nat) (ps : List FVal) : Nat :=
  (runs 16 (ps.length / 16 + 1) ps).foldl (windowBlock af) acc

/-- A cell after an MMA over its terms in ascending k (R147). -/
def mmaCell (fb : FBlock) (cell : Reg) (terms : List Term) : Reg :=
  if isWide fb.af then
    BitVec.ofNat 64 (windowAll fb.af (cellAcc fb.af cell) (terms.map (fun t => t.a.val.mul t.b.val)))
  else (runs 256 (terms.length / 256 + 1) terms).foldl (residuePass fb.eb) cell

/-! ### Cells written and read (R153, R154) -/

/-- A value written into a cell (R153); none is the raw form's value. -/
def writeCell (fb : FBlock) (code : Nat) (se : Int) (x : Nat) : Reg :=
  match tyOf code with
  | none => BitVec.ofNat 64 x
  | some t =>
    let v := (t.decode x).toF
    if isWide fb.af then BitVec.ofNat 64 ((accFmt fb.af).ne (v.scale se))
    else
      match v with
      | .fin n m e =>
        let y := signed n (truncShift m (e + se - fb.eb))
        if valueLimit ≤ y.natAbs then cellOfInt true 0 else cellOfInt false y
      | _ => cellOfInt true 0

/-- A cell read into a target format, and INVALID (R154). The exact product is a real source of R95, not an integer one (log 106). -/
def readCell (fb : FBlock) (code : Nat) (se : Int) (sat : Bool) (c : Reg) : Nat × Bool :=
  match tyOf code with
  | none => (c.toNat, false)
  | some t =>
    let v :=
      if isWide fb.af then ((accFmt fb.af).decode (cellAcc fb.af c)).scale se
      else if cellOvf c then .nan
      else ofSigned false (reconstruct c) (fb.eb + se)
    convert t .rne sat (.f v)

/-! ### Re-planing (R98, R157) -/

/-- The byte at an offset of the planed form of an 8-row fragment of element codes (R98, R157). -/
def planedByte (code : Nat) (get : Nat → Nat → Nat) (off : Nat) : Nat :=
  let s := off / stripBytes code
  let o := off % stripBytes code
  let bits := fun (i b : Nat) (f : Nat → Nat) =>
    (List.range 8).foldl (fun acc t => acc + f (get i (32 * s + 8 * b + t)) % 2 * 2 ^ t) 0
  match tyOf code with
  | some (.flt f) =>
    if o < 32 then bits (o / 4) (o % 4) (fun x => x / 2 ^ (f.ebits + f.fbits))
    else if o < stripHead code then
      let p := (o - 32) % 256
      f.expOf (get (p / 32) (32 * s + p % 32)) / (if 288 ≤ o then 256 else 1) % 256
    else
      let p := (o - stripHead code) / 32
      let r := (o - stripHead code) % 32
      bits (r / 4) (r % 4) (fun x =>
        (f.fracOf x + if f.expOf x = 0 then 0 else 2 ^ f.fbits) / 2 ^ p)
  | _ =>
    let p := o / 32
    let r := o % 32
    bits (r / 4) (r % 4) (fun x => x / 2 ^ p)

/-- The elements, by row and term, from which a byte of the planed form comes. -/
def planedDeps (code off : Nat) : List (Nat × Nat) :=
  let s := off / stripBytes code
  let o := off % stripBytes code
  let bits := fun (r : Nat) => (List.range 8).map (fun t => (r / 4 % 8, 32 * s + 8 * (r % 4) + t))
  if o < stripHead code then
    if o < 32 then bits o else [((o - 32) % 256 / 32, 32 * s + (o - 32) % 32)]
  else bits ((o - stripHead code) % 32)

/-! ### Square matrices on the feedback path (R161) -/

/-- A square matrix by rows, as values of the declared format. -/
abbrev Mat := List (List FVal)

/-- The matrix with entries `f i j`. -/
def matOf (s : Nat) (f : Nat → Nat → FVal) : Mat :=
  (List.range s).map (fun i => (List.range s).map (f i))

def matAt (m : Mat) (i j : Nat) : FVal := (m.getD i []).getD j (.fin false 0 0)

/-- The transpose of an s by s matrix. -/
def matT (s : Nat) (m : Mat) : Mat := matOf s (fun i j => matAt m j i)

/-- The declared format of a wide code (R161). -/
def declFmt (af : Nat) : FFmt := match tyOf af with
  | some (.flt f) => f
  | _ => fp64

/-- A value rounded to the declared format. -/
def toDecl (af : Nat) (x : FVal) : FVal := (declFmt af).decode ((declFmt af).ne x)

/-- Load: the top-left square of a tile, rounded to the declared format (R161). -/
def matLoad (af s : Nat) (cell : Nat → Nat → Reg) : Mat :=
  matOf s (fun i j => toDecl af ((accFmt af).decode (cellAcc af (cell i j))))

/-- A sum as a step forms it: an exact zero is +0 (R161). -/
def FVal.plus (a b : FVal) : FVal :=
  match a.add .rne b with
  | .fin _ 0 _ => .fin false 0 0
  | x => x

/-- Step: Y·Z, with `c` added on the diagonal before the one rounding (R161). -/
def matStep (af s : Nat) (y z : Mat) (c : Option FVal) : Mat :=
  let zt := matT s z
  (List.range s).map (fun i => (List.range s).map (fun j =>
    let acc := (accFmt af).decode
      (windowAll af 0 (((y.getD i []).zip (zt.getD j [])).map (fun p => p.1.mul p.2)))
    match c with
    | some v => if i = j then toDecl af (acc.plus v) else toDecl af acc
    | none => toDecl af acc))

/-- The diagonal matrix of a value. -/
def matDiag (s : Nat) (x : FVal) : Mat := matOf s (fun i j => if i = j then x else .fin false 0 0)

/-- Horner from degree `n` down (R161); `cs` holds c0, c1, ... as FP64 bits. -/
def matHorner (af s : Nat) (z : Mat) (cs : List Reg) (n : Nat) : Mat :=
  let co := fun i => fp64.decode (cs.getD i 0).toNat
  (List.range n).foldl (fun y t => matStep af s y z (some (co (n - 1 - t))))
    (matDiag s (toDecl af (co n)))

/-- Resid: the sum of squared differences in FP64, in row-major order (R161). -/
def matResid (s : Nat) (m n : Mat) : Nat :=
  let r64 := fun x => fp64.decode (fp64.ne x)
  fp64.ne ((List.range s).foldl (fun acc i => (List.range s).foldl (fun acc j =>
    let t := r64 ((matAt m i j).add .rne (matAt n i j).neg)
    r64 (acc.add .rne (r64 (t.mul t)))) acc) (.fin false 0 0))

/-- The cell that Write puts at (i, j) (R161). -/
def matCell (af s : Nat) (m : Mat) (i j : Nat) : Reg :=
  if i < s ∧ j < s then BitVec.ofNat 64 ((accFmt af).ne (matAt m i j)) else 0

/-- The largest magnitude of a square as FP64 bits; NaN if any element is (R172). -/
def matMax (s : Nat) (m : Mat) : Nat :=
  let all := (List.range s).flatMap (fun i => (List.range s).map (fun j => (matAt m i j).abs))
  if all.any FVal.isNan then fp64.nanCode
  else fp64.ne (all.foldl FVal.maxNum (.fin false 0 0))

/-- MNORM's result (R172). -/
def matNorm (af s kind : Nat) (x : Mat) : Nat :=
  match kind with
  | 0 => matResid s x (matDiag s (.fin false 0 0))
  | 1 => matResid s (matStep af s (matT s x) x none) (matDiag s (.fin false 1 0))
  | _ => matMax s x

/-! ### Operands in memory (R141, R146, R152) -/

/-- K of MMA and PLANE (R146, R157). -/
def termsOf (kn : Nat) : Nat := 32 * (kn + 1)

/-- The scratchpad aperture's start (R176). -/
def scratchBase : Nat := 0xFFF0000000000000

/-- The A-scale bytes of a band: eight of each block (R141). -/
def aScaleRuns (fb : FBlock) (k q : Nat) : List (Nat × Nat) :=
  if !fb.as then [] else (List.range (k / scaleLen fb.sbl)).map (fun b => (scratchBase + fb.asoff + 32 * b + 8 * q, 8))
/-- The B-scale bytes (R141). -/
def bScaleRuns (fb : FBlock) (k : Nat) : List (Nat × Nat) :=
  if !fb.bs then [] else [(scratchBase + fb.bsoff, 32 * (k / scaleLen fb.sbl))]

/-- Bytes of a B operand (R146). -/
def bBytes (fb : FBlock) (k : Nat) : Nat := k * 4 * codeWidth fb.bf

/-- The width of a memory format code, 64 for raw (R152). -/
def rowWidth (mf : Nat) : Nat := if mf = 15 then 64 else codeWidth mf

/-- The rows of a band in memory (R152). -/
def rowRuns (a pitch mf : Nat) : List (Nat × Nat) :=
  (List.range 8).map (fun i => ((a + i * pitch) % 2 ^ 64, 4 * rowWidth mf))

end Sys2Proof.Machine
end

