-- ==== Sys2Proof/Machine/Sketch.lean ====
section
/-!
DEFINITION. Machine/Sketch.lean: the arithmetic of the sketch unit (spec 12 R269 to R282): cameras, rays,
cuts, boxes, triangles and one turn of a ray's traversal. Floats are FP32 codes held as numbers.
-/

namespace Sys2Proof.Machine

def f32add (a b : Nat) : Nat := fltOp .add 32 .rne a b 0
def f32sub (a b : Nat) : Nat := fltOp .sub 32 .rne a b 0
def f32mul (a b : Nat) : Nat := fltOp .mul 32 .rne a b 0
def f32div (a b : Nat) : Nat := specOp .div 32 .rne a b
def f32le (a b : Nat) : Bool := fcmp 3 32 false a b
def f32lt (a b : Nat) : Bool := fcmp 2 32 false a b
def f32eq (a b : Nat) : Bool := fcmp 0 32 false a b
def f32finite (a : Nat) : Bool := decide (fp32.expOf a ≠ 255)
def f32isNan (a : Nat) : Bool := (fp32.decode a).isNan

/-- The larger of two numbers by comparison. -/
def f32max (a b : Nat) : Nat := if f32lt a b then b else a
/-- The smaller of two numbers by comparison. -/
def f32min (a b : Nat) : Nat := if f32lt b a then b else a

/-- 1.0, +infinity and -infinity at FP32 (R88). -/
def f32one : Nat := 0x3F800000
def f32inf : Nat := 0x7F800000
def f32ninf : Nat := 0xFF800000

/-- One ulp towards -infinity (R275). -/
def f32down (a : Nat) : Nat :=
  if a % 2 ^ 31 = 0 then 0x80000001 else if a < 2 ^ 31 then a - 1 else a + 1

/-- One ulp towards +infinity (R275). -/
def f32up (a : Nat) : Nat :=
  if a % 2 ^ 31 = 0 then 1 else if a < 2 ^ 31 then a + 1 else a - 1

/-- A vector of three FP32 codes. -/
structure V3 where
  x : Nat
  y : Nat
  z : Nat
deriving DecidableEq, Repr

def V3.at (v : V3) (i : Nat) : Nat := match i % 3 with
  | 0 => v.x
  | 1 => v.y
  | _ => v.z

def V3.map2 (f : Nat → Nat → Nat) (a b : V3) : V3 := ⟨f a.x b.x, f a.y b.y, f a.z b.z⟩
def V3.finite (v : V3) : Bool := f32finite v.x && f32finite v.y && f32finite v.z

/-- A 32-bit word of a record from a byte reader. -/
def word32 (rd : Nat → Nat) (a : Nat) : Nat := leGet rd a 4

def v3At (rd : Nat → Nat) (a : Nat) : V3 := ⟨word32 rd a, word32 rd (a + 4), word32 rd (a + 8)⟩

/-! ### Cameras and rays (R269, R270) -/

/-- A camera record (R269). -/
structure Camera where
  proj : Nat
  p : V3
  u : V3
  v : V3
  f : V3
  extx : Nat
  exty : Nat
  near : Nat
  far : Nat
  time : Nat
  /-- Every reserved field is zero. -/
  clean : Bool
deriving DecidableEq, Repr

/-- A camera from its 128 bytes at `a` (R269). -/
def cameraAt (rd : Nat → Nat) (a : Nat) : Camera :=
  let w := fun o => word32 rd (a + o)
  { proj := rd a, p := ⟨w 8, w 12, w 16⟩, u := ⟨w 24, w 28, w 32⟩, v := ⟨w 40, w 44, w 48⟩,
    f := ⟨w 56, w 60, w 64⟩, extx := w 72, exty := w 76, near := w 80, far := w 84, time := w 88,
    clean := decide (leGet rd (a + 1) 7 = 0) &&
      [20, 36, 52, 68, 92, 96, 100, 104, 108, 112, 116, 120, 124].all (fun o => w o == 0) }

/-- A camera is bad (R269). -/
def Camera.bad (c : Camera) : Bool :=
  decide (1 < c.proj) || !c.clean ||
  !(c.p.finite && c.u.finite && c.v.finite && c.f.finite) ||
  !([c.extx, c.exty, c.near, c.far, c.time].all f32finite) ||
  !f32lt 0 c.extx || !f32lt 0 c.exty || f32lt c.near 0 || !f32lt c.near c.far ||
  f32lt c.time 0 || f32lt f32one c.time

/-- The origin and direction of the ray of pixel (x, y) in a tile of side `2^code` (R270). -/
def rayOf (c : Camera) (code x y : Nat) : V3 × V3 :=
  let s := 2 ^ code
  let unit := fun (n : Int) => fp32.ne (ofSigned false n (-(code : Int)))
  let sx := f32mul (unit (2 * x + 1 - s)) c.extx
  let sy := f32mul (unit ((s : Int) - (2 * y + 1))) c.exty
  let mix := fun (base : V3) =>
    V3.map2 f32add (V3.map2 f32add base (V3.map2 f32mul ⟨sx, sx, sx⟩ c.u))
      (V3.map2 f32mul ⟨sy, sy, sy⟩ c.v)
  if c.proj = 0 then (c.p, mix c.f) else (mix c.p, c.f)

/-- The ray misses everything without a traversal (R270). -/
def rayDegenerate (o d : V3) : Bool :=
  (f32eq d.x 0 && f32eq d.y 0 && f32eq d.z 0) || !o.finite || !d.finite

/-! ### Cuts (R271) -/

/-- A cut descriptor (R271). -/
structure Cut where
  nodeBase : Nat
  nodeSize : Nat
  rootW : Nat
  rootAux : Nat
  visitCap : Nat
  instMask : Nat
  shLaunch : Nat
  shArg : Nat
  fbDepth : Nat
  fbId : Nat
  fbRad : Nat
  fbNorm : Nat
  missRad : Nat
  trapMal : Bool
  /-- Every reserved field is zero. -/
  clean : Bool
deriving DecidableEq, Repr

/-- A cut from its 256 bytes at `a` (R271). -/
def cutAt (rd : Nat → Nat) (a : Nat) : Cut :=
  let q := fun o => leGet rd (a + o) 8
  { nodeBase := q 0, nodeSize := q 8, rootW := q 16 % 2 ^ 32, rootAux := q 16 / 2 ^ 32,
    visitCap := q 24 / 2 ^ 32 % 2 ^ 16, instMask := q 24 % 256, shLaunch := q 32, shArg := q 40,
    fbDepth := q 48 % 2 ^ 32, fbId := q 48 / 2 ^ 32, fbRad := q 56, fbNorm := q 64, missRad := q 72,
    trapMal := q 80 % 2 == 1,
    clean := decide (q 24 / 2 ^ 48 = 0) && decide (q 24 / 256 % 2 ^ 24 = 0) && decide (q 80 / 2 = 0) &&
      (List.range 21).all (fun i => q (88 + 8 * i) == 0) }

/-- A cut is bad, its shading header aside (R271). -/
def Cut.bad (c : Cut) : Bool :=
  !c.clean || decide (c.nodeBase % 64 ≠ 0) || decide (c.nodeSize % 64 ≠ 0) ||
  decide (c.nodeSize < 64) || decide (2 ^ 35 < c.nodeSize) || decide (c.visitCap = 0) ||
  decide (2 ^ 56 < c.nodeBase + c.nodeSize)

/-! ### Tree records (R272 to R275) -/

def childType (w : Nat) : Nat := w / 2 ^ 29 % 8
def childOff (w : Nat) : Nat := w % 2 ^ 29
def auxCount (x : Nat) : Nat := x % 32
def auxKeys (x : Nat) : Nat := x / 256 % 4

/-- The key count that KEYS codes (R273). -/
def keysOf (x : Nat) : Nat := 2 ^ (auxKeys x + 1)

/-- The auxiliary word obeys R273 for its child word. -/
def auxOk (w x : Nat) : Bool :=
  let t := childType w
  decide (x = auxCount x + 256 * auxKeys x) &&
  (if t = 2 ∨ t = 3 then decide (1 ≤ auxCount x) && decide (auxCount x ≤ 16) else auxCount x == 0) &&
  (if t = 3 ∨ t = 4 then decide (auxKeys x ≤ 2) else auxKeys x == 0)

/-- The stride of a motion triangle of n keys (R274). -/
def triStride (n : Nat) : Nat := if n = 2 then 96 else if n = 4 then 160 else 304

/-- The size of the record a child word names (R272). -/
def recordSize (w x : Nat) : Nat := match childType w with
  | 1 => 128
  | 2 => 48 * auxCount x
  | 3 => triStride (keysOf x) * auxCount x
  | 4 => if keysOf x = 2 then 64 else if keysOf x = 4 then 128 else 256
  | _ => 0

/-- A box: least and greatest corner. -/
structure Box where
  lo : V3
  hi : V3
deriving DecidableEq, Repr

def boxAt (rd : Nat → Nat) (a : Nat) : Box := ⟨v3At rd a, v3At rd (a + 12)⟩

/-- One coordinate interpolated over n keys at `time`; `key i` is its value at key i (R275). -/
def interp (time n : Nat) (key : Nat → Nat) : Nat :=
  let f := f32mul time (fp32.ne (.ofInt ((n : Int) - 1)))
  let fl := match fp32.decode f with
    | .fin s m e => (roundInt .rtz s m e).toNat
    | _ => 0
  let i := min fl (n - 2)
  let a := f32sub f (fp32.ne (.ofInt i))
  f32add (key i) (f32mul a (f32sub (key (i + 1)) (key i)))

/-- A point interpolated over n keys; key i's point stands at `a + i·stride` (R275). -/
def interpV (rd : Nat → Nat) (time n a stride : Nat) : V3 :=
  let c := fun o => interp time n (fun i => word32 rd (a + i * stride + o))
  ⟨c 0, c 4, c 8⟩

/-- The interpolated box of a motion record; none when a coordinate is not finite (R275). -/
def motionBox (rd : Nat → Nat) (time n a : Nat) : Option Box :=
  let lo := interpV rd time n a 24
  let hi := interpV rd time n (a + 12) 24
  if lo.finite && hi.finite then
    some ⟨⟨f32down lo.x, f32down lo.y, f32down lo.z⟩, ⟨f32up hi.x, f32up hi.y, f32up hi.z⟩⟩
  else none

/-! ### Intersection (R276, R277) -/

/-- The slab interval of one axis; none when the box misses on it (R276). -/
def slab (o d mn mx : Nat) : Option (Nat × Nat) :=
  if f32eq d 0 then (if f32le mn o && f32le o mx then some (f32ninf, f32inf) else none)
  else
    let inv := f32div f32one d
    let dn := fun a b => fltOp .mul 32 .rdn (fltOp .sub 32 .rdn a o 0) b 0
    let dn' := fun a b => fltOp .mul 32 .rdn (fltOp .sub 32 .rup a o 0) b 0
    let up := fun a b => fltOp .mul 32 .rup (fltOp .sub 32 .rup a o 0) b 0
    let up' := fun a b => fltOp .mul 32 .rup (fltOp .sub 32 .rdn a o 0) b 0
    if f32lt 0 inv then some (dn mn inv, up mx inv) else some (dn' mx inv, up' mn inv)

/-- The entry time of a box hit; none for a miss (R276). A bound that is a NaN misses. -/
def boxHit (o d : V3) (b : Box) (near tmax : Nat) : Option Nat :=
  match slab o.x d.x b.lo.x b.hi.x, slab o.y d.y b.lo.y b.hi.y, slab o.z d.z b.lo.z b.hi.z with
  | some x, some y, some z =>
    if [x.1, x.2, y.1, y.2, z.1, z.2].any f32isNan then none
    else
      let entry := f32max (f32max (f32max x.1 y.1) z.1) near
      let exit := f32min (f32min (f32min x.2 y.2) z.2) tmax
      if f32le entry exit then some entry else none
  | _, _, _ => none

/-- A triangle as it stands at the view's time (R274). -/
structure Tri where
  a : V3
  b : V3
  c : V3
  prim : Nat
  mat : Nat
  mask : Nat
  inst : Nat
deriving DecidableEq, Repr

/-- A hit (R277). The triangle is kept for the NORMAL kind (R280). -/
structure Hit where
  t : Nat
  b1 : Nat
  b2 : Nat
  tri : Tri
deriving DecidableEq, Repr

/-- The axis of the largest |d|, lowest on a tie (R277). -/
def mainAxis (d : V3) : Nat :=
  let m := fun i => d.at i % 2 ^ 31
  if m 1 ≤ m 0 ∧ m 2 ≤ m 0 then 0 else if m 2 ≤ m 1 then 1 else 2

/-- The part of R277 from the edge functions on, at one float width. -/
def triFinish (w : Nat) (e0 e1 e2 az bz cz : Nat) : Option (Nat × Nat × Nat) :=
  let add := fun a b => fltOp .add w .rne a b 0
  let mul := fun a b => fltOp .mul w .rne a b 0
  let ge := fun a => fcmp 5 w false a 0
  let le := fun a => fcmp 3 w false a 0
  if !((ge e0 && ge e1 && ge e2) || (le e0 && le e1 && le e2)) then none
  else
    let det := add (add e0 e1) e2
    if fcmp 0 w false det 0 then none
    else
      let t := add (add (mul e0 az) (mul e1 bz)) (mul e2 cz)
      let dv := fun a => specOp .div w .rne a det
      some (dv t, dv e1, dv e2)

/-- FP32 widened to FP64, and FP64 rounded to FP32. -/
def f32to64 (a : Nat) : Nat := fp64.ne (fp32.decode a)
def f64to32 (a : Nat) : Nat := fp32.ne (fp64.decode a)

/-- The difference of two exact products of FP32 values, rounded once to FP64 (R277). -/
def cross64 (a b c d : Nat) : Nat :=
  fp64.ne (((fp32.decode a).mul (fp32.decode b)).add .rne ((fp32.decode c).mul (fp32.decode d)).neg)

/-- The triangle test (R277): t, b1, b2 of the candidate. -/
def triTest (o d : V3) (tr : Tri) : Option (Nat × Nat × Nat) :=
  let kz := mainAxis d
  let kx := (kz + 1) % 3
  let ky := (kx + 1) % 3
  let neg := f32lt (d.at kz) 0
  let ax := if neg then ky else kx
  let ay := if neg then kx else ky
  let sx := f32div (d.at ax) (d.at kz)
  let sy := f32div (d.at ay) (d.at kz)
  let sz := f32div f32one (d.at kz)
  let tf := fun (q : V3) =>
    let e := V3.map2 f32sub q o
    (⟨f32sub (e.at ax) (f32mul sx (e.at kz)), f32sub (e.at ay) (f32mul sy (e.at kz)),
      f32mul sz (e.at kz)⟩ : V3)
  let a := tf tr.a
  let b := tf tr.b
  let c := tf tr.c
  let cr := fun p q r s => f32sub (f32mul p q) (f32mul r s)
  let e0 := cr c.x b.y c.y b.x
  let e1 := cr a.x c.y a.y c.x
  let e2 := cr b.x a.y b.y a.x
  if f32eq e0 0 || f32eq e1 0 || f32eq e2 0 then
    (triFinish 64 (cross64 c.x b.y c.y b.x) (cross64 a.x c.y a.y c.x) (cross64 b.x a.y b.y a.x)
      (f32to64 a.z) (f32to64 b.z) (f32to64 c.z)).map
      (fun r => (f64to32 r.1, f64to32 r.2.1, f64to32 r.2.2))
  else triFinish 32 e0 e1 e2 a.z b.z c.z

/-! ### Traversal, one turn at a time (R268, R278) -/

/-- How a ray stands (R279). -/
inductive RayEnd where
  | running | ended | malformed | xlate
deriving DecidableEq, Repr

/-- A ray of a view and its traversal (R278). -/
structure Ray where
  /-- The executing lane of a VIEWL; 0 for a VIEW. -/
  lane : Nat
  pixel : Nat
  o : V3
  d : V3
  tmax : Nat
  hit : Option Hit
  visits : Nat
  stack : List (Nat × Nat × Nat)
  /-- Triangles of the leaf fetched last, still to be tested. -/
  leaf : List Tri
  status : RayEnd
deriving DecidableEq, Repr

def Ray.malform (r : Ray) : Ray := { r with status := .malformed, hit := none, stack := [], leaf := [] }

/-- Stack entries that need no fetch are passed over: entries beyond tmax and empty children (R278). -/
def skipPops (tmax : Nat) : List (Nat × Nat × Nat) → List (Nat × Nat × Nat)
  | [] => []
  | (w, x, te) :: rest =>
    if f32lt tmax te || childType w == 0 then skipPops tmax rest else (w, x, te) :: rest

/-- A child of an inner node to be pushed: its key and its entry (R278). -/
def childEntry (rd : Nat → Nat) (a : Nat) (r : Ray) (near te c : Nat) : Option (Nat × Nat × Nat) :=
  let w := word32 rd (a + 0x60 + 4 * c)
  let x := word32 rd (a + 0x70 + 4 * c)
  let t := childType w
  if t = 4 then some (w, x, te)
  else if 1 ≤ t ∧ t ≤ 3 then
    (boxHit r.o r.d (boxAt rd (a + 24 * c)) near r.tmax).map (fun e => (w, x, e))
  else none

/-- An entry placed before the first entry with a greater key. -/
def insertEntry (e : Nat × Nat × Nat) : List (Nat × Nat × Nat) → List (Nat × Nat × Nat)
  | [] => [e]
  | f :: rest => if f32lt e.2.2 f.2.2 then e :: f :: rest else f :: insertEntry e rest

/-- A triangle of a leaf at the view's time (R274, R275). -/
def triAt (rd : Nat → Nat) (time w x a i : Nat) : Tri :=
  let n := keysOf x
  let base := if childType w = 2 then a + 48 * i else a + triStride n * i
  let m := if childType w = 2 then base + 36 else base + 36 * n
  let v := fun o => if childType w = 2 then v3At rd (base + o) else interpV rd time n (base + o) 36
  { a := v 0, b := v 12, c := v 24, prim := word32 rd m, mat := word32 rd (m + 4),
    mask := word32 rd (m + 8) / 2 ^ 24, inst := word32 rd (m + 8) % 2 ^ 24 }

/-- The record the ray fetches next: its child word, auxiliary word, entry time, address and size. -/
def Ray.nextFetch (cut : Cut) (r : Ray) : Option (Nat × Nat × Nat × Nat × Nat) :=
  match skipPops r.tmax r.stack with
  | [] => none
  | (w, x, te) :: _ => some (w, x, te, cut.nodeBase + 64 * childOff w, recordSize w x)

/-- The fetch breaks a rule of R278 before anything is read. -/
def fetchBad (cut : Cut) (r : Ray) (w x : Nat) : Bool :=
  decide (r.visits = cut.visitCap) || decide (5 ≤ childType w) || !auxOk w x ||
  decide (cut.nodeSize < 64 * childOff w + recordSize w x)

/-- One fetch of a ray, its record readable (R278). -/
def Ray.fetch (cut : Cut) (cam : Camera) (rd : Nat → Nat) (r : Ray) : Ray :=
  match skipPops r.tmax r.stack with
  | [] => { r with status := .ended, stack := [] }
  | (w, x, te) :: rest =>
    if fetchBad cut r w x then r.malform
    else
      let a := cut.nodeBase + 64 * childOff w
      let r1 := { r with visits := r.visits + 1, stack := rest }
      match childType w with
      | 1 =>
        let es := (List.range 4).filterMap (childEntry rd a r1 cam.near te)
        let st := es.foldl (fun acc e => insertEntry e acc) [] ++ rest
        if 64 < st.length then r1.malform else { r1 with stack := st }
      | 4 =>
        let n := keysOf x
        let w' := word32 rd (a + 24 * n)
        let x' := word32 rd (a + 24 * n + 4)
        if childType w' = 0 ∨ childType w' = 4 then r1.malform
        else
          match motionBox rd cam.time n a with
          | none => r1
          | some b =>
            match boxHit r.o r.d b cam.near r.tmax with
            | none => r1
            | some e => { r1 with stack := (w', x', e) :: rest }
      | _ => { r1 with leaf := (List.range (auxCount x)).map (triAt rd cam.time w x a) }

/-- (PRIM, INST) order of two hits at one t (R278). -/
def triBefore (a b : Tri) : Bool :=
  decide (a.prim < b.prim) || (decide (a.prim = b.prim) && decide (a.inst < b.inst))

/-- One triangle test of a ray (R277, R278). -/
def Ray.test (cut : Cut) (cam : Camera) (r : Ray) : Ray :=
  match r.leaf with
  | [] => r
  | tr :: rest =>
    let r1 := { r with leaf := rest }
    if tr.mask &&& cut.instMask = 0 then r1
    else
      match triTest r.o r.d tr with
      | none => r1
      | some (t, b1, b2) =>
        let tie := f32eq t r.tmax && (match r.hit with
          | none => true
          | some h => triBefore tr h.tri)
        if f32le cam.near t && (f32lt t r.tmax || tie)
        then { r1 with hit := some ⟨t, b1, b2, tr⟩, tmax := t } else r1

/-- A ray with nothing left to fetch or test has ended (R278). -/
def Ray.settle (r : Ray) : Ray :=
  if r.status = .running ∧ r.leaf = [] ∧ skipPops r.tmax r.stack = [] then { r with status := .ended, stack := [] }
  else r

/-! ### Pixels (R280, R281) -/

/-- The NORMAL pixel of a hit (R280). -/
def normalPixel (d : V3) (h : Hit) : Nat :=
  let e1 := V3.map2 f32sub h.tri.b h.tri.a
  let e2 := V3.map2 f32sub h.tri.c h.tri.a
  let cr := fun p q r s => f32sub (f32mul p q) (f32mul r s)
  let n : V3 := ⟨cr e1.y e2.z e1.z e2.y, cr e1.z e2.x e1.x e2.z, cr e1.x e2.y e1.y e2.x⟩
  let q := f32add (f32add (f32mul n.x n.x) (f32mul n.y n.y)) (f32mul n.z n.z)
  if f32eq q 0 then 0x3C00 * 2 ^ 48
  else
    let s := specOp .rsq 32 .rne q 0
    let c := fun a => fp16.ne (fp32.decode (f32mul a s))
    let dot := f32add (f32add (f32mul n.x d.x) (f32mul n.y d.y)) (f32mul n.z d.z)
    let flag := if f32le dot 0 then 0x3C00 else 0xBC00
    c n.x + c n.y * 2 ^ 16 + c n.z * 2 ^ 32 + flag * 2 ^ 48

/-- The pixel of an unmarked ray, kinds DEPTH, HIT and NORMAL; a SHADE miss (R280). -/
def rayPixel (kind : Nat) (cut : Cut) (cam : Camera) (r : Ray) : Nat :=
  match kind, r.hit with
  | 0, some h => h.t + h.tri.inst * 2 ^ 32
  | 0, none => cam.far + 0xFFFFFFFF * 2 ^ 32
  | 1, some h => h.tri.inst + h.tri.prim * 2 ^ 32
  | 1, none => 0xFFFFFFFFFFFFFFFF
  | 2, some h => normalPixel r.d h
  | 2, none => 0
  | _, _ => cut.missRad

/-- The fallback of a kind (R281). -/
def fallback (kind : Nat) (cut : Cut) : Nat :=
  match kind with
  | 0 => cut.fbDepth + cut.fbId * 2 ^ 32
  | 1 => cut.fbId + cut.fbId * 2 ^ 32
  | 2 => cut.fbNorm
  | _ => cut.fbRad

/-- The pixels of a tile of a resolution code (R282). -/
def tilePixels (code : Nat) : Nat := 2 ^ code * 2 ^ code

/-- The registers a VIEW tile spans (R282). -/
def tileRegs (code : Nat) : Nat := (tilePixels code + 31) / 32

end Sys2Proof.Machine
end

