-- ==== Sys2Proof/Machine/Parts.lean ====
section
/-!
DEFINITION. Machine/Parts.lean: the records the state is made of: positions, slices, gangs, blocks, launches
and everything outstanding in the memory system and the engines (spec 02, 04, 07 to 12, 18, 20).
-/

namespace Sys2Proof.Machine

/-! ### Positions in code (R65 to R67) -/

/-- Where a slice goes next: a header to enter (`inside = false`), or a word inside a clause, with the
clause's class, header address and end address, as every recorded resumption point holds them (R67). -/
structure Point where
  pc : Nat
  inside : Bool
  cls : Nat
  head : Nat
  stop : Nat
deriving DecidableEq, Repr

/-- A header about to be entered. -/
def Point.atHeader (a : Nat) : Point := ⟨a, false, 0, a, a⟩

/-- An issuing agent: a whole gang, or one slice of a parted gang (R29). -/
structure AgentId where
  gang : Nat
  slice : Option Nat
deriving DecidableEq, Repr

/-! ### Slices (R26, R32, R230, R232) -/

/-- A deferred-stack entry (R32). -/
structure DefEntry where
  mask : Mask
  dest : Point
  join : Nat
  taken : Mask
  arrived : Bool
deriving DecidableEq, Repr

/-- A call-stack entry (R230). -/
structure CallEntry where
  ret : Point
  dd : Nat
  ld : Nat
  back : Mask
deriving DecidableEq, Repr

/-- A loop-stack entry (R232). -/
structure LoopEntry where
  start : Nat
  /-- The end clause's header, and the address after its last word. -/
  stop : Nat
  last : Nat
  rem : Nat
  dd : Nat
deriving DecidableEq, Repr

/-- A register file of the scoreboard, coded as in R84. -/
inductive RFile where
  | d | q | p | c | amax
deriving DecidableEq, Repr

def RFile.code : RFile → Nat
  | .d => 0
  | .q => 1
  | .p => 2
  | .c => 3
  | .amax => 4

/-- A scoreboard entry: remaining budget and recorded latency (R84). -/
structure Budget where
  file : RFile
  idx : Nat
  left : Nat
  lat : Nat
deriving DecidableEq, Repr

/-- Why an agent does not go on (R45, R73, R182, R248, R252). A hold that an instruction meets keeps the agent
at it; the agent is ready again once the hold's condition is over. -/
inductive Hold where
  | none
  /-- A saturated token counter (R41). -/
  | token (j : Nat)
  /-- A fence not yet complete (R191). -/
  | fence
  /-- A release at a scope that the instruction makes itself (R220, R222). -/
  | release (scope : Nat)
  /-- KWAIT: MASK and LIM (R238). -/
  | kwait (mask lim : Nat)
  /-- BSEAL: sixteen sealed batches are incomplete (R197). -/
  | bseal
  /-- BWAIT up to a batch (R198). -/
  | bwait (m : Nat)
  /-- A full copy queue (R197). -/
  | copyQueue
  /-- TLWAIT: context and timeline value (R203). -/
  | tlwait (ctx n : Nat)
  /-- A full context (R200). -/
  | streamQueue (ctx : Nat)
  /-- A matrix queue without room for `n` entries (R142). -/
  | mxQueue (n : Nat)
  /-- MNORM or MISTAT: earlier MTX operations of the gang (R172, R173). -/
  | mxDrain
  /-- MNORM's own entries, by job (R172). -/
  | mxResult (job : Nat)
  /-- BARWAIT: the barrier's offset and the phase (R243). -/
  | barwait (off phase : Nat)
  /-- BARSYNC after its arrival: the phase awaited, once known (R243). -/
  | barsync (off : Nat) (phase : Option Nat)
  /-- A fifth arrival record (R241). -/
  | arrival
  /-- A barrier instruction while its gang's arrival there, made by every live slice, is still to take effect (R298). -/
  | record (off : Nat)
  /-- REGANG at an address, with its STALL and X fields (R31). -/
  | regang (pc stall : Nat) (x : Bool)
  /-- TRET of a parted handler, with its SKIP (R330). -/
  | tret (skip : Bool)
  /-- PACE (R245). -/
  | pace
  /-- A page-fault park, by its park record (R182). -/
  | page (park : Nat)
  /-- A view waiting for admission (R295). -/
  | view (id : Nat)
  /-- An NDALLOC waiting for its grant, by operation tag (R263). -/
  | pool (tag : Nat)
  /-- TRAP's call to the supervisor: its service number and address (R327). -/
  | call (n pc : Nat)
  /-- An escalated trap: its code, and whether it names no instruction word, so that nothing can be skipped (R325, R330). -/
  | escalated (code : Nat) (wordless : Bool)
  /-- Held at an instruction that trapped while the gang is in its handler (R324). -/
  | handler
  /-- Jump-table entries over whose bytes the agent's earlier accesses are not done (R208, R227). -/
  | table (addrs : List Nat)
  /-- A code word that the instruction checks and that is not there yet (R67). -/
  | code (addr : Nat)
  /-- A twin operation not yet compared, or a shadow that has caught up with its gang (R349). -/
  | twin
deriving DecidableEq, Repr

/-- The instruction has issued and holds the issue after it (R73): what it reads it has read, and its agent issues nothing more
until its condition is met. Every other hold keeps an instruction from issuing. -/
def Hold.issued : Hold → Bool
  | .kwait .. | .bwait _ | .tlwait .. | .barwait .. | .barsync .. | .regang .. | .tret _ | .pace => true
  | _ => false

/-- One slice of a gang (R26). A whole gang's live slices agree on everything but lanes and stacks. -/
structure Slice where
  point : Point
  active : Mask
  deferred : List DefEntry
  loops : List LoopEntry
  calls : List CallEntry
  hold : Hold
  /-- The earliest cycle of the next issue (R81). -/
  earliest : Nat
  /-- Lanes to which a re-issue is limited (R320, R330). -/
  replay : Option Mask
  budgets : List Budget
  /-- Since when the slice has been ready without interruption (R248). -/
  readySince : Option Nat
  /-- Instructions issued, which pairs the two copies of a twin (R348). -/
  issues : Nat
deriving DecidableEq, Repr

/-! ### Gangs (R26, R38 to R45) -/

/-- The four states of R45. -/
inductive Life where
  | pending | active | saved | ended
deriving DecidableEq, Repr

/-- What a gang is: a block's own gang, a twin's shadow (R348), or a shading gang of a view (R290) with the
view's pixel places by lane and its gang place (R292). -/
inductive GangKind where
  | plain
  | shadow (primary : Nat)
  | shading (view : Nat) (pixels : List (Nat × Nat)) (place : Nat)
deriving DecidableEq, Repr

/-- A register with a token-tracked result not yet delivered (R85): the lanes to be written, and those that
an instruction has written in the meantime. -/
structure Outst where
  file : RFile
  idx : Nat
  lanes : Mask
  touched : Mask
  token : Nat
  op : Nat
deriving DecidableEq, Repr

/-- An operation that a token counter counts, and its issue cycle plus its nominal latency (R41, R249). -/
structure Tracked where
  op : Nat
  token : Nat
  due : Nat
deriving DecidableEq, Repr

/-- The value of a register before a fixed-latency write that may not have landed (R83). -/
structure OldVal where
  file : RFile
  idx : Nat
  lane : Nat
  val : Reg
  /-- The cycle in which the write lands (R80). -/
  lands : Nat
  /-- The cycle until which a read may still give the value: that, or the landing of a later write that must be seen (R30). -/
  till : Nat
deriving DecidableEq, Repr

/-- A fixed-latency write of a q or c register that has not landed: the slice of a parted gang that made it, none where the whole
gang did, and the value that it wrote, none where its guard held in no lane (R30, R83, R84). -/
structure Shared where
  file : RFile
  idx : Nat
  slice : Option Nat
  lands : Nat
  lat : Nat
  val : Option Reg
deriving DecidableEq, Repr

/-- A trap as it is raised (R320). -/
structure Trap where
  code : Nat
  pc : Nat
  lanes : Mask
  addr : Nat
  aux : Nat
deriving DecidableEq, Repr

/-- A deferred trap waiting for its agent's next instruction word (R321, R370); `pc` is filled then.
`slice` limits it to one agent, none takes the gang's first. Without lanes of its own it names the agent's active ones.
TRAPADDR is that of the lowest lane that it names, by lane; an address under lane 32 is that of every lane. `op` is the operation
that raised it: two operations' traps do not merge (log 100). -/
structure PendTrap where
  slice : Option Nat
  code : Nat
  lanes : Option Mask
  addrs : List (Nat × Nat)
  aux : Nat
  op : Nat
deriving DecidableEq, Repr

/-- The trap state saved at handler entry (R323). -/
structure TrapState where
  whole : Bool
  /-- The slices of the agent that trapped, as a mask over slices. -/
  members : Nat
  slices : List (Nat × Slice)
  replay : Mask
  trap : Trap
deriving DecidableEq, Repr

/-- An arrival record (R241): the barrier's offset and the slices that have arrived. -/
structure Arrival where
  off : Nat
  slices : Nat
deriving DecidableEq, Repr

/-- A copy that failed, for BWAIT (R198). -/
structure CopyFail where
  batch : Nat
  op : Nat
  addr : Nat
  told : Bool
deriving DecidableEq, Repr

/-- The store signature one copy of a twin has formed (R349), of a slice or, as 8, of the whole gang; `data` by
lane and operand position. -/
structure TwinSig where
  slice : Nat
  pc : Nat
  word : Word
  ext : Word
  mask : Mask
  data : List (Nat × Nat × Nat)
  sig : Word
  /-- Compared and equal: the operation may go on. -/
  ok : Bool
deriving DecidableEq, Repr

/-- The trap registers and the iteration registers of a gang (R42). -/
structure GangRegs where
  trapCode : Reg
  trapPc : Reg
  trapLanes : Reg
  trapAddr : Reg
  trapAux : Reg
  miStatus : Reg
  miResid : Reg
  miCount : Reg
  /-- The operation whose values the three hold, the last in engine order that has stopped (R167). -/
  miLast : Nat
  /-- They come of a poisoned square (R344). -/
  miBad : Bool
deriving DecidableEq, Repr

def GangRegs.zero : GangRegs := ⟨0, 0, 0, 0, 0, 0, 0, 0, 0, false⟩

/-- A gang. Registers are canonical sparse maps: d by 32·register + lane, stack bytes by backing byte
(R179). -/
structure Gang where
  id : Nat
  block : Nat
  index : Nat
  easel : Nat
  kind : GangKind
  life : Life
  nest : Nat
  nslices : Nat
  nregs : Nat
  whole : Bool
  slices : List Slice
  exited : Mask
  dead : Mask
  newDead : Mask
  d : SMap 64
  q : SMap 64
  c : SMap 64
  p : SMap 32
  k : List Nat
  /-- The cycle in which each counter last became zero (R66). -/
  kzero : List Nat
  amax : SMap 32
  stack : SMap 8
  regs : GangRegs
  signature : Word
  viewStatus : SMap 64
  se : Bool
  trapState : Option TrapState
  pendTraps : List PendTrap
  outst : List Outst
  tracked : List Tracked
  olds : List OldVal
  shared : List Shared
  /-- The last sealed batch number; the open batch is the next (R197). -/
  sealedN : Nat
  fails : List CopyFail
  arrivals : List Arrival
  /-- The store signatures formed and not yet used, by agent (R349). -/
  twin : List TwinSig
  /-- Jump-table entries that the other copy of a twin has read for both: slice, 16 more for a poisoned one, tag and value (R227, R348). -/
  twinIn : List (Nat × Nat × Reg)
  placedAt : Nat
  activeSince : Nat
  lastIssue : Nat
  /-- Since when the gang has been ready without interruption, and in a long-latency stall (R248, R249). -/
  readySince : Option Nat
  stallSince : Option Nat
  cede : Bool
  /-- Its last lane has gone and its exit effect waits for its accesses (R220, R242). -/
  exitDue : Bool
deriving DecidableEq, Repr

/-! ### Launches and blocks (R35, R44) -/

/-- The fields of a launch header (R35). -/
structure LaunchHdr where
  entry : Nat
  trapvec : Nat
  codebase : Nat
  codesize : Nat
  scratch : Nat
  argbase : Nat
  gridx : Nat
  gridy : Nat
  gridz : Nat
  spanco : Nat
  wingco : Nat
  nestlim : Nat
  check : Bool
  idem : Bool
  twin : Bool
  nomatrix : Bool
  tiles : Nat
  regsCode : Nat
  nslices : Nat
  gangs : Nat
  /-- LEVEL1 to LEVEL3: shading gangs per cluster and view slots per wing. -/
  levels : List (Nat × Nat)
  expcyc : Nat
  paceallow : Nat
  stackb : Nat
deriving DecidableEq, Repr

/-- Data registers per lane (R35). -/
def LaunchHdr.nregs (h : LaunchHdr) : Nat := 16 + 8 * h.regsCode

/-- A released launch (R258): where its header stands, whose it is, and its next unplaced block. -/
structure Launch where
  id : Nat
  hdrAddr : Nat
  hdr : LaunchHdr
  part : Nat
  prio : Nat
  /-- The graph and node it runs for; none for a launch of the supervisor's own. -/
  node : Option (Nat × Nat)
  /-- The heat it is: its sequence number, block address and records (R265). -/
  heat : Option (Nat × Nat × List Nat)
  /-- The next block to be placed: blocks go in ascending number. -/
  next : Nat
  /-- Its blocks: none is placed from here on. -/
  total : Nat
  /-- Blocks flushed and queued again, with the order of their flushing (R338). -/
  again : List (Nat × Nat)
  released : Nat
  /-- Since when its head block fits nowhere (R259). -/
  waiting : Option Nat
  /-- The wing kept free for it after 1 ms (R259). -/
  wingHeld : Option Nat
  blocksLeft : Nat
  /-- Clusters on which it has taken its gang places, each with whether its last block there was saved (R292). -/
  nests : List (Nat × Bool)
deriving DecidableEq, Repr

/-- How a block is being taken off its cluster (R335 to R339). -/
inductive StopMode where
  | none
  /-- Draining until a cycle. -/
  | drain (until_ : Nat)
  /-- To be saved, once the firmware core's decision lets a save start (R364). -/
  | toSave
  /-- Being saved: its gangs issue nothing. -/
  | save
  /-- Flushed: its gangs have stopped, and what they have issued completes (R338). -/
  | flush
  /-- Ended by the supervisor OS with a detail for its node: its gangs have stopped, and what they have issued completes (R258). -/
  | kill (detail : Nat)
deriving DecidableEq, Repr

/-- Being saved. -/
def StopMode.saving (m : StopMode) : Bool := m == .save

/-- Its gangs have stopped for good, and it leaves when nothing of it is outstanding. -/
def StopMode.leaving : StopMode → Bool
  | .flush => true
  | .kill _ => true
  | _ => false

/-- A block (R44). -/
structure Block where
  id : Nat
  launch : Nat
  part : Nat
  number : Nat
  cluster : Nat
  /-- Resident on its cluster; a saved block is not (R292). -/
  resident : Bool
  ended : Bool
  argbase : Nat
  scratch : SMap 8
  /-- Cells by 1024·tile + 32·row + column. -/
  tiles : SMap 64
  pacer : Nat
  /-- Offsets of the barriers that an instruction of the block has named (R239). -/
  bars : List Nat
  /-- Elapsed cycles before this placement (R336). -/
  elapsed : Nat
  placedAt : Nat
  /-- Its cluster's engine failed while it was resident (R159). -/
  engineLost : Bool
  stop : StopMode
  /-- The barriers' starved state arose at this cycle (R244). -/
  starvedSince : Option Nat
  /-- It stands in the place that the pool holds back for its node (R261). -/
  held : Bool
deriving DecidableEq, Repr

/-! ### Outstanding memory operations (R181 to R193, R207) -/

/-- Where an element lies once its address is taken apart (R176, R177). -/
inductive Place where
  /-- A domain physical address under a key id. -/
  | phys (a key : Nat)
  /-- An offset in the block's scratchpad. -/
  | scratch (o : Nat)
  /-- A backing byte of the lane's stack. -/
  | stack (o : Nat)
deriving DecidableEq, Repr

/-- One element of a memory operation, with its captured operands; an element of 16 bytes is two of 8 (R181). A
stack load's value is captured in `data`, its poison as 1 in `cmp` (R179). -/
structure Elt where
  lane : Nat
  /-- The upper half of a .q element. -/
  hi : Bool
  addr : Nat
  place : Place
  data : Nat
  cmp : Nat
deriving DecidableEq, Repr

/-- A write that has left its gang and is on its way to its home: at the cluster's port or, `atWing`, in the
wing's L2 slice (R207). The list keeps each point's order of arrival. -/
structure Write where
  id : Nat
  lane : Nat
  gang : Nat
  slice : Option Nat
  block : Nat
  wing : Nat
  atWing : Bool
  key : Nat
  addr : Nat
  /-- The generic address that the instruction named. -/
  vaddr : Nat
  bytes : Nat
  data : Nat
  /-- Its bytes are poisoned (R343, R344). -/
  bad : Bool
  /-- It raises nothing where it meets a package that has left the domain: the matrix engine's (R160), or the slice's own. -/
  mute : Bool
deriving DecidableEq, Repr

/-- A byte of a stored row that goes to global memory: its generic address, where it lies, its value, and its poison (R152). -/
structure RowByte where
  gen : Nat
  phys : Nat
  key : Nat
  val : Nat
  bad : Bool
deriving DecidableEq, Repr

/-- What a memory operation does (R186 to R190). -/
inductive MemKind where
  /-- A load, sign-extended or not. -/
  | load (sx : Bool)
  | store
  /-- An atomic: its AOP and whether it returns the old value. -/
  | atomic (aop : Nat) (ret : Bool)
deriving DecidableEq, Repr

/-- An outstanding memory operation; `elts` are the elements not yet performed, still in the gang's combiner or
unread (R184, R187, R190, R207). -/
structure MemOp where
  id : Nat
  gang : Nat
  slice : Option Nat
  kind : MemKind
  /-- Bytes of an element: 1, 2, 4, 8. -/
  bytes : Nat
  /-- 0 weak; else 1 + scope (R185). -/
  ord : Nat
  /-- The token still counts it. -/
  token : Bool
  file : RFile
  dest : Nat
  elts : List Elt
  /-- Lanes still parked keep the token (R184). -/
  parked : Bool
  /-- The tag of its issue. -/
  at_ : Nat
  /-- The cycle of its issue, or of its last replay, and the scratchpad cycles that it takes (R180). -/
  issued : Nat
  banks : Nat
  /-- What the matrix engine stores (R143), poisoned or not (R344); none of an instruction's own operation. -/
  row : Option Bool := none
deriving DecidableEq, Repr

/-- A fence not yet complete (R191); CHKPT is one that then clears SE (R331). -/
structure FenceOp where
  id : Nat
  gang : Nat
  slice : Option Nat
  kind : Nat
  scope : Nat
  chkpt : Bool
deriving DecidableEq, Repr

/-- A cache control not yet complete (R193). -/
structure CctlOp where
  id : Nat
  gang : Nat
  slice : Option Nat
  /-- The tag of its issue, when a token counts it. -/
  tag : Option Nat
  wing : Nat
  inv : Bool
  lo : Nat
  hi : Nat
  part : Nat
deriving DecidableEq, Repr

/-- A line held by a wing's L2 slice as a copy of memory homed elsewhere (R207, R214), and the way that holds it (R312). -/
structure L2Copy where
  wing : Nat
  way : Nat
  line : Nat
  key : Nat
  bytes : List (BitVec 8)
  /-- The poisoned grains that it holds (R344). -/
  bad : List ErrSite
deriving DecidableEq, Repr

/-- A park record (R182, R333). -/
structure Park where
  id : Nat
  gang : Nat
  slice : Option Nat
  pc : Nat
  unfinished : Mask
  refused : Mask
  /-- Faulting lanes: lane, virtual address, kind of access (0 read, 1 write, 2 atomic). -/
  faults : List (Nat × Nat × Nat)
  /-- Refused lanes: lane, virtual address, TRAPAUX (R182, R309). -/
  refusals : List (Nat × Nat × Nat)
  /-- The operation that keeps the instruction's token, if any. -/
  op : Option Nat
  ready : Bool
deriving DecidableEq, Repr

/-! ### Engines (R142, R196, R199, R268) -/

/-- What an engine entry does, with its issue-time operands (R147 to R157, R164 to R172). -/
inductive MxOp where
  | mma (a b kn : Nat)
  | mzero
  | acld (addr pitch mf : Nat) (se : Int)
  | acst (addr pitch mf : Nat) (se : Int) (sat : Bool)
  | acrd (dest pred row tf : Nat) (sat : Bool) (token : Nat)
  | acwr (row sf : Nat) (vals : List (Nat × Reg))
  | plane (dst src kn fmt : Nat)
  | mpoly (src size n : Nat) (cs : List Reg)
  /-- A MITER with its state record (R170). -/
  | miter (fix te : Bool) (deg size cap count : Nat) (started : Bool) (resid : Reg) (cs : List Reg) (c14 c15 : Reg)
  /-- Its result, once known, with its poison. -/
  | mnorm (size kind : Nat) (done : Option (Reg × Bool))
deriving DecidableEq, Repr

/-- An accepted matrix operation: one band of a quarter operation, or an iteration with all its bands. -/
structure MxJob where
  id : Nat
  gang : Nat
  slice : Option Nat
  block : Nat
  cluster : Nat
  lanes : Mask
  tile : Nat
  fb : Reg
  /-- The (tile, band) pairs it holds entries for (R142, R162). -/
  claims : List (Nat × Nat)
  op : MxOp
  pc : Nat
  at_ : Nat
deriving DecidableEq, Repr

/-- A copy in its engine's queue (R194 to R196); `rows = 0` marks a linear copy. -/
structure Copy where
  id : Nat
  gang : Nat
  block : Nat
  cluster : Nat
  batch : Nat
  dst : Nat
  src : Nat
  bytes : Nat
  rows : Nat
  rowBytes : Nat
  dpitch : Nat
  spitch : Nat
  planed : Option Nat
  barrier : Option Nat
  slice : Option Nat
  /-- The supervisor has declined its fault (R196). -/
  declined : Bool
deriving DecidableEq, Repr

/-- Bytes as an engine operation saw them at some time since its acceptance: by generic address, value and poison (R143, R196,
R200). -/
structure Sight where
  op : Nat
  bytes : List (Nat × Nat × Bool)
deriving DecidableEq, Repr

/-- A byte as an engine has read it, with its poison; none where it could not be read. -/
abbrev EngByte := Option (Nat × Bool)

/-- A submitted stream operation (R200). -/
structure StreamOp where
  id : Nat
  num : Nat
  gang : Nat
  slice : Option Nat
  block : Nat
  coll : Bool
  desc : Nat
  done : Bool
  declined : Bool
  /-- A collective whose members have all been read: the cause to record, the destination and its bytes (R202). -/
  result : Option (Nat × Nat × List EngByte)
deriving DecidableEq, Repr

/-- An engine context (R199, R204). -/
structure StreamCtx where
  wing : Nat
  ctx : Nat
  part : Nat
  /-- The declared scope: 2 .w, 3 .s, 4 .d. -/
  scope : Nat
  sub : Nat
  time : Nat
  errNum : Nat
  errMore : Nat
  errCause : Nat
  ops : List StreamOp
deriving DecidableEq, Repr

/-- One lane's camera and cut of a view: addresses, and the records once read (R269, R271). -/
structure ViewSrc where
  lane : Nat
  camAddr : Nat
  cutAddr : Nat
  cam : Option Camera
  cut : Option Cut
  camBad : Bool
  cutBad : Bool
  loaded : Bool
deriving DecidableEq, Repr

/-- A pixel of a view that is settled: lane of the source, pixel index, value. -/
structure Pixel where
  lane : Nat
  pixel : Nat
  val : Nat
deriving DecidableEq, Repr

/-- A view from its issue to its delivery (R268, R284 to R295). -/
structure View where
  id : Nat
  gang : Nat
  slice : Option Nat
  block : Nat
  launch : Nat
  wing : Nat
  level : Nat
  perLane : Bool
  kind : Nat
  res : Nat
  dest : Nat
  token : Nat
  lanes : Mask
  pc : Nat
  at_ : Nat
  /-- The cycle of its issue (R297). -/
  issued : Nat
  refused : Bool
  /-- Its number in the order of admission; none while it is parked (R295, R301). -/
  admitted : Option Nat
  srcs : List ViewSrc
  /-- The shading kernel's header, as read (R289). -/
  shade : Option LaunchHdr
  rays : List Ray
  pixels : List Pixel
  /-- Shading gangs not yet started, each with its hit rays by lane. -/
  toStart : List (List Ray)
  running : Nat
  prepared : Bool
  /-- A shading lane died or a shading gang was ended (R291). -/
  shadeFail : Bool
  /-- When the traversal unit served it last, for the rotation of R268. -/
  served : Nat
deriving DecidableEq, Repr

/-- A special function in flight: its results by lane (R120). -/
structure SpecialOp where
  id : Nat
  gang : Nat
  slice : Option Nat
  token : Nat
  dest : Nat
  vals : List (Nat × Reg)
  at_ : Nat
deriving DecidableEq, Repr

/-- A waiting NDALLOC request (R263). -/
structure Grant where
  gang : Nat
  slice : Option Nat
  lanes : Mask
  dest : Nat
  token : Nat
  op : Nat
deriving DecidableEq, Repr

/-- A record of a pool (R262). -/
inductive RecState where
  | free
  | allocated (block : Nat)
  /-- Queued to a node, in the heat of a sequence number (R265). -/
  | queued (node seq : Nat)
  | delivered (block : Nat)
deriving DecidableEq, Repr

end Sys2Proof.Machine
end

