-- ==== Sys2Proof/Machine/State.lean ====
section
/-!
DEFINITION. Machine/State.lean: the state of the package, the reasons a step can stop, and the state at reset.
Everything is plain data. What each field holds is named by its rule.
-/

namespace Sys2Proof.Machine

/-- Why the machine stops with a fault. -/
inductive Fault where
  /-- An instruction is executed while no agent holds the issue (exec outside a step). Safe: no agent of the
  machine ever issues without its easel's choice (R248). -/
  | noIssuingAgent
  /-- An event is executed that the state does not enable: what it names does not exist or its conditions do
  not hold. Safe: such an event does not happen (95). -/
  | notEnabled
deriving DecidableEq, Repr

/-- Why a step is refused. -/
inductive Refusal where
  /-- An instruction with no meaning yet, by its mnemonic. Safe: nothing is claimed of it. -/
  | notModelled (mnemonic : String)
deriving DecidableEq, Repr

/-! ### Isolation (17) -/

/-- A page of a partition's table (R177): its specification, and the new home of one in migration (R334). -/
structure Page where
  part : Nat
  spec : PageSpec
  moving : Option Nat
deriving DecidableEq, Repr

/-- A partition-table entry, word by word (R304). -/
structure PartEntry where
  wings : Nat
  shwings : Nat
  keys : Nat
  hbmslot : Nat
  fabw : Nat
  cfg : Nat
  cause : Nat
  state : Nat
deriving DecidableEq, Repr

def PartEntry.zero : PartEntry := ⟨0, 0, 0, 0, 0, 0, 0, 0⟩

/-- A submission queue (R254). -/
structure SubQueue where
  base : Nat
  entries : Nat
  cap : Nat
  head : Nat
  tail : Nat
  err : Bool
deriving DecidableEq, Repr

def SubQueue.zero : SubQueue := ⟨0, 0, 0, 0, 0, false⟩

/-- A virtual function's queues and MSI-X state (R254, R317, R318). -/
structure Func where
  queues : List SubQueue
  unmasked : List Nat
  pending : List Nat
  /-- Address and data of the MSI-X entries: 32-bit words by 4·entry + word (R317). -/
  msix : SMap 32
  sent : Nat
  /-- IRQBUDGET as it holds in the present window (R306). -/
  budget : Nat
  /-- The partition's memory for heat blocks (R265). -/
  heatBase : Nat
  heatBytes : Nat
deriving DecidableEq, Repr

def Func.zero : Func := ⟨List.replicate 16 SubQueue.zero, [], [], [], 0, 0, 0, 0⟩

/-- A message leaving the package. -/
inductive Out where
  /-- An MSI-X message: partition and entry, and the entry's address and data (R317, R318). -/
  | msix (part vector addr data : Nat)
  /-- A memory request of the client port: completed with Unsupported Request, or a read answered (R22, R317, R319). -/
  | unsupported (fn offset : Nat)
  | host (fn offset val : Nat)
  /-- A configuration request's completion: retry or success (R22). -/
  | config (fn : Nat) (retry : Bool)
  /-- A report of the management interface: the failing or reduced step and the unit (R24, R353). -/
  | report (step unit : Nat)
  /-- An SPDM or PLDM answer: the request and its figures (R362 to R364). -/
  | answer (request : String) (vals : List Nat)
  /-- Lane deaths and uncorrectable errors passed to the supervisor OS (R321, R347). -/
  | laneLost (gang lane : Nat)
  | errorEvent (site : ErrSite)
  /-- A device's read of package memory, each byte with its poison (R19, R344). -/
  | device (dev : Nat) (data : List (BitVec 8 × Bool))
  /-- An access fault on the supervisor core that made it, and what its load returns, with its poison (R20, R344). -/
  | accessFault (core addr : Nat)
  | loaded (core addr val : Nat) (bad : Bool)
  /-- QUIESCE sent on every live plane (R356). -/
  | quiesce (planes : Nat)
deriving DecidableEq, Repr

/-! ### Graphs (R254 to R267) -/

/-- How a node stands (R258). -/
inductive NodeState where
  | waiting | released | complete | failed (status detail : Nat) | never
deriving DecidableEq, Repr

/-- A node of a running graph (R256). -/
structure Node where
  launchAddr : Nat
  npred : Nat
  succ : List Nat
  heat : Nat
  timeout : Nat
  poolBase : Nat
  rsize : Nat
  pooln : Nat
  edges : List Nat
  /-- The declared operand regions, base and bytes (R256). -/
  region0 : Nat
  size0 : Nat
  region1 : Nat
  size1 : Nat
  /-- The launch header of a record-fed node, checked with the graph (R257). -/
  hdr : Option LaunchHdr
  state : NodeState
  /-- Records of its pool by address; a record unlisted is free (R262). -/
  recs : List (Nat × RecState)
  /-- The pool's queue of free records (R299). -/
  free : List Nat
  /-- Records queued to it beyond its open heat, and the open heat (R265). -/
  open_ : List Nat
  deadline : Option Nat
  seq : Nat
  grants : List Grant
  /-- Heats launched and not yet ended. -/
  heatsLive : Nat
deriving DecidableEq, Repr

/-- A running graph (R255 to R258). -/
structure Graph where
  id : Nat
  part : Nat
  tag : Nat
  prio : Nat
  irq : Bool
  vector : Nat
  compl : Nat
  nodes : List Node
  /-- The first failure recorded: node, status, detail. -/
  failure : Option (Nat × Nat × Nat)
  /-- The cluster on which the pool holds back room for its record-fed nodes (R261). -/
  reserve : Option Nat
  /-- Its completion record is written; blocks of a failed node run on with its pools (R258; log 23). -/
  done : Bool
deriving DecidableEq, Repr

/-! ### Recovery (18, 20, 21) -/

/-- The pre-emption mailbox (R335). -/
structure Mailbox where
  area : Nat
  limit : Nat
  state : Nat
  drained : Nat
  flushed : Nat
  saved : Nat
  cluster : Nat
  /-- Where the next context goes. -/
  next : Nat
  /-- Blocks of the request that are still resident. -/
  todo : List Nat
  /-- A context did not fit the area: the request completes with STATE 4. -/
  full : Bool
deriving DecidableEq, Repr

/-- A saved context (R339 to R341): where it was written, and what it holds beside the block and its gangs, which
stand in the state as saved. -/
structure Saved where
  addr : Nat
  key : Nat
  layout : Nat
  block : Nat
  part : Nat
  /-- MITERs and the entries behind them, in engine order. -/
  jobs : List MxJob
  /-- Views parked at admission, and NDALLOC requests with their nodes, withdrawn (R339). -/
  views : List View
  grants : List ((Nat × Nat) × Grant)
  /-- Fences not complete, which are issued again (R339). -/
  fences : List FenceOp
deriving DecidableEq, Repr

/-- A link's state: rate notch 0 to 3 from the fastest, up or down, replays failed in a row, retraining (R352, R353). -/
structure LinkState where
  link : Link
  notch : Nat
  up : Bool
  replays : Nat
  retraining : Bool
deriving DecidableEq, Repr

/-- A rehash in progress (R356). -/
structure Rehash where
  dead : Nat
  /-- The first number of what is issued while it runs. -/
  since : Nat
  /-- Maps installed, held requests not yet resumed. -/
  installed : Bool
  /-- The requests that had been sent when it began, by operation and physical address: every other is held. -/
  onWay : List (Nat × Nat)
deriving DecidableEq, Repr

/-- The firmware complex (R358 to R365). -/
structure Firmware where
  boxes : List (List MailMsg)
  /-- Messages held by senders whose target box is full, with the target. -/
  held : List (Nat × MailMsg)
  active : List Image
  staging : List (Option Image)
  /-- 0 none, 1 transferred, 2 verified and ready, 3 activation requested and not yet made. -/
  stage : List Nat
  /-- The blocks whose saves in progress a requested activation awaits (R364). -/
  deciding : List Nat
  reason : Nat
  minSvn : List Nat
  measure : List (BitVec 384)
  activations : Nat
  restarting : Bool
  /-- The save layout written, and those restored. -/
  writes : Nat
  lists : List Nat
deriving DecidableEq, Repr

/-- The package as a whole: start-up, clock, power, client port (R22 to R25). -/
structure Package where
  /-- The last start-up step completed; 7 once the port is ready; 0 before. -/
  boot : Nat
  halted : Bool
  powered : Bool
  clock : Nat
  nano : Nat
  nanoRem : Nat
  mhz : Nat
  sealedMhz : Nat
  /-- The present 10 µs window of the interrupt arbiter (R318). -/
  irqWin : Nat
  pkgid : Nat
  badStacks : List Nat
  badDies : List Nat
  clientReady : Bool
  clientUp : Bool
  planeMap : Nat
  planeLive : Nat
  planeEpoch : Nat
  rehash : Option Rehash
  departed : List Nat
  links : List LinkState
deriving DecidableEq, Repr

/-- Memory and its translation (R11, R177, R308 to R311). -/
structure Mem where
  /-- Bytes by domain physical address; an unlisted byte reads zero. -/
  bytes : SMap 8
  /-- Key id and epoch of the last write of a 64-byte unit, as 1 + key + 256·epoch; 0 before any write. -/
  units : SMap 32
  /-- The epoch of each key id (R311). -/
  epochs : SMap 8
  /-- Background scrubs running, and rekeys waiting, by key id (R311). -/
  scrubs : List Nat
  rekeys : List Nat
  pages : List Page
  devicePages : List (Nat × PageSpec)
  copies : List L2Copy
  /-- Earlier values of code words written while a block of their launch is resident, by address over 4 and the key id under which
  they are fetched, oldest first (R67, R310). -/
  was : List (Nat × Nat × Word)
deriving DecidableEq, Repr

/-- Everything outstanding in the memory system and the engines. -/
structure Flight where
  ops : List MemOp
  /-- Writes between their gangs and their homes. -/
  writes : List Write
  fences : List FenceOp
  cctls : List CctlOp
  parks : List Park
  jobs : List MxJob
  copies : List Copy
  ctxs : List StreamCtx
  /-- What the engines have seen of their sources so far. -/
  sights : List Sight
  views : List View
  specials : List SpecialOp
deriving DecidableEq, Repr

/-- Errors and marks (R343 to R351). -/
structure Errors where
  poison : List ErrSite
  /-- Counts by structure and place: correctable and uncorrectable. -/
  counts : List (ErrSite × Nat × Nat)
  badEngines : List Nat
  deadCopy : List Nat
  deadStream : List Nat
  deadSketch : List Nat
deriving DecidableEq, Repr

/-- The machine. -/
structure State where
  pkg : Package
  mem : Mem
  parts : List PartEntry
  funcs : List Func
  graphs : List Graph
  launches : List Launch
  blocks : List Block
  gangs : List Gang
  fl : Flight
  mailbox : Mailbox
  saved : List Saved
  errs : Errors
  fw : Firmware
  /-- Stall counters by 16·easel + selector (R252). -/
  counters : SMap 64
  /-- The next operation or record number. -/
  fresh : Nat
  /-- Counts the free choices taken: the model's own field. -/
  choice : Nat
  /-- The easel whose turn of the present cycle is next: the model's own field. -/
  turn : Nat
  /-- The agent whose instruction the next step runs: the model's own field. -/
  issuing : Option AgentId
  /-- Events from outside, in the order in which they happen: the model's own field. -/
  inputs : List Instr
  out : List Out
deriving DecidableEq, Repr

/-- The eight fabric ports and the eight UCIe links as trained (R12, R17). -/
def linksTrained : List LinkState :=
  (List.range 8).map (fun n => ⟨.port n, 0, true, 0, false⟩) ++
  (List.range 4).map (fun n => ⟨.ring n, 0, true, 0, false⟩) ++
  (List.range 4).map (fun n => ⟨.hub n, 0, true, 0, false⟩)

/-- An active image as the part leaves the factory (R360). -/
def shippedImage (component : Nat) : Image := ⟨Config.shippedHeader component, Config.shippedPayload component⟩

/-- The package right after reset, before step 1 of R24: nothing placed, nothing mapped, no port ready.
That all links, and the client link, are up at their top rate here is the model's choice (log 1). -/
def State.reset : State :=
  { pkg := { boot := 0, halted := false, powered := true, clock := 0, nano := 0, nanoRem := 0, mhz := 940,
             sealedMhz := 940, irqWin := 0, pkgid := 0, badStacks := [], badDies := [], clientReady := false,
             clientUp := true, planeMap := 0xFAC688, planeLive := 0xFF, planeEpoch := 0, rehash := none,
             departed := [], links := linksTrained }
    mem := { bytes := [], units := [], epochs := [], scrubs := [], rekeys := [], pages := [],
             devicePages := [], copies := [], was := [] }
    parts := List.replicate 16 PartEntry.zero
    funcs := List.replicate 16 Func.zero
    graphs := [], launches := [], blocks := [], gangs := []
    fl := { ops := [], writes := [], fences := [], cctls := [], parks := [], jobs := [], copies := [], ctxs := [], sights := [],
            views := [], specials := [] }
    mailbox := { area := 0, limit := 0, state := 0, drained := 0, flushed := 0, saved := 0, cluster := 0,
                 next := 0, todo := [], full := false }
    saved := []
    errs := { poison := [], counts := [], badEngines := [], deadCopy := [], deadStream := [], deadSketch := [] }
    fw := { boxes := List.replicate 8 [], held := [], active := [shippedImage 0, shippedImage 1], staging := [none, none],
            stage := [0, 0], deciding := [], reason := 0, minSvn := [0, 0], measure := List.replicate 5 0, activations := 0,
            restarting := false, writes := 1, lists := [1] }
    counters := [], fresh := 1, choice := 0, turn := 0, issuing := none, inputs := [], out := [] }

end Sys2Proof.Machine
end

