-- ==== Sys2Proof/Machine/Ops.lean ====
section
/-!
DEFINITION. Machine/Ops.lean: the named operations over the state: lanes, lookups and updates, registers,
memory, translation, choices, and taking and returning from a trap.
-/

namespace Sys2Proof.Machine

abbrev StepOut := Host.Outcome State Fault Refusal

/-! ### Lane masks (R27, R28) -/

def laneBit (i : Nat) : Mask := BitVec.ofNat 32 (2 ^ i)
def hasLane (m : Mask) (i : Nat) : Bool := m.getLsbD i
/-- The lanes of a mask in ascending order. -/
def lanesOf (m : Mask) : List Nat := (List.range 32).filter (hasLane m)
def maskOf (l : List Nat) : Mask := l.foldl (fun acc i => acc ||| laneBit i) 0
/-- The mask of the lanes for which `f` holds. -/
def maskWhere (f : Nat → Bool) : Mask := maskOf ((List.range 32).filter f)
/-- The four lanes of a slice. -/
def sliceLanes (s : Nat) : Mask := BitVec.ofNat 32 (0xF * 2 ^ (4 * s))
/-- The eight lanes of a quarter. -/
def quarterLanes (q : Nat) : Mask := BitVec.ofNat 32 (0xFF * 2 ^ (8 * q))
/-- The lowest lane of a mask; 32 when there is none. -/
def lowLane (m : Mask) : Nat := (lanesOf m).headD 32
def bitAt (n i : Nat) : Bool := n / 2 ^ i % 2 == 1

/-! ### Lookups and updates -/

def State.gang? (s : State) (id : Nat) : Option Gang := s.gangs.find? (fun g => g.id == id)
def State.block? (s : State) (id : Nat) : Option Block := s.blocks.find? (fun b => b.id == id)
def State.launch? (s : State) (id : Nat) : Option Launch := s.launches.find? (fun l => l.id == id)
def State.graph? (s : State) (id : Nat) : Option Graph := s.graphs.find? (fun g => g.id == id)
def State.view? (s : State) (id : Nat) : Option View := s.fl.views.find? (fun v => v.id == id)
def State.park? (s : State) (id : Nat) : Option Park := s.fl.parks.find? (fun p => p.id == id)
def State.op? (s : State) (id : Nat) : Option MemOp := s.fl.ops.find? (fun o => o.id == id)
def State.job? (s : State) (id : Nat) : Option MxJob := s.fl.jobs.find? (fun j => j.id == id)
def State.part (s : State) (n : Nat) : PartEntry := s.parts.getD n PartEntry.zero
def State.func (s : State) (n : Nat) : Func := s.funcs.getD n Func.zero
def Graph.node? (g : Graph) (i : Nat) : Option Node := g.nodes[i]?

/-- The list with `f` applied where `p` holds. -/
def mapWhere {α : Type} (p : α → Bool) (f : α → α) (l : List α) : List α :=
  l.map (fun x => if p x then f x else x)

def State.modGang (s : State) (id : Nat) (f : Gang → Gang) : State :=
  { s with gangs := mapWhere (fun g => g.id == id) f s.gangs }
def State.modBlock (s : State) (id : Nat) (f : Block → Block) : State :=
  { s with blocks := mapWhere (fun b => b.id == id) f s.blocks }
def State.modLaunch (s : State) (id : Nat) (f : Launch → Launch) : State :=
  { s with launches := mapWhere (fun l => l.id == id) f s.launches }
def State.modGraph (s : State) (id : Nat) (f : Graph → Graph) : State :=
  { s with graphs := mapWhere (fun g => g.id == id) f s.graphs }
def State.modNode (s : State) (gid i : Nat) (f : Node → Node) : State :=
  s.modGraph gid (fun g => { g with nodes := g.nodes.modify i f })
def State.modPart (s : State) (n : Nat) (f : PartEntry → PartEntry) : State :=
  { s with parts := s.parts.modify n f }
def State.modFunc (s : State) (n : Nat) (f : Func → Func) : State :=
  { s with funcs := s.funcs.modify n f }
def State.modView (s : State) (id : Nat) (f : View → View) : State :=
  { s with fl := { s.fl with views := mapWhere (fun v => v.id == id) f s.fl.views } }
def State.dropView (s : State) (id : Nat) : State :=
  { s with fl := { s.fl with views := s.fl.views.filter (fun v => v.id != id) } }
def State.modPark (s : State) (id : Nat) (f : Park → Park) : State :=
  { s with fl := { s.fl with parks := mapWhere (fun p => p.id == id) f s.fl.parks } }
def State.dropPark (s : State) (id : Nat) : State :=
  { s with fl := { s.fl with parks := s.fl.parks.filter (fun p => p.id != id) } }
def State.modOp (s : State) (id : Nat) (f : MemOp → MemOp) : State :=
  { s with fl := { s.fl with ops := mapWhere (fun o => o.id == id) f s.fl.ops } }
def State.dropOp (s : State) (id : Nat) : State :=
  { s with fl := { s.fl with ops := s.fl.ops.filter (fun o => o.id != id) } }
def State.addOp (s : State) (o : MemOp) : State := { s with fl := { s.fl with ops := s.fl.ops ++ [o] } }
def State.modJob (s : State) (id : Nat) (f : MxJob → MxJob) : State :=
  { s with fl := { s.fl with jobs := mapWhere (fun j => j.id == id) f s.fl.jobs } }
def State.dropJob (s : State) (id : Nat) : State :=
  { s with fl := { s.fl with jobs := s.fl.jobs.filter (fun j => j.id != id) } }
def State.modCtx (s : State) (wing ctx : Nat) (f : StreamCtx → StreamCtx) : State :=
  { s with fl := { s.fl with ctxs := mapWhere (fun c => c.wing == wing && c.ctx == ctx) f s.fl.ctxs } }
def State.emit (s : State) (o : Out) : State := { s with out := s.out ++ [o] }

/-- A new operation number. -/
def State.newId (s : State) : Nat × State := (s.fresh, { s with fresh := s.fresh + 1 })

/-- A free choice below `n`, and the state with the choice counted. -/
def State.choose (s : State) (n : Nat) : Nat × State :=
  (Config.pick s.choice n % n, { s with choice := s.choice + 1 })

/-! ### Places: clusters, wings, spans (R10) -/

def wingOf (cluster : Nat) : Nat := cluster / 4
def spanOf (wing : Nat) : Nat := wing / 4
def clusterOfEasel (easel : Nat) : Nat := easel / 4

/-- The compute die of a wing is out of service, and its units with it (R353). -/
def State.dieOff (s : State) (wing : Nat) : Bool := s.pkg.badDies.contains (wing / 12)

/-- The launch header of a gang's block. -/
def State.hdrOf (s : State) (b : Block) : Option LaunchHdr := (s.launch? b.launch).map (·.hdr)

/-! ### Slices and agents (R29) -/

/-- The existing lanes of a gang (R28). -/
def Gang.lanes (g : Gang) : Mask := maskOf (List.range (4 * g.nslices))
/-- The live lanes of a gang: existing, not exited, not dead. -/
def Gang.live (g : Gang) : Mask := g.lanes &&& ~~~(g.exited ||| g.dead)
def Gang.slice? (g : Gang) (i : Nat) : Option Slice := g.slices[i]?
/-- A slice is live when one of its lanes is (R31). -/
def Gang.sliceLive (g : Gang) (i : Nat) : Bool := decide (g.live &&& sliceLanes i ≠ 0)
/-- The live slices of a gang. -/
def Gang.liveSlices (g : Gang) : List Nat := (List.range g.nslices).filter g.sliceLive
def Gang.modSlice (g : Gang) (i : Nat) (f : Slice → Slice) : Gang := { g with slices := g.slices.modify i f }
/-- The slices that an agent issues for. -/
def Gang.members (g : Gang) (sl : Option Nat) : List Nat :=
  match sl with
  | some i => [i]
  | none => g.liveSlices
/-- The gang whose operations in the engines and in memory a gang's are: its own, or those of the gang it shadows (R348). -/
def Gang.owner (g : Gang) : Nat :=
  match g.kind with
  | .shadow p => p
  | _ => g.id

/-- `f` applied to each slice of an agent. -/
def Gang.modAgent (g : Gang) (sl : Option Nat) (f : Slice → Slice) : Gang :=
  (g.members sl).foldl (fun g i => g.modSlice i f) g
/-- The agents of a gang (R29). -/
def Gang.agents (g : Gang) : List (Option Nat) :=
  if g.whole then (if g.liveSlices = [] then [] else [none]) else g.liveSlices.map some
/-- An agent's slice that stands for it: the lowest live one. -/
def Gang.lead (g : Gang) (sl : Option Nat) : Option Slice :=
  match sl with
  | some i => g.slice? i
  | none => g.liveSlices.head?.bind g.slice?
/-- An agent that has a live lane. -/
def Gang.agentLive (g : Gang) (sl : Option Nat) : Bool :=
  match sl with
  | some i => g.sliceLive i
  | none => decide (g.live ≠ 0)

/-- The active lanes of an agent: active in their slices, live (R42, ACTIVEMASK). -/
def Gang.activeOf (g : Gang) (sl : Option Nat) : Mask :=
  (g.members sl).foldl (fun m i => match g.slice? i with
    | some x => m ||| (x.active &&& g.live)
    | none => m) 0

/-- Lanes leave every mask of their slices' stacks and the active masks (R33, R231). -/
def Slice.without (x : Slice) (m : Mask) : Slice :=
  { x with
    active := x.active &&& ~~~m
    deferred := x.deferred.map (fun e => { e with mask := e.mask &&& ~~~m, taken := e.taken &&& ~~~m })
    calls := x.calls.map (fun e => { e with back := e.back &&& ~~~m }) }

def Gang.without (g : Gang) (m : Mask) : Gang := { g with slices := g.slices.map (fun x => x.without m) }

/-! ### Registers (R38) -/

def dKey (r lane : Nat) : Nat := 32 * r + lane

def Gang.getD (g : Gang) (r lane : Nat) : Reg := mapGet g.d (dKey r lane)
def Gang.setD (g : Gang) (r lane : Nat) (v : Reg) : Gang := { g with d := mapSet g.d (dKey r lane) v }
/-- q31 reads zero (R38). -/
def Gang.getQ (g : Gang) (r : Nat) : Reg := if r = 31 then 0 else mapGet g.q r
/-- Writes to q31 are ignored (R38). -/
def Gang.setQ (g : Gang) (r : Nat) (v : Reg) : Gang := if r = 31 then g else { g with q := mapSet g.q r v }
/-- p7 reads true (R38). -/
def Gang.getP (g : Gang) (r : Nat) : Mask := if r = 7 then g.lanes else mapGet g.p r
/-- One lane of a predicate; writes to p7 are ignored (R38). -/
def Gang.setP (g : Gang) (r lane : Nat) (v : Bool) : Gang :=
  if r = 7 then g
  else
    let m := mapGet g.p r
    { g with p := mapSet g.p r (if v then m ||| laneBit lane else m &&& ~~~laneBit lane) }
def Gang.getC (g : Gang) (r : Nat) : Reg := mapGet g.c r
def Gang.setC (g : Gang) (r : Nat) (v : Reg) : Gang := { g with c := mapSet g.c r v }
def Gang.getAmax (g : Gang) (lane : Nat) : Word := mapGet g.amax lane
def Gang.setAmax (g : Gang) (lane : Nat) (v : Word) : Gang := { g with amax := mapSet g.amax lane v }
def Gang.getK (g : Gang) (j : Nat) : Nat := g.k.getD j 0
/-- A token counter one up or one down; it never wraps (R41). -/
def Gang.incK (g : Gang) (j : Nat) : Gang := { g with k := g.k.modify j (· + 1) }
def Gang.decK (g : Gang) (j now : Nat) : Gang :=
  { g with k := g.k.modify j (· - 1), kzero := if g.getK j = 1 then g.kzero.set j now else g.kzero }

/-- A register of any file, one lane of it where it is per lane. -/
def Gang.getR (g : Gang) (f : RFile) (r lane : Nat) : Reg :=
  match f with
  | .d => g.getD r lane
  | .q => g.getQ r
  | .c => g.getC r
  | .p => if hasLane (g.getP r) lane then 1 else 0
  | .amax => (g.getAmax lane).setWidth 64

def Gang.setR (g : Gang) (f : RFile) (r lane : Nat) (v : Reg) : Gang :=
  match f with
  | .d => g.setD r lane v
  | .q => g.setQ r v
  | .c => g.setC r v
  | .p => g.setP r lane (v != 0)
  | .amax => g.setAmax lane (v.setWidth 32)

/-- The lane key under which a register of one value for the gang is kept. -/
def laneKey (f : RFile) (lane : Nat) : Nat :=
  match f with
  | .q | .c => 0
  | _ => lane

/-- The values before the writes that have not landed yet, the latest write's first (R83). -/
def Gang.oldsOf (g : Gang) (now : Nat) (f : RFile) (r lane : Nat) : List OldVal :=
  g.olds.filter (fun o => o.file == f && o.idx == r && o.lane == laneKey f lane && decide (now < o.till))

/-- The value before the latest write that has not landed yet (R83). -/
def Gang.oldOf (g : Gang) (now : Nat) (f : RFile) (r lane : Nat) : Option OldVal := (g.oldsOf now f r lane).head?

/-- The lanes of a register that await a token-tracked result (R85). -/
def Gang.awaiting (g : Gang) (f : RFile) (r : Nat) : Mask :=
  g.outst.foldl (fun m o => if o.file == f && o.idx == r then m ||| o.lanes else m) 0

/-- A register's lane is outstanding (R85); a q register counts for every lane. -/
def Gang.isOut (g : Gang) (f : RFile) (r lane : Nat) : Bool :=
  match f with
  | .q | .c => g.awaiting f r != 0
  | _ => hasLane (g.awaiting f r) lane

/-- The key of a register's free mixtures. -/
def mixKey (f : RFile) (r : Nat) (write : Bool) : Nat := 128 * f.code + r + (if write then 64 else 0)

/-- Elements of width `w` taken from `a` where the free mask says so, else from `b` (R83). -/
def mixElems (w : Nat) (m a b : Reg) : Reg :=
  packW w (fun k => if elem w k m % 2 = 1 then elem w k a else elem w k b)

/-- A value mixed freely with those before the writes that have not landed, each write by a mask of its own (R83). -/
def mixOlds (choice w key lane : Nat) : List OldVal → Reg → Reg
  | [], v => v
  | o :: t, v => mixOlds choice w (key + 1024) lane t (mixElems w (Config.mixMask choice key lane) o.val v)

/-- A source as an instruction reads it at issue, element width `w` (R80, R83, R85): the register, or, while writes have not
landed, a free mixture with what stood before each. -/
def Gang.readR (g : Gang) (now choice w : Nat) (f : RFile) (r lane : Nat) : Reg :=
  mixOlds choice w (mixKey f r false) lane (g.oldsOf now f r lane) (g.getR f r lane)

/-- A write to q31 or p7, which is ignored (R38). -/
def ignoredReg (f : RFile) (r : Nat) : Bool := (f == .q && r == 31) || (f == .p && r == 7)

/-- A written lane of an outstanding register is marked, for its delivery (R85). -/
def Gang.touch (g : Gang) (f : RFile) (r lane : Nat) : Gang :=
  let m : Mask := if f == .q || f == .c then 0xFFFFFFFF else laneBit lane
  { g with outst := mapWhere (fun o => o.file == f && o.idx == r)
                             (fun o => { o with touched := o.touched ||| m }) g.outst }

/-- The values kept of other registers and lanes. -/
def Gang.oldsBut (g : Gang) (f : RFile) (r lane : Nat) : List OldVal :=
  g.olds.filter (fun o => !(o.file == f && o.idx == r && o.lane == laneKey f lane))

/-- Fixed-latency writes of a register that have not landed, over which another is made: their landing is still awaited
(R86). -/
def Gang.unlanded (g : Gang) (now : Nat) (f : RFile) (r lane : Nat) : List OldVal :=
  g.olds.filter (fun o => o.file == f && o.idx == r && o.lane == laneKey f lane && decide (now < o.lands) &&
    decide (o.lands < 2 ^ 63))

/-- A fixed-latency write (R80, R83): the value before it is kept until it lands; a write over one that has not
landed leaves a free mixture in each element. -/
def Gang.writeR (g : Gang) (now choice lat w : Nat) (f : RFile) (r lane : Nat) (v : Reg) : Gang :=
  if ignoredReg f r then g
  else
    let cur := g.getR f r lane
    let v' := match g.oldOf now f r lane with
      | some _ => mixElems w (Config.mixMask choice (mixKey f r true) lane) cur v
      | none => v
    let rest := g.oldsBut f r lane
    let g1 := { g with olds := if lat = 0 then rest
                               else rest ++ (OldVal.mk f r (laneKey f lane) cur (now + lat) (now + lat) :: g.unlanded now f r lane) }
    (if g.isOut f r lane then g1.touch f r lane else g1).setR f r lane v'

/-- A pending write of a shared register is another slice's: a slice's own write comes after it in issue order (R30, R135). -/
def Gang.foreign (g : Gang) (sl : Option Nat) (now : Nat) (f : RFile) (r : Nat) : Bool :=
  sl.isSome && g.shared.any (fun h => h.file == f && h.idx == r && decide (now < h.lands) && h.slice.isSome && h.slice != sl)

/-- The values that a slice's own writes of a shared register, and those of the whole gang before it parted, have still to land
(R83). -/
def Gang.ownPending (g : Gang) (sl : Option Nat) (now : Nat) (f : RFile) (r : Nat) : List Reg :=
  (g.shared.filter (fun h => h.file == f && h.idx == r && decide (now < h.lands) && (h.slice.isNone || h.slice == sl))).filterMap (·.val)

/-- A write mixed freely with those of its own agent that have not landed, each by a mask of its own (R83). -/
def mixOwn (choice w key : Nat) : List Reg → Reg → Reg
  | [], v => v
  | u :: t, v => mixOwn choice w (key + 1024) t (mixElems w (Config.mixMask choice key 0) u v)

/-- An agent's fixed-latency write of a register that its gang shares: over another slice's it follows in issue order, so that its
own value stands, or that of a write of its own that has not landed; and once it has landed no read gives a value before it
(R30, R83, R135). -/
def Gang.writeShared (g : Gang) (sl : Option Nat) (now choice lat w : Nat) (f : RFile) (r : Nat) (v : Reg) : Gang :=
  if g.foreign sl now f r && (g.oldOf now f r 0).isSome then
    let h := ({ g with olds := g.oldsBut f r 0 }).writeR now choice lat w f r 0
      (mixOwn choice w (mixKey f r true) (g.ownPending sl now f r) v)
    { h with olds := h.olds ++ (g.unlanded now f r 0).map (fun o => { o with till := min o.till (now + lat) }) }
  else g.writeR now choice lat w f r 0 v

/-- The lanes of a register in which another write has still to land, fixed-latency or token-tracked, when a token-tracked result
of it is issued: the two may come in either order (R83, R85). -/
def Gang.racing (g : Gang) (now : Nat) (f : RFile) (r : Nat) (lanes : Mask) : Mask :=
  maskWhere (fun l => hasLane lanes l && (g.unlanded now f r l != [] || g.isOut f r l))

/-- A register awaits a token-tracked result (R85). A write of it that has still to land races with the result, and so does
the result with another that is outstanding (R83). -/
def Gang.await (g : Gang) (now token op : Nat) (lanes : Mask) (p : RFile × Nat) : Gang :=
  let m := g.racing now p.1 p.2 lanes
  let h := (lanesOf m).foldl (fun h l => h.touch p.1 p.2 l) g
  { h with outst := h.outst ++ [⟨p.1, p.2, lanes, m, token, op⟩] }

/-- A token-tracked result reaches one lane (R85, R184): over a lane written since, a free mixture; until the
token counts it, a read may still see the value before. -/
def Gang.deliverR (g : Gang) (now choice w op : Nat) (f : RFile) (r lane : Nat) (v : Reg) : Gang :=
  if ignoredReg f r || (f != .q && f != .c && hasLane (g.exited ||| g.dead) lane) then g
  else
    let cur := g.getR f r lane
    let raced := g.outst.any (fun o => o.op == op && o.file == f && o.idx == r && hasLane o.touched lane)
    let v' := if raced then mixElems w (Config.mixMask choice (mixKey f r true) lane) cur v else v
    ({ g with olds := g.oldsBut f r lane ++ (OldVal.mk f r (laneKey f lane) cur (now + 2 ^ 64) (now + 2 ^ 64) ::
        g.oldsOf now f r lane) }).setR f r lane v'

/-- The operation's registers are outstanding no more (R85). -/
def Gang.settleR (g : Gang) (op : Nat) : Gang :=
  let mine := g.outst.filter (fun o => o.op == op)
  { g with
    outst := g.outst.filter (fun o => o.op != op)
    olds := g.olds.filter (fun o => !(decide (2 ^ 63 ≤ o.lands) && mine.any (fun m => m.file == o.file && m.idx == o.idx))) }

/-! ### Memory (R11, R308 to R311) -/

/-- A domain physical address names backed memory (R11). The memory of a stack that start-up lost is not (R24; log 75). -/
def backed (s : State) (a : Nat) : Bool :=
  let l := a % 2 ^ 48
  decide (l / 2 ^ 41 = 0) && decide (l / 2 ^ 37 < Config.spans) && decide (l % 2 ^ 37 < Config.stackBytes) &&
  decide (a < 2 ^ 56) && !(a / 2 ^ 48 == s.pkg.pkgid && s.pkg.badStacks.contains (l / 2 ^ 37 % 16))

/-- The tag of a unit written now under a key (R311). -/
def Mem.tag (m : Mem) (key : Nat) : Nat := 1 + key + 256 * (mapGet m.epochs key).toNat

/-- The bytes of the 64-byte unit of an address, as its last writer left them. -/
def Mem.unitBytes (m : Mem) (a : Nat) : List Nat := (List.range 64).map (fun i => (mapGet m.bytes (a / 64 * 64 + i)).toNat)

/-- A byte of a unit that key pair `was` encrypted, decrypted under key pair `now`; the tweak is the unit's local address (R308,
R310). -/
def Mem.recrypt (m : Mem) (was now : BitVec 512) (a : Nat) : BitVec 8 :=
  let unit := a % 2 ^ 48 / 64
  BitVec.ofNat 8 ((xtsDecrypt now unit (xtsEncrypt was unit (m.unitBytes a))).getD (a % 64) 0)

/-- The tag names one of the key's epochs: its key id, and its epoch. -/
def tagKey (u : Nat) : Nat := (u - 1) % 256
def tagEpoch (u : Nat) : Nat := (u - 1) / 256

/-- One byte read at a physical address under a key id (R308, R310, R311). -/
def Mem.read (m : Mem) (key a : Nat) : BitVec 8 :=
  let u := (mapGet m.units (a / 64)).toNat
  if u = 0 ∨ u = m.tag key then mapGet m.bytes a
  else if tagEpoch u ≠ (mapGet m.epochs key).toNat then 0
  else m.recrypt (Config.keyPair (tagKey u) (tagEpoch u)) (Config.keyPair key (tagEpoch u)) a

/-- A unit brought under the key that writes it: its bytes as a read under that key returns them (R310, R311). -/
def Mem.adopt (m : Mem) (key a : Nat) : Mem :=
  let u := (mapGet m.units (a / 64)).toNat
  if u = m.tag key then m
  else
    let base := a / 64 * 64
    let cells := (List.range 64).map (fun i => (base + i, m.read key (base + i)))
    { m with bytes := if u = 0 then m.bytes else mapSetAll m.bytes cells
             units := mapSet m.units (a / 64) (BitVec.ofNat 32 (m.tag key)) }

/-- One byte written at a physical address under a key id (R308, R311). -/
def Mem.write (m : Mem) (key a : Nat) (v : BitVec 8) : Mem :=
  let m1 := m.adopt key a
  { m1 with bytes := mapSet m1.bytes a v }

/-- `n` bytes written, little-endian. -/
def Mem.writeN (m : Mem) (key a n v : Nat) : Mem :=
  (leCells a n v).foldl (fun acc p => acc.write key p.1 p.2) m

def Mem.readN (m : Mem) (key a n : Nat) : Nat := leGet (fun x => (m.read key x).toNat) a n

/-- The canonical form of memory: keys strictly rising, no listed byte that an unlisted address reads as, no unit
listed as never written, no epoch listed as the first. -/
def Memory.wf (m : Mem) : Bool := mapWf m.bytes && mapWf m.units && mapWf m.epochs

/-! ### Poison (R344) -/

/-- The poison sites that cover a byte of physical memory. -/
def physPoison (a : Nat) (e : ErrSite) : Bool :=
  match e with
  | .l2 _ w _ => w == a / 8
  | .hbm u => u == a / 64
  | .l2tag _ l _ => l == a / 256
  | _ => false

def scratchPoison (blk o : Nat) (e : ErrSite) : Bool :=
  match e with
  | .scratch b w => b == blk && w == o / 8
  | _ => false

def State.physBad (s : State) (a n : Nat) : Bool :=
  s.errs.poison.any (fun e => (List.range n).any (fun i => physPoison (a + i) e))
def State.scratchBad (s : State) (blk o n : Nat) : Bool :=
  s.errs.poison.any (fun e => (List.range n).any (fun i => scratchPoison blk (o + i) e))
def State.poisoned (s : State) (e : ErrSite) : Bool := s.errs.poison.contains e
def State.addPoison (s : State) (e : ErrSite) : State :=
  if s.errs.poison.contains e then s else { s with errs := { s.errs with poison := e :: s.errs.poison } }
def State.clearPoison (s : State) (p : ErrSite → Bool) : State :=
  { s with errs := { s.errs with poison := s.errs.poison.filter (fun e => !p e) } }

/-- A grain of a lane's stack that `n` bytes at its offset touch, or cover whole. -/
def touchesBacking (gid lane o n : Nat) (e : ErrSite) : Bool :=
  match e with
  | .backing g l w => g == gid && l == lane && decide (8 * w < o + n) && decide (o < 8 * w + 8)
  | _ => false
def coversBacking (gid lane o n : Nat) (e : ErrSite) : Bool :=
  match e with
  | .backing g l w => g == gid && l == lane && decide (o ≤ 8 * w) && decide (8 * w + 8 ≤ o + n)
  | _ => false
def State.backingBad (s : State) (gid lane o n : Nat) : Bool := s.errs.poison.any (touchesBacking gid lane o n)

/-- A grain that a write of `n` bytes at `a` covers whole (R344). -/
def coversPhys (a n : Nat) (e : ErrSite) : Bool :=
  match e with
  | .l2 _ w _ => decide (a ≤ 8 * w) && decide (8 * w + 8 ≤ a + n)
  | .hbm u => decide (a ≤ 64 * u) && decide (64 * u + 64 ≤ a + n)
  | .l2tag _ l _ => decide (a ≤ 256 * l) && decide (256 * l + 256 ≤ a + n)
  | _ => false

def coversScratch (blk o n : Nat) (e : ErrSite) : Bool :=
  match e with
  | .scratch b w => b == blk && decide (o ≤ 8 * w) && decide (8 * w + 8 ≤ o + n)
  | _ => false

/-- A poisoned grain of memory meets `n` bytes at `a`. -/
def touchesPhys (a n : Nat) (e : ErrSite) : Bool := (List.range n).any (fun i => physPoison (a + i) e)

/-! ### Scratchpad (R178) -/

def State.scratchByte (s : State) (blk o : Nat) : Nat :=
  match s.block? blk with
  | some b => (mapGet b.scratch o).toNat
  | none => 0

/-- The poisoned grains that a write of `n` bytes at one place of memory covers, none of it when there is no poison. -/
def State.cleanBacking (s : State) (gid lane o n : Nat) : State :=
  if s.errs.poison = [] then s else s.clearPoison (coversBacking gid lane o n)

/-- `n` bytes written to a block's scratchpad; whole grains lose their poison (R344). -/
def State.scratchWrite (s : State) (blk o n v : Nat) : State :=
  (s.modBlock blk (fun b => { b with scratch := mapSetAll b.scratch (leCells o n v) })).clearPoison
    (coversScratch blk o n)


/-! ### Generic addresses and translation (R176, R177) -/

/-- The spaces of R176. -/
inductive Space where
  | global (a : Nat)
  | scratch (o : Nat)
  | stack (o : Nat)
  | nowhere
deriving DecidableEq, Repr

def spaceOf (a : Nat) : Space :=
  if a < 2 ^ 56 then .global a
  else if 0xFFF0000000000000 ≤ a ∧ a < 0xFFF8000000000000 then .scratch (a - 0xFFF0000000000000)
  else if 0xFFF8000000000000 ≤ a ∧ a < 2 ^ 64 then .stack (a - 0xFFF8000000000000)
  else .nowhere

/-- What a translation gives (R177, R182). -/
inductive Xlat where
  | ok (phys key : Nat)
  /-- A missing page, a permission not granted, or a migration. -/
  | fault
  /-- Refused, with TRAPAUX (R309). -/
  | refused (aux : Nat)
deriving DecidableEq, Repr

/-! ### Partitions (R304, R315) -/

def PartEntry.enabled (p : PartEntry) : Bool := bitAt p.cfg 25
def PartEntry.sealed (p : PartEntry) : Bool := bitAt p.cfg 24

/-- A sealed partition is enabled (R315). -/
def State.sealedLive (s : State) : Bool := s.parts.any (fun p => p.enabled && p.sealed)

/-- A key id is granted to a partition (R304, R309). -/
def PartEntry.hasKey (p : PartEntry) (key : Nat) : Bool := bitAt p.keys key

/-- Kinds of access: 0 read, 1 write, 2 atomic. -/
def pageGrants (p : PageSpec) (kind : Nat) : Bool :=
  match kind with
  | 0 => p.read
  | 1 => p.write
  | _ => p.atomic

def pageCovers (p : PageSpec) (a : Nat) : Bool := decide (p.vbase ≤ a) && decide (a < p.vbase + p.size)

/-! ### Writes to physical memory, and code among them (R67, R208, R344) -/

/-- The address lies in the code segment (R67). -/
def inCode (h : LaunchHdr) (a : Nat) : Bool :=
  decide (h.codebase ≤ a) && decide (a + 4 ≤ h.codebase + h.codesize) && a % 4 == 0

/-- The key ids under which a physical word is fetched as code of launches with a resident block (R67, R309). -/
def State.codeKeys (s : State) (w : Nat) : List Nat :=
  (s.mem.pages.filter (fun p => decide (p.spec.pbase ≤ 4 * w) && decide (4 * w < p.spec.pbase + p.spec.size) &&
    s.blocks.any (fun b => b.resident && !b.ended && p.part == b.part &&
      (s.hdrOf b).any (fun h => inCode h (p.spec.vbase + (4 * w - p.spec.pbase)))))).map (·.spec.key) |>.eraseDups

/-- The code words among `n` bytes at `a` keep their values before the write. -/
def State.codeBefore (s : State) (a n : Nat) : List (Nat × Nat × Word) :=
  ((List.range ((a + n + 3) / 4 - a / 4)).map (a / 4 + ·)).flatMap (fun w =>
    (s.codeKeys w).map (fun k => (w, k, BitVec.ofNat 32 (s.mem.readN k (4 * w) 4))))

/-- Code of which no block is resident any more is fetched anew. -/
def State.forgetCode (s : State) : State :=
  { s with mem := { s.mem with was := s.mem.was.filter (fun p => (s.codeKeys p.1).contains p.2.1) } }

/-- The values that a fetch of a code word may give: those it had under the fetch's key id before it was written while its code
ran, and what stands in memory (R67, R310). -/
def State.fetchWord (s : State) (key a : Nat) : Word :=
  let old := (s.mem.was.filter (fun p => p.1 == a / 4 && p.2.1 == key)).map (·.2.2)
  old.getD (Config.oldCode s.choice a % (old.length + 1)) (BitVec.ofNat 32 (s.mem.readN key a 4))

/-- `n` bytes written to physical memory (R208, R344). -/
def State.physWrite (s : State) (key a n v : Nat) : State :=
  ({ s with mem := { s.mem.writeN key a n v with was := s.mem.was ++ s.codeBefore a n } }).clearPoison (coversPhys a n)

/-- TRAPAUX of a key id that is not granted (R309). -/
def keyAux (key : Nat) : Nat := 4 + 256 * key

/-- Translates a global address of a partition for one kind of access (R177, R309, R334). -/
def State.translate (s : State) (part a kind : Nat) : Xlat :=
  match s.mem.pages.find? (fun p => p.part == part && pageCovers p.spec a) with
  | none => .fault
  | some p =>
    if p.moving.isSome || !pageGrants p.spec kind then .fault
    else
      let phys := p.spec.pbase + (a - p.spec.vbase)
      if !(s.part part).hasKey p.spec.key then .refused (keyAux p.spec.key)
      else if !backed s phys then .refused 0
      else .ok phys p.spec.key

/-- TRAPAUX of a lane whose fault was declined: that of R309 where a page names a key id not granted, else 0 (R182). -/
def State.declineAux (s : State) (part a : Nat) : Nat :=
  match s.mem.pages.find? (fun p => p.part == part && pageCovers p.spec a) with
  | some p => if (s.part part).hasKey p.spec.key then 0 else keyAux p.spec.key
  | none => 0

/-- Every page of `n` bytes from `a`, by steps of 64 KB at most; the first that does not translate. -/
def State.translateRange (s : State) (part a n kind : Nat) : Option (Nat × Xlat) :=
  let pts := (List.range ((a % 65536 + n + 65535) / 65536)).map
    (fun i => if i = 0 then a else a / 65536 * 65536 + 65536 * i)
  (pts.map (fun x => (x, s.translate part x kind))).find? (fun p => match p.2 with
    | .ok _ _ => false
    | _ => true)

/-! ### Signature (R350) -/

/-- One bit step of the reflected CRC-32C register. -/
def crcBits : Nat → BitVec 32 → BitVec 32
  | 0, r => r
  | n + 1, r => crcBits n (if r.getLsbD 0 then (r >>> 1) ^^^ 0x82F63B78 else r >>> 1)

/-- A 32-bit word folded as four bytes, least significant first: the reflected register takes it whole. -/
def foldWord (sig w : Word) : Word := crcBits 32 (sig ^^^ w)

def Gang.fold (g : Gang) (ws : List Word) : Gang :=
  if g.whole then { g with signature := ws.foldl foldWord g.signature } else g

/-! ### Scoreboard (R84, R86) -/

def Slice.budget (x : Slice) (f : RFile) (r : Nat) : Option Budget :=
  x.budgets.find? (fun b => b.file == f && b.idx == r)

/-- A producer's budget (R84): the larger of its current value and L; the recorded latency follows. -/
def Slice.produce (x : Slice) (f : RFile) (r lat : Nat) : Slice :=
  match x.budget f r with
  | none => { x with budgets := x.budgets ++ [⟨f, r, lat, lat⟩] }
  | some b =>
    if b.left < lat then
      { x with budgets := mapWhere (fun b => b.file == f && b.idx == r) (fun b => { b with left := lat, lat := lat }) x.budgets }
    else x

/-- Every issue takes its STALL+1 from every budget (R84). -/
def Slice.spend (x : Slice) (n : Nat) : Slice :=
  { x with budgets := (x.budgets.map (fun b => { b with left := b.left - n })).filter (fun b => b.left != 0) }

/-! ### Taking a trap (R320, R323 to R325) -/

/-- The trap registers as the trap writes them (R320). -/
def GangRegs.take (r : GangRegs) (t : Trap) : GangRegs :=
  { r with trapCode := BitVec.ofNat 64 t.code, trapPc := BitVec.ofNat 64 t.pc,
           trapLanes := t.lanes.setWidth 64, trapAddr := BitVec.ofNat 64 t.addr,
           trapAux := BitVec.ofNat 64 t.aux }

/-- SOFT and TWIN_MISMATCH always escalate (R321). -/
def alwaysEscalates (code : Nat) : Bool := code == 0x15 || code == 0x11

/-- The slices of the agent that runs the gang's handler (R323). -/
def TrapState.has (t : TrapState) (sl : Option Nat) : Bool :=
  match sl with
  | none => true
  | some i => bitAt t.members i

/-- The trap of an agent's slices names no instruction word (R330): ILLEGAL_CLAUSE, LOOP_SHAPE with cause 6, ILLEGAL_TARGET at a
join, which no instruction at that address can raise, since a join is reached before its word issues (R34). -/
def wordless (code pc aux : Nat) (l : List Slice) : Bool :=
  code == 0x01 || (code == 0x07 && aux == 6) ||
  (code == 0x04 && l.any (fun x => x.active != 0 && (x.deferred.head?.map (·.join)) == some pc))

def TrapState.wordless (t : TrapState) : Bool :=
  Machine.wordless t.trap.code t.trap.pc t.trap.aux (t.slices.map (·.2))

/-- The slices of an agent as a mask over slices. -/
def Gang.memberBits (g : Gang) (sl : Option Nat) : Nat := (g.members sl).foldl (fun n i => n + 2 ^ i) 0

/-- The cycles that pending fixed-latency writes still need (R86). -/
def landing (olds : List OldVal) (now : Nat) : Nat :=
  olds.foldl (fun m o => if 2 ^ 63 ≤ o.lands then m else max m (o.lands - now)) 0

/-- The pending fixed-latency writes that the slices of a mask have made, those of a handler (R330): by their lanes, or, of a
register that the gang shares, all but those that another slice is known to have made (R84). -/
def Gang.oldsFrom (g : Gang) (members : Nat) : List OldVal :=
  g.olds.filter (fun o => match o.file with
    | .q | .c => !g.shared.any (fun h => h.file == o.file && h.idx == o.idx && h.lands == o.lands &&
        h.slice.any (fun i => !bitAt members i))
    | _ => bitAt members (o.lane / 4))

/-- The agent parks with the trap for the supervisor OS (R325). -/
def Gang.escalate (g : Gang) (sl : Option Nat) (t : Trap) (replay : Mask) (now : Nat) : Gang :=
  let wordless := wordless t.code t.pc t.aux ((g.members sl).filterMap g.slice?)
  { (g.modAgent sl (fun x => { x with hold := .escalated t.code wordless, replay := some replay })) with
    regs := g.regs.take t, stallSince := some (g.stallSince.getD now) }

/-- The agent enters the user handler (R323, R86): the trap state is saved, the first word waits until every pending write of the
gang has landed, every live lane of the agent is active, the stacks and budgets are empty, and it goes on at TRAPVEC. -/
def Gang.enterHandler (g : Gang) (sl : Option Nat) (t : Trap) (replay : Mask) (vec now : Nat) : Gang :=
  let ts : TrapState :=
    { whole := g.whole, members := g.memberBits sl
      slices := (g.members sl).filterMap (fun i => (g.slice? i).map (fun x => (i, x)))
      replay := replay, trap := t }
  let wait := landing g.olds now
  let start := fun (i : Nat) (x : Slice) =>
    { x with point := .atHeader vec, active := g.live &&& sliceLanes i, deferred := [], loops := [],
             calls := [], budgets := [], replay := none, hold := .none, earliest := max x.earliest (now + wait) }
  let g1 := (g.members sl).foldl (fun h i => h.modSlice i (start i)) g
  { g1 with regs := g.regs.take t, trapState := some ts }

/-- A slice goes on at its trapped word under the replay mask, or after `skip` words (R330). At a header, a join or an
end check there is no word to be limited. -/
def Slice.resume (x : Slice) (replay : Mask) (skip : Option Nat) : Slice :=
  match skip with
  | some n => { x with point := { x.point with pc := x.point.pc + 4 * n }, hold := .none, replay := none }
  | none => { x with hold := .none
                     replay := if x.point.inside && x.point.pc != x.point.stop then some replay else none }

/-- The return from the handler (R330): the trap state is restored, budgets included, held agents are released,
and the agent goes on, once its STALL time has passed and the handler's pending writes have landed. The register file keeps what
the handler left. -/
def Gang.leaveHandler (g : Gang) (ts : TrapState) (skip : Option Nat) (now : Nat) : Gang :=
  let wait := landing (g.oldsFrom ts.members) now
  let back := fun (old x : Slice) =>
    { (x.without (g.exited ||| g.dead)).resume ts.replay skip with
      earliest := max old.earliest (now + wait), readySince := none
      issues := old.issues + (match old.hold with
        | .tret _ => 1
        | _ => 0) }
  let g1 := ts.slices.foldl (fun h p => h.modSlice p.1 (fun old => back old p.2)) g
  let free := fun (x : Slice) => if x.hold = .handler then { x with hold := .none } else x
  { g1 with trapState := none, whole := ts.whole, slices := g1.slices.map free }

end Sys2Proof.Machine
end

