-- ==== Sys2Proof/Machine/Access.lean ====
section
/-!
DEFINITION. Machine/Access.lean: which accesses of an agent are outstanding, and when they are performed at a scope (10 R205
to R220).
-/

namespace Sys2Proof.Machine

/-- Two operations of one agent in its program order: an earlier whole gang is the agent of each slice (R29). -/
def sameAgent (g : Nat) (sl : Option Nat) (h : Nat) (tl : Option Nat) : Bool :=
  g == h && (sl.isNone || tl.isNone || sl == tl)

/-- The operations of a gang issued before operation `id`. -/
def State.older (s : State) (gid id : Nat) : List MemOp := s.fl.ops.filter (fun o => o.gang == gid && decide (o.id < id))

def MemOp.isStore (o : MemOp) : Bool := o.kind == .store
/-- It returns a value to its lanes (R191). -/
def MemOp.returns (o : MemOp) : Bool :=
  match o.kind with
  | .load _ => true
  | .atomic _ r => r
  | .store => false
def MemOp.isRead (o : MemOp) : Bool :=
  match o.kind with
  | .load _ => true
  | _ => false
/-- The cycle in which a scratchpad load returns when nothing else uses the scratchpad (R180). -/
def MemOp.returnsAt (o : MemOp) : Nat := o.issued + 12 + o.banks - 1

/-- The scratchpad cycles of an access: the most distinct 8-byte words in one of the 64 banks, at least 1 (R180). -/
def bankCycles (bytes : Nat) (elts : List Elt) : Nat :=
  let words := (elts.flatMap (fun e => match e.place with
    | .scratch o => (List.range (max 1 (bytes / 8))).map (fun i => o / 8 + i)
    | _ => [])).eraseDups
  (List.range 64).foldl (fun m b => max m (words.filter (fun w => w % 64 == b)).length) 1

/-- A place in the scratchpad. -/
def Place.inBank : Place → Bool
  | .scratch _ => true
  | _ => false

/-- Elements still to be performed in memory; a stack element is performed at issue. -/
def MemOp.open_ (o : MemOp) : Bool := o.elts.any (fun e => match e.place with
  | .stack _ => false
  | _ => true)

/-- The accesses that an agent issued before `id` are performed at a scope: its reads returned, and from .b on its
writes, and those of its gang that it sees, out of the combiner. -/
def State.accessesDone (s : State) (gid id : Nat) (sl : Option Nat) (scope : Nat) : Bool :=
  !(s.older gid id).any (fun o => o.open_ && ((o.returns && sameAgent gid sl o.gang o.slice) ||
    (decide (1 ≤ scope) && !o.isRead)))

/-- A MITER that has begun (R165, R171). -/
def MxJob.running (j : MxJob) : Bool :=
  match j.op with
  | .miter _ _ _ _ _ _ started .. => started
  | _ => false

/-- What a matrix operation writes in memory, as runs of generic addresses. -/
def MxJob.writes (j : MxJob) : List (Nat × Nat) :=
  match j.op with
  | .acst a pitch mf _ _ => rowRuns a pitch mf
  | .plane dst _ kn fmt => [(dst, planedBytes fmt (termsOf kn))]
  | _ => []

/-- The matrix engine's writes to memory that an agent issued before `id` (R143). -/
def State.engineWritesDone (s : State) (gid id : Nat) (sl : Option Nat) : Bool :=
  !s.fl.jobs.any (fun j => sameAgent gid sl j.gang j.slice && decide (j.id < id) && j.writes != [])

/-- Copies, stream operations, cache controls and views that an agent issued before `id` are complete (R191). -/
def State.enginesDone (s : State) (gid id : Nat) (sl : Option Nat) : Bool :=
  let mine := fun (g : Nat) (t : Option Nat) (n : Nat) => sameAgent gid sl g t && decide (n < id)
  !s.fl.copies.any (fun c => mine c.gang c.slice c.id) && !s.fl.cctls.any (fun c => mine c.gang c.slice c.id) &&
  !s.fl.views.any (fun v => mine v.gang v.slice v.id) &&
  !s.fl.ctxs.any (fun x => x.ops.any (fun o => !o.done && mine o.gang o.slice o.id))

/-- What an agent issued before `id` is performed at a scope, as far as its own gang and engine go. -/
def State.performed (s : State) (gid id : Nat) (sl : Option Nat) (scope : Nat) : Bool :=
  s.accessesDone gid id sl scope && s.engineWritesDone gid id sl

end Sys2Proof.Machine
end

