-- ==== Sys2Proof/Machine/Operands.lean ====
section
/-!
DEFINITION. Machine/Operands.lean: the operand forms. For every assigned opcode of every class an entry
(04 R73, R75 and the instruction entries): which register file each field names, which widths, modes, tokens
and MOD bits the instruction takes, and the latency of its result.
-/

namespace Sys2Proof.Machine

/-! ### Field readers (R68, R71, R75) -/

/-- Bits `hi` down to `lo` of MOD. -/
def modF (f : Fields) (hi lo : Nat) : Nat := f.mod.toNat / 2 ^ lo % 2 ^ (hi + 1 - lo)
def modBit (f : Fields) (i : Nat) : Bool := f.mod.getLsbD i
/-- TOK (R77). -/
def tokOf (f : Fields) : Nat := modF f 14 12
/-- FN of the element and immediate layouts (R108). -/
def fnOf (f : Fields) : Nat := modF f 13 10
/-- I (R75). -/
def immOf (f : Fields) : Bool := modBit f 14
/-- ONE and K of the element layout (R108). -/
def oneOf (f : Fields) : Bool := modBit f 9
def kOf (f : Fields) : Nat := modF f 8 6
/-- imm16 (R75). -/
def imm16 (f : Fields) : Nat := f.c.toNat * 2 ^ 10 + modF f 9 0
/-- The width in bits (R71): .b .h .w .d .q. -/
def widthOf (f : Fields) : Nat := 8 * 2 ^ f.w.toNat
/-- A signed reading of the low `n` bits. -/
def sext (n x : Nat) : Int := let y := x % 2 ^ n; if 2 ^ n ≤ 2 * y then (y : Int) - 2 ^ n else y
/-- Bits [17:0] of the instruction word (R76). -/
def off18 (f : Fields) : Nat := f.d.toNat * 2 ^ 12 + f.a.toNat * 2 ^ 6 + f.b.toNat

/-! ### Entries -/

/-- What a register field names (R69). -/
inductive Opd where
  /-- Nothing: the field must be zero. -/
  | no
  /-- Bits with a meaning of their own: an offset, a label, a value, an immediate. -/
  | raw
  | d
  /-- A d register, or a q register with the Q bit. -/
  | dq
  /-- A q register; the Q bit must be zero (UNI; D, and BWAIT, TLWAIT). -/
  | q
  /-- A q register named with the Q bit, which must be set. -/
  | qm
  /-- A q register with the Q bit; without it the field must be zero. -/
  | qopt
  | p
  | tile
  | c
deriving DecidableEq, Repr

/-- How an instruction uses TOK (R77). -/
inductive TokUse where
  | no | must | opt
deriving DecidableEq, Repr

/-- The entry of an instruction: what its fields name and what it reads and writes. -/
structure Entry where
  /-- The latency of a fixed-latency result (R73); 0 where it writes none at a fixed latency. -/
  lat : Nat := 0
  d : Opd := .no
  a : Opd := .no
  b : Opd := .no
  c : Opd := .no
  /-- Consecutive registers that D and B name. -/
  dSpan : Nat := 1
  bSpan : Nat := 1
  /-- D is written; D is a source (R107). -/
  dWrite : Bool := true
  dRead : Bool := false
  /-- C is written (IADDC, LXCH), B is written (ACRD). -/
  cWrite : Bool := false
  /-- A C that is written is no source (LXCH). -/
  cOut : Bool := false
  bWrite : Bool := false
  /-- Registers read or written beyond the fields. -/
  reads : List (RFile × Nat) := []
  writes : List (RFile × Nat) := []
  /-- The widths listed, bit by width code. -/
  widths : Nat := 4
  rm : Bool := false
  sat : Bool := false
  /-- An extension word is required (R72). -/
  ext : Bool := false
  /-- The MOD bits that the entry uses. -/
  mods : Nat := 0
  tok : TokUse := .no
  /-- G must be 7 (R225). -/
  noGuard : Bool := false
  /-- Causes 5, 11 and 12 that the entry adds. -/
  bad5 : Bool := false
  bad11 : Bool := false
  bad12 : Bool := false
deriving DecidableEq, Repr

/-- What the gang's launch fixes for the legality of a word (R39, R283). -/
structure Window where
  nregs : Nat
  tiles : Nat
  slices : Nat
  parted : Bool
deriving DecidableEq, Repr

def Entry.wAll : Nat := 15
def Entry.wFlt : Nat := 14

/-! ### VEC (R107 to R134) -/

/-- ONE and K within their limits (R108). A K that is not zero with ONE clear breaks "another limit", cause 12 (log 81). -/
def badK (f : Fields) : Bool :=
  !immOf f && (if oneOf f then decide (64 / widthOf f ≤ kOf f) else decide (kOf f ≠ 0))

/-- MOD bits of the element layout with ONE and K, or of the immediate layout; `fn` masks FN (R108). -/
def elemMods (f : Fields) (fn : Nat) (imm : Bool) : Nat :=
  fn * 2 ^ 10 + (if imm && immOf f then 0x43FF else 0x3C0)

/-- A two-source instruction of the element layout, with its immediate form (R108). -/
def elem2 (f : Fields) (lat fn : Nat) (dst : Opd := .d) : Entry :=
  { lat := lat, d := dst, a := .dq, b := if immOf f then .no else .dq, c := if immOf f then .raw else .no
    widths := Entry.wAll, mods := elemMods f fn true, bad12 := badK f, dRead := !immOf f && oneOf f && dst == .d }

/-- A one-source instruction of the element layout (R108). -/
def elem1 (f : Fields) (lat fn : Nat) (dst : Opd := .d) : Entry :=
  { lat := lat, d := dst, a := .dq, widths := Entry.wAll, mods := elemMods f fn false, bad12 := badK f
    dRead := oneOf f }

/-- A three-source instruction of the element layout (R108). -/
def elem3 (f : Fields) (lat fn : Nat) : Entry :=
  { lat := lat, d := .d, a := .dq, b := .dq, c := .dq, ext := true, widths := Entry.wAll
    mods := elemMods f fn false, bad12 := badK f, dRead := oneOf f }

/-- The float latency (R73). -/
def fltLat (f : Fields) : Nat := if f.w = 3 then 6 else 4

def flt2 (f : Fields) (rm : Bool) : Entry :=
  { elem2 f (fltLat f) 0 with widths := Entry.wFlt, rm := rm }

/-- A special function (R120). -/
def special (widths : Nat) (rm : Bool) (b : Opd := .no) : Entry :=
  { d := .d, a := .dq, b := b, widths := widths, rm := rm, ext := true, tok := .must
    mods := 0x7000 }

/-- The element types of a conversion (R121). -/
def dstOf (f : Fields) : Nat := modF f 13 9
def srcOf (f : Fields) : Nat := modF f 8 4

/-- A conversion: codes 24 and up and 12 to 15 name no type; CVTQ and CVTD restrict the pair (R121, R122).
That P may hold any value when PE = 0 is the model's choice (log 97). -/
def conv (f : Fields) (b : Opd) (pair : Bool) : Entry :=
  { lat := 4, d := .d, a := .dq, b := b, ext := true, rm := true, sat := true, mods := 0x7FFF
    writes := (if modBit f 3 then [(.p, modF f 2 0)] else []) ++ (if immOf f then [(.amax, 0)] else [])
    bad12 := (tyOf (dstOf f)).isNone || (tyOf (srcOf f)).isNone || pair }

/-- MOVI and UMOVI (R125): the immediate layout always; FN[3] selects `.k`, FN[2] is zero. -/
def movi (f : Fields) (dst : Opd) : Entry :=
  { lat := 2, d := dst, c := .raw, ext := true, widths := Entry.wAll
    mods := if decide (8 ≤ fnOf f) then 0x6FFF else 0x63FF
    dRead := decide (8 ≤ fnOf f)
    bad12 := !immOf f }

/-- PMOV by its FN (R127). -/
def pmov (f : Fields) : Entry :=
  let base : Entry := { lat := 2, mods := 0x3C00, bad12 := decide (6 ≤ fnOf f) }
  let all := (List.range 7).map (fun i => (RFile.p, i))
  match fnOf f with
  | 4 => { base with d := .d, reads := all }
  | 5 => { base with a := .dq, writes := all }
  | _ => { base with d := .p, a := .p, b := .p }

/-- FN of LFOLD and SCAN: a float operation has no .b form, codes above 10 are refused (R133). -/
def fold (f : Fields) : Entry :=
  { elem1 f 10 0xF with
    bad5 := decide (f.w = 0) && (fnOf f == 6 || fnOf f == 7 || fnOf f == 8)
    bad12 := badK f || decide (11 ≤ fnOf f) }

/-- The entry of a VEC opcode (R107 to R134). PMOV, POLL, AMXRD and AMXSET, which list no width, take `.w` alone; BPICK takes
`.b` to `.d` (log 82). -/
def vecEntry (op : Nat) (f : Fields) : Option Entry :=
  match op with
  | 0x01 => some { elem2 f 2 1 with sat := true }
  | 0x02 => some { elem2 f 2 1 with sat := true }
  | 0x03 => some { elem2 f 4 1 with sat := true }
  | 0x04 => some (elem2 f 4 1)
  | 0x05 => some { elem3 f 4 1 with sat := true }
  | 0x06 => some { elem3 f 2 0 with c := .p, cWrite := true }
  | 0x07 => some (elem2 f 2 1)
  | 0x08 => some (elem2 f 2 1)
  | 0x09 => some { elem1 f 2 0 with sat := true }
  | 0x0A => some { elem1 f 2 0 with sat := true }
  | 0x0B => some { elem3 f 4 3 with widths := 4, sat := true }
  | 0x0C => some { elem2 f 2 0xF .p with bad12 := badK f || decide (6 ≤ fnOf f % 8) }
  | 0x10 => some (elem2 f 2 0)
  | 0x11 => some (elem2 f 2 0)
  | 0x12 => some (elem2 f 2 0)
  | 0x13 => some (elem2 f 2 0)
  | 0x14 => some (elem1 f 2 0)
  | 0x15 => some { elem3 f 2 0 with mods := 0xFF, bad12 := false }
  | 0x16 => some (elem2 f 2 0)
  | 0x17 => some (elem2 f 2 0)
  | 0x18 => some (elem2 f 2 0)
  | 0x19 => some (elem2 f 2 0)
  | 0x1A => some (elem1 f 2 0)
  | 0x1B => some (elem1 f 2 0)
  | 0x1C => some (elem1 f 2 0)
  | 0x1D => some (elem1 f 2 0)
  | 0x1E => some (elem2 f 2 1)
  | 0x1F => some (elem3 f 2 0)
  | 0x20 => some (flt2 f true)
  | 0x21 => some (flt2 f true)
  | 0x22 => some (flt2 f true)
  | 0x23 => some { elem3 f (fltLat f) 0 with widths := Entry.wFlt, rm := true }
  | 0x24 => some (flt2 f false)
  | 0x25 => some (flt2 f false)
  | 0x26 => some { lat := fltLat f, d := .p, a := .dq, b := .dq, widths := Entry.wFlt, mods := elemMods f 0xF false
                   bad12 := badK f || (decide (8 ≤ fnOf f) && (fnOf f % 8 == 1 || fnOf f % 8 == 6 || fnOf f % 8 == 7)) }
  | 0x27 => some { elem1 f (fltLat f) 0 with widths := Entry.wFlt, rm := true }
  | 0x28 => some { elem1 f (fltLat f) 0 with widths := Entry.wFlt }
  | 0x29 => some (flt2 f true)
  | 0x30 => some (special Entry.wFlt true)
  | 0x31 => some (special Entry.wFlt false)
  | 0x32 => some (special Entry.wFlt true)
  | 0x33 => some (special Entry.wFlt true .dq)
  | 0x34 => some (special 6 false)
  | 0x35 => some (special 6 false)
  | 0x36 => some (special 6 false)
  | 0x37 => some (special 6 false)
  | 0x38 => some (special 6 false)
  | 0x40 => some (conv f .no false)
  | 0x41 => some (conv f .dq (!(decide (srcOf f < 4) && decide (4 ≤ dstOf f) && decide (dstOf f < 12))))
  | 0x42 => some (conv f .dq (!(decide (dstOf f < 4) && decide (4 ≤ srcOf f) && decide (srcOf f < 12)) || immOf f))
  | 0x43 => some { lat := 2, d := .d, mods := 1, reads := [(.amax, 0)]
                   writes := if modBit f 0 then [(.amax, 0)] else [] }
  | 0x44 => some { lat := 2, a := .dq, writes := [(.amax, 0)] }
  | 0x45 => some { lat := 4, d := .d, a := .dq, b := .dq, widths := Entry.wFlt, mods := 1, sat := true }
  | 0x46 => some { lat := 4, d := .d, a := .dq, widths := Entry.wFlt, mods := 3 }
  | 0x50 => some (elem1 f 2 0)
  | 0x51 => some (movi f .d)
  | 0x52 => some { elem3 f 2 0 with c := .p }
  | 0x53 => some { elem3 f 2 0 with mods := 0, bad12 := false }
  | 0x54 => some { elem1 f 2 0 .q with a := .d }
  | 0x55 => some (pmov f)
  | 0x60 => some { elem3 f 6 3 with c := .p, cWrite := true, cOut := true }
  | 0x61 => some { lat := if fnOf f % 4 = 3 then 6 else 2, d := if fnOf f % 4 = 3 then .d else .p, a := .p
                   mods := 0x1C00 }
  | 0x62 => some (elem1 f 6 0)
  | 0x63 => some { elem1 f 10 1 with bad5 := decide (f.w = 0) && decide (fnOf f % 2 = 1) }
  | 0x64 => some (fold f)
  | 0x65 => some { fold f with mods := elemMods f 0xF false + 0x20 }
  | _ => none

/-! ### UNI (R135 to R138) -/

/-- A UNI instruction of two sources (R69, R108): q registers only, no single form. ONE and K are unused fields, cause 8: the model's
choice (log 81). -/
def uni2 (f : Fields) (lat fn : Nat) : Entry :=
  { lat := lat, d := .q, a := .q, b := if immOf f then .no else .q, c := if immOf f then .raw else .no
    widths := Entry.wAll, mods := fn * 2 ^ 10 + (if immOf f then 0x43FF else 0) }

def uni3 (lat fn : Nat) : Entry :=
  { lat := lat, d := .q, a := .q, b := .q, c := .q, ext := true, widths := Entry.wAll, mods := fn * 2 ^ 10 }

/-- The selectors with one value per lane (R42). -/
def laneSelector (n : Nat) : Bool := n == 0x00 || n == 0x01 || n == 0x02 || n == 0x20

/-- The selectors that name a register (R42). -/
def knownSelector (n : Nat) : Bool :=
  decide (n ≤ 0x0C) || (decide (0x10 ≤ n) && decide (n ≤ 0x12)) || n == 0x18 || n == 0x19 ||
  (decide (0x20 ≤ n) && decide (n ≤ 0x22)) || (decide (0x28 ≤ n) && decide (n ≤ 0x2C)) ||
  (decide (0x30 ≤ n) && decide (n ≤ 0x32)) || n == 0x38 || n == 0x39

def uniEntry (op : Nat) (f : Fields) : Option Entry :=
  match op with
  | 0x01 => some { uni2 f 2 1 with sat := true }
  | 0x02 => some { uni2 f 2 1 with sat := true }
  | 0x03 => some { uni2 f 4 1 with sat := true }
  | 0x04 => some (uni2 f 4 1)
  | 0x05 => some { uni3 4 1 with sat := true }
  | 0x06 => some (uni2 f 2 1)
  | 0x07 => some (uni2 f 2 1)
  | 0x10 => some (uni2 f 2 0)
  | 0x11 => some (uni2 f 2 0)
  | 0x12 => some (uni2 f 2 0)
  | 0x13 => some (uni2 f 2 0)
  | 0x14 => some (uni2 f 2 0)
  | 0x15 => some (uni2 f 2 0)
  | 0x20 => some { lat := 2, d := .q, a := .q, widths := Entry.wAll }
  | 0x21 => some (movi f .q)
  | 0x22 => some (uni3 2 0)
  | 0x23 => some { uni2 f 2 0xF with bad12 := decide (6 ≤ fnOf f % 8) }
  | 0x30 => some { d := .q, a := .q, widths := Entry.wAll, ext := true, tok := .must, mods := 0x7FFF }
  | 0x31 => some { lat := 2, d := .q, widths := Entry.wAll, ext := true, mods := 0xFF, bad11 := laneSelector (modF f 7 0) }
  | _ => none

/-! ### MEM (R186 to R203) -/

def odd6 (x : BitVec 6) : Bool := x.getLsbD 0

def memEntry (op : Nat) (f : Fields) : Option Entry :=
  match op with
  | 0x01 => some { d := .d, dSpan := if f.w = 4 then 2 else 1, a := .dq, widths := 31, ext := true, tok := .must
                   mods := 0x7FFF
                   bad12 := decide (6 ≤ modF f 11 9) || (decide (f.w = 4) && (odd6 f.d || decide (modF f 11 9 ≠ 0))) ||
                            (modBit f 8 && decide (3 ≤ f.w.toNat)) }
  | 0x02 => some { a := .dq, b := .dq, bSpan := if f.w = 4 then 2 else 1, widths := 31, ext := true, tok := .opt
                   mods := 0x7EFF
                   bad12 := decide (6 ≤ modF f 11 9) || (decide (f.w = 4) && (odd6 f.b || decide (modF f 11 9 ≠ 0))) }
  | 0x04 => some { d := if modBit f 11 then .d else .no, a := .dq, b := .dq
                   c := if modF f 7 4 = 9 then .dq else .raw
                   widths := 12, ext := true, tok := if modBit f 11 then .must else .opt, mods := 0x7FF0
                   bad12 := decide (12 < modF f 7 4) || decide (4 < modF f 10 8) ||
                            (decide (modF f 7 4 ≠ 9) && decide (f.c ≠ 0)) }
  | 0x05 => some { a := .dq, b := .dq, c := .raw, widths := 12, ext := true, tok := .opt, mods := 0x77F0
                   bad12 := decide (12 < modF f 7 4) || decide (4 < modF f 10 8) || decide (f.c ≠ 0) ||
                            modF f 7 4 == 8 || modF f 7 4 == 9 }
  | 0x06 => some { mods := 0x1F, bad12 := modF f 1 0 == 3 || decide (4 < modF f 4 2) }
  | 0x07 => some { a := .dq, mods := 0x3FF, bad12 := modF f 9 8 == 3 }
  | 0x08 => some { a := .dq, b := .dq, tok := .opt, mods := 0x7003, bad12 := decide (2 ≤ modF f 1 0) }
  | 0x10 => some { d := if immOf f then .q else .no, dWrite := false, a := .dq, b := .dq, c := .dq, ext := true
                   mods := 0x4000 }
  | 0x11 => some { d := if immOf f then .q else .no, dWrite := false, a := .dq, b := .dq, c := .dq, ext := true
                   mods := if modBit f 13 then 0x7E00 else 0x6000 }
  | 0x12 => some { lat := 2, d := .q }
  | 0x13 => some { a := if modBit f 0 then .no else .q, mods := 1 }
  | 0x20 => some { a := .q, ext := true, mods := 0x3F }
  | 0x21 => some { lat := 6, d := .q, ext := true, mods := if modF f 7 6 = 2 then 0x1FF else 0xFF
                   bad12 := modF f 7 6 == 3 }
  | 0x22 => some { a := .dq, ext := true, mods := 0x3F }
  | 0x23 => some { a := .dq, ext := true, mods := 0x3F }
  | _ => none

/-! ### MTX (R146 to R157, R163 to R173) -/

def cRange (n : Nat) : List (RFile × Nat) := (List.range n).map (fun i => (.c, i))

def mtxEntry (op : Nat) (f : Fields) : Option Entry :=
  match op with
  | 0x01 => some { d := .tile, a := .dq, b := .dq, c := .qm, ext := true, mods := 0x1FF }
  | 0x02 => some { d := .tile, mods := 1 }
  | 0x03 => some { d := .tile, a := .dq, b := .dq, c := .qm, ext := true, mods := 0x2FFF }
  | 0x04 => some { d := .tile, a := .dq, b := .dq, c := .qm, ext := true, mods := 0x2FFF, sat := true }
  | 0x05 => some { d := .d, a := .tile, b := .p, bWrite := true, c := .qm, ext := true, tok := .must
                   mods := 0x7FF8, sat := true }
  | 0x06 => some { d := .tile, a := .dq, c := .qm, ext := true, mods := 0x1FF }
  | 0x07 => some { a := .dq, b := .dq, ext := true, mods := 0x7FF }
  | 0x10 => some { lat := 2, d := .c, a := if immOf f then .no else .dq, c := if immOf f then .raw else .no
                   mods := if immOf f then 0x43FF else 3
                   bad12 := !immOf f && modF f 1 0 == 3 }
  | 0x11 => some { d := .tile, a := .tile, c := .qm, ext := true, mods := 0x1FF, reads := cRange (modF f 3 0 + 1) }
  | 0x12 => some { d := .tile, dSpan := 4, b := .qopt, c := .qm, ext := true
                   mods := if f.bq then 0x7FC0 else 0x7FFF
                   reads := cRange 4 ++ [(.c, 14), (.c, 15)] }
  | 0x13 => some { lat := 6, d := .q, a := .tile, c := .qm, ext := true, mods := 0x7F, bad12 := modF f 1 0 == 3 }
  | 0x14 => some { lat := 6, d := .q, mods := 1 }
  | _ => none

/-! ### ASY (R263 to R266, R283, R288) -/

def viewKind (f : Fields) : Nat := modF f 11 8
def viewRes (f : Fields) : Nat := modF f 7 5

def asyEntry (op : Nat) (f : Fields) (win : Window) : Option Entry :=
  match op with
  | 0x01 => some { d := .d, dSpan := if viewRes f ≤ 5 then tileRegs (viewRes f) else 1, a := .dq, b := .dq
                   ext := true, tok := .must, mods := 0x7FE0
                   bad12 := decide (3 < viewKind f) || decide (5 < viewRes f) || win.parted ||
                            decide (4 * win.slices < min (tilePixels (viewRes f)) 32) }
  | 0x02 => some { d := .d, dSpan := if viewRes f = 1 then 4 else 1, a := .dq, b := .dq
                   ext := true, tok := .must, mods := 0x7FE0
                   bad12 := decide (3 < viewKind f) || decide (1 < viewRes f) || (viewKind f == 3 && !f.bq) }
  | 0x03 => some { lat := 6, d := .q, mods := 0xF, bad12 := decide (6 ≤ modF f 2 0) }
  | 0x10 => some { d := .d, ext := true, tok := .must, mods := 0x7000 }
  | 0x11 => some { a := .d, mods := 7 }
  | 0x12 => some { a := .d }
  | 0x13 => some { mods := 7 }
  | _ => none

/-! ### CTL (R225) -/

def ctlEntry (op : Nat) (f : Fields) : Option Entry :=
  match op with
  | 0x01 =>
    if f.g = 7 then some { d := .raw, a := .raw, b := .raw }
    else some { d := .raw, a := .raw, b := .raw, ext := true, mods := 0x7FFF, bad12 := decide (f.mod = 0) }
  | 0x02 => some { a := .dq, b := .dq, ext := true, mods := 0x7FFF, noGuard := true }
  | 0x03 => some { d := if f.d.toNat < 16 then .raw else .no, a := .raw, b := .raw, noGuard := true, bad12 := f.x }
  | 0x04 => some { d := .raw, a := .raw, b := .raw, noGuard := true }
  | 0x05 => some { a := .dq, b := .dq, ext := true, mods := 0x7FFF, noGuard := true }
  | 0x06 => some {}
  | 0x07 => some { d := .raw, a := .raw, b := .raw, c := .qopt, ext := true, mods := if f.cq then 0 else 0x7FFF
                   noGuard := true }
  | 0x08 => some {}
  | 0x09 => some { noGuard := true }
  | 0x0A => some {}
  | 0x0B => some { ext := true, mods := 0xFFF }
  | 0x10 => some { a := .dq, b := if modBit f 6 then .dq else .no, mods := if modBit f 6 then 0x40 else 0x7F
                   bad12 := !modBit f 6 && decide (32 < modF f 5 0) }
  | 0x11 => some { a := .dq }
  | 0x12 => some { a := .dq, b := .dq }
  | 0x13 => some { a := .dq, b := .dq }
  | 0x14 => some { a := .dq }
  | 0x18 => some {}
  | 0x19 => some { lat := 2, d := .q, mods := 3 }
  | 0x1C => some { d := .raw, a := .raw, b := .raw, ext := true, mods := 0x7FFF }
  | _ => none

/-! ### SYS (R326) -/

def sysEntry (op : Nat) (f : Fields) : Option Entry :=
  match op with
  | 0x01 => some { mods := 0x7FFF }
  | 0x02 => some { mods := 0x7FFF }
  | 0x03 => some { lat := 2, d := .d, mods := 0xFF
                   reads := if modF f 7 0 = 0x20 then [(.amax, 0)] else [] }
  | 0x04 => some { lat := 2, a := .dq, mods := 0xFF
                   writes := if modF f 7 0 = 0x20 then [(.amax, 0)] else []
                   bad11 := !knownSelector (modF f 7 0)
                   bad12 := modF f 7 0 != 0x20 && modF f 7 0 != 0x21 }
  | 0x05 => some { noGuard := true, mods := 1 }
  | 0x06 => some {}
  | 0x07 => some { lat := 2, d := .d, mods := 1 }
  | _ => none

/-- The entry of an opcode of a class, NOP apart (R73, R74). -/
def entryOf (cls op : Nat) (f : Fields) (win : Window) : Option Entry :=
  match cls with
  | 0 => vecEntry op f
  | 1 => uniEntry op f
  | 2 => memEntry op f
  | 3 => mtxEntry op f
  | 4 => asyEntry op f win
  | 5 => ctlEntry op f
  | 6 => sysEntry op f
  | _ => none

/-! ### Illegal words (R69, R70, R72, R77, R78, R367) -/

/-- A Q bit where the entry allows none (cause 6). -/
def badQ (o : Opd) (bit : Bool) : Bool :=
  bit && !(o == .dq || o == .qm || o == .qopt)

/-- The file that a field names, when it names a register. -/
def fileOf (o : Opd) (bit : Bool) : Option RFile :=
  match o with
  | .d => some .d
  | .dq => some (if bit then .q else .d)
  | .q => some .q
  | .qm => some .q
  | .qopt => if bit then some .q else none
  | .p => some .p
  | .c => some .c
  | _ => none

/-- The last index beyond the file or window (cause 7, R39, R69). -/
def badIndex (win : Window) (o : Opd) (bit : Bool) (idx span : Nat) : Bool :=
  match o with
  | .tile => decide (win.tiles < idx + span)
  | _ => match fileOf o bit with
    | some .d => decide (win.nregs < idx + span)
    | some .q => decide (32 < idx + span)
    | some .p => decide (8 < idx + span)
    | some .c => decide (16 < idx + span)
    | _ => false

/-- A field that the entry does not use (cause 8). -/
def unused (o : Opd) (bit : Bool) (x : BitVec 6) : Bool :=
  decide (x ≠ 0) && (o == .no || (o == .qopt && !bit))

/-- The lowest position whose register is out of range (R367): 0 D, 1 A, 2 B, 3 C. -/
def badPos (win : Window) (e : Entry) (f : Fields) : Option Nat :=
  if badIndex win e.d false f.d.toNat e.dSpan then some 0
  else if badIndex win e.a f.aq f.a.toNat 1 then some 1
  else if badIndex win e.b f.bq f.b.toNat e.bSpan then some 2
  else if badIndex win e.c f.cq f.c.toNat 1 then some 3
  else none

/-- The token field is out of range (cause 9, R77). -/
def badTok (e : Entry) (f : Fields) : Bool :=
  match e.tok with
  | .no => false
  | .must => decide (6 ≤ tokOf f)
  | .opt => tokOf f == 6

/-- The lowest cause of ILLEGAL_OP of an assigned word (R78, R367) as TRAPAUX; none when the word is legal.
`late` is a cause 12 found in register values. -/
def illegalCause (win : Window) (e : Entry) (f : Fields) (late : Bool) : Option Nat :=
  if f.g = 7 ∧ f.gn then some 3
  else if 5 ≤ f.w.toNat then some 4
  else if e.widths / 2 ^ f.w.toNat % 2 = 0 ∨ e.bad5 then some 5
  else if badQ e.a f.aq || badQ e.b f.bq || badQ e.c f.cq then some 6
  else match badPos win e f with
  | some p => some (7 + 256 * p)
  | none =>
    if unused e.d false f.d || unused e.a f.aq f.a || unused e.b f.bq f.b || unused e.c f.cq f.c ||
       (!e.rm && decide (f.rm ≠ 0)) || (!e.sat && f.sat) ||
       decide (f.mod &&& ~~~BitVec.ofNat 15 e.mods ≠ 0) then some 8
    else if badTok e f then some 9
    else if e.ext && !f.x then some 10
    else if e.bad11 then some 11
    else if e.bad12 || (e.noGuard && decide (f.g ≠ 7)) || (e.c == .qm && !f.cq) || late then some 12
    else none

/-- The registers that an instruction reads or writes, in the order guard, A, B, C, D (R84), those beyond the
fields last; p7 and q31 apart (R38). -/
def Entry.touches (e : Entry) (f : Fields) : List (RFile × Nat) :=
  let at_ := fun (o : Opd) (bit : Bool) (idx span : Nat) => match fileOf o bit with
    | some r => (List.range span).map (fun i => (r, idx + i))
    | none => []
  let all := (if f.g = 7 then [] else [(.p, f.g.toNat)]) ++ at_ e.a f.aq f.a.toNat 1 ++
    at_ e.b f.bq f.b.toNat e.bSpan ++ (if f.x then at_ e.c f.cq f.c.toNat 1 else []) ++
    at_ e.d false f.d.toNat e.dSpan ++ e.reads ++ e.writes
  all.filter (fun p => p ≠ (.p, 7) && p ≠ (.q, 31))

/-- The registers that an instruction reads in its executing lanes, its guard apart. -/
def Entry.sources (e : Entry) (f : Fields) : List (RFile × Nat) :=
  let at_ := fun (o : Opd) (bit : Bool) (idx span : Nat) => match fileOf o bit with
    | some r => (List.range span).map (fun i => (r, idx + i))
    | none => []
  let all := at_ e.a f.aq f.a.toNat 1 ++ (if e.bWrite then [] else at_ e.b f.bq f.b.toNat e.bSpan) ++
    (if f.x && !e.cOut then at_ e.c f.cq f.c.toNat 1 else []) ++
    (if e.dRead || !e.dWrite then at_ e.d false f.d.toNat e.dSpan else []) ++ e.reads
  all.filter (fun p => p ≠ (.p, 7) && p ≠ (.q, 31))

/-- The registers that an instruction writes. -/
def Entry.written (e : Entry) (f : Fields) : List (RFile × Nat) :=
  let at_ := fun (o : Opd) (idx span : Nat) => match fileOf o false with
    | some r => (List.range span).map (fun i => (r, idx + i))
    | none => []
  let all := (if e.dWrite then at_ e.d f.d.toNat e.dSpan else []) ++ (if e.cWrite then at_ e.c f.c.toNat 1 else []) ++
    (if e.bWrite then at_ e.b f.b.toNat 1 else []) ++ e.writes
  all.filter (fun p => p ≠ (.p, 7) && p ≠ (.q, 31))

end Sys2Proof.Machine
end

