-- ==== Sys2Proof/WellFormed.lean ====
section
/-!
DEFINITION. WellFormed.lean: the terms of Instr that stand for a word or an event of the part. An instruction
is well formed when a word and extension word have its fields (04 R68, R71, R72, R74, R76); an event when the
units that it names exist (01 R8 to R12, 17 R304).
-/

namespace Sys2Proof

/-- The opcodes that R73 assigns in a class, NOP apart. -/
def assignedOps (cls : BitVec 3) : List Nat :=
  match cls.toNat with
  | 0 =>
    [0x01, 0x02, 0x03, 0x04, 0x05, 0x06, 0x07, 0x08, 0x09, 0x0A, 0x0B, 0x0C, 0x10, 0x11, 0x12, 0x13, 0x14,
     0x15, 0x16, 0x17, 0x18, 0x19, 0x1A, 0x1B, 0x1C, 0x1D, 0x1E, 0x1F, 0x20, 0x21, 0x22, 0x23, 0x24, 0x25,
     0x26, 0x27, 0x28, 0x29, 0x30, 0x31, 0x32, 0x33, 0x34, 0x35, 0x36, 0x37, 0x38, 0x40, 0x41, 0x42, 0x43,
     0x44, 0x45, 0x46, 0x50, 0x51, 0x52, 0x53, 0x54, 0x55, 0x60, 0x61, 0x62, 0x63, 0x64, 0x65]
  | 1 =>
    [0x01, 0x02, 0x03, 0x04, 0x05, 0x06, 0x07, 0x10, 0x11, 0x12, 0x13, 0x14, 0x15, 0x20, 0x21, 0x22, 0x23,
     0x30, 0x31]
  | 2 =>
    [0x01, 0x02, 0x04, 0x05, 0x06, 0x07, 0x08, 0x10, 0x11, 0x12, 0x13, 0x20, 0x21, 0x22, 0x23]
  | 3 =>
    [0x01, 0x02, 0x03, 0x04, 0x05, 0x06, 0x07, 0x10, 0x11, 0x12, 0x13, 0x14]
  | 4 =>
    [0x01, 0x02, 0x03, 0x10, 0x11, 0x12, 0x13]
  | 5 =>
    [0x01, 0x02, 0x03, 0x04, 0x05, 0x06, 0x07, 0x08, 0x09, 0x0A, 0x0B, 0x10, 0x11, 0x12, 0x13, 0x14, 0x18,
     0x19, 0x1C]
  | 6 =>
    [0x01, 0x02, 0x03, 0x04, 0x05, 0x06, 0x07]
  | _ => []

def opAssigned (cls : BitVec 3) (op : BitVec 7) : Bool := (assignedOps cls).contains op.toNat

/-- Without an extension word its fields have the defaults of R72. -/
def Fields.wf (f : Fields) : Bool :=
  f.x || (!f.gn && decide (f.w = 2) && !f.aq && !f.bq && !f.cq && decide (f.rm = 0) && !f.sat &&
          decide (f.c = 0) && decide (f.mod = 0))

/-- A page of one of the three sizes, aligned, in the global window, under a key id (R177, R309). -/
def PageSpec.wf (p : PageSpec) : Bool :=
  (p.size == 2 ^ 16 || p.size == 2 ^ 21 || p.size == 2 ^ 30) && p.vbase % p.size == 0 && p.pbase % p.size == 0 &&
  decide (p.vbase < 2 ^ 56) && decide (p.pbase < 2 ^ 56) && decide (p.key < 128)

def Link.wf (l : Link) : Bool :=
  match l with
  | .port n => decide (n < 8)
  | .ring n => decide (n < 4)
  | .hub n => decide (n < 4)

def RegWrite.wf (w : RegWrite) : Bool :=
  match w with
  | .super core addr n _ => decide (core < 32) && decide (addr < 2 ^ 64) && (n == 1 || n == 2 || n == 4 || n == 8)
  | .host fn off n _ => decide (fn ≤ 16) && (n == 4 || n == 8) && off % n == 0
  | .queue part q _ _ _ => decide (part < 16) && decide (q < 16)
  | .pageMap part p => decide (part < 16) && p.wf
  | .pageUnmap part _ => decide (part < 16)
  | .context wing ctx part scope =>
    decide (wing < Config.wings) && decide (ctx < 64) && decide (part < 16) && decide (2 ≤ scope) && decide (scope ≤ 4)
  | .heatArea part _ _ => decide (part < 16)
  | .deviceMap _ p => p.wf
  | .sealedClock _ => true
  | .clock _ => true

/-- The term stands for a word or an event of the part. -/
def Instr.wf : Instr → Bool
  | .nop cls f => decide (cls ≠ 7) && f.wf
  | .iadd f => f.wf
  | .isub f => f.wf
  | .imul f => f.wf
  | .imulh f => f.wf
  | .imad f => f.wf
  | .iaddc f => f.wf
  | .imin f => f.wf
  | .imax f => f.wf
  | .iabs f => f.wf
  | .ineg f => f.wf
  | .idot4 f => f.wf
  | .icmp f => f.wf
  | .and f => f.wf
  | .or f => f.wf
  | .xor f => f.wf
  | .andn f => f.wf
  | .not f => f.wf
  | .bitf f => f.wf
  | .shl f => f.wf
  | .shr f => f.wf
  | .sar f => f.wf
  | .rol f => f.wf
  | .clz f => f.wf
  | .ffs f => f.wf
  | .popc f => f.wf
  | .brev f => f.wf
  | .bfx f => f.wf
  | .bfi f => f.wf
  | .fadd f => f.wf
  | .fsub f => f.wf
  | .fmul f => f.wf
  | .ffma f => f.wf
  | .fmin f => f.wf
  | .fmax f => f.wf
  | .fcmp f => f.wf
  | .frnd f => f.wf
  | .fclass f => f.wf
  | .fscale f => f.wf
  | .frcp f => f.wf
  | .frsq f => f.wf
  | .fsqrt f => f.wf
  | .fdiv f => f.wf
  | .fexp2 f => f.wf
  | .flog2 f => f.wf
  | .fsinp f => f.wf
  | .fcosp f => f.wf
  | .ftanh f => f.wf
  | .cvt f => f.wf
  | .cvtq f => f.wf
  | .cvtd f => f.wf
  | .amxrd f => f.wf
  | .amxset f => f.wf
  | .pack f => f.wf
  | .unpk f => f.wf
  | .mov f => f.wf
  | .movi f => f.wf
  | .sel f => f.wf
  | .bpick f => f.wf
  | .movu f => f.wf
  | .pmov f => f.wf
  | .lxch f => f.wf
  | .poll f => f.wf
  | .rfal f => f.wf
  | .peers f => f.wf
  | .lfold f => f.wf
  | .scan f => f.wf
  | .uadd f => f.wf
  | .usub f => f.wf
  | .umul f => f.wf
  | .umulh f => f.wf
  | .umad f => f.wf
  | .umin f => f.wf
  | .umax f => f.wf
  | .uand f => f.wf
  | .uor f => f.wf
  | .uxor f => f.wf
  | .ushl f => f.wf
  | .ushr f => f.wf
  | .usar f => f.wf
  | .umov f => f.wf
  | .umovi f => f.wf
  | .usel f => f.wf
  | .ucmp f => f.wf
  | .uld f => f.wf
  | .usread f => f.wf
  | .ld f => f.wf
  | .st f => f.wf
  | .atom f => f.wf
  | .red f => f.wf
  | .fence f => f.wf
  | .pref f => f.wf
  | .cctl f => f.wf
  | .cpa f => f.wf
  | .cpt f => f.wf
  | .bseal f => f.wf
  | .bwait f => f.wf
  | .gath f => f.wf
  | .coll f => f.wf
  | .tlwait f => f.wf
  | .tlrd f => f.wf
  | .mma f => f.wf
  | .mzero f => f.wf
  | .acld f => f.wf
  | .acst f => f.wf
  | .acrd f => f.wf
  | .acwr f => f.wf
  | .plane f => f.wf
  | .mcoef f => f.wf
  | .mpoly f => f.wf
  | .miter f => f.wf
  | .mnorm f => f.wf
  | .mistat f => f.wf
  | .view f => f.wf
  | .viewl f => f.wf
  | .vstat f => f.wf
  | .ndalloc f => f.wf
  | .ndemit f => f.wf
  | .nddone f => f.wf
  | .ndlaunch f => f.wf
  | .bra f => decide (f.g = 7) && f.wf
  | .braGuarded f => decide (f.g ≠ 7) && f.wf
  | .brx f => f.wf
  | .pad f => f.wf
  | .call f => f.wf
  | .callx f => f.wf
  | .ret f => f.wf
  | .loop f => f.wf
  | .exit f => f.wf
  | .regang f => f.wf
  | .yield f => f.wf
  | .kwait f => f.wf
  | .barinit f => f.wf
  | .bararv f => f.wf
  | .barwait f => f.wf
  | .barxb f => f.wf
  | .barsync f => f.wf
  | .pace f => f.wf
  | .pacerd f => f.wf
  | .sigchk f => f.wf
  | .trap f => f.wf
  | .brk f => f.wf
  | .sread f => f.wf
  | .swrite f => f.wf
  | .tret f => !f.mod.getLsbD 0 && f.wf
  | .tretSkip f => f.mod.getLsbD 0 && f.wf
  | .chkpt f => f.wf
  | .deadrd f => f.wf
  | .packageReset _ => true
  | .powerLimitThrottle _ => true
  | .clientPortReady => true
  | .clientConfigRequest fn => decide (fn ≤ 16)
  | .clientLinkReset => true
  | .functionLevelReset fn => decide (fn < 16)
  | .backgroundScrubEnd key => decide (key < 128)
  | .partitionResetEnd part => decide (part < 16)
  | .doorbell part q _ => decide (part < 16) && decide (q < 16)
  | .submissionEntryRead part q => decide (part < 16) && decide (q < 16)
  | .blockPlacement _ => true
  | .headOfLevelTimeout _ => true
  | .blockEnd _ => true
  | .heatTimeout _ _ => true
  | .easelCycle easel => decide (easel < Config.easels)
  | .gangPromotion easel => decide (easel < Config.easels)
  | .residencyLimit easel => decide (easel < Config.easels)
  | .resultWriteback _ => true
  | .barStarved _ _ => true
  | .loadSectorArrival _ lane => decide (lane < 32)
  | .storePerformed _ lane => decide (lane < 32)
  | .atomicPerform _ lane => decide (lane < 32)
  | .specialFunctionDelivery _ => true
  | .fenceComplete _ => true
  | .copyComplete _ => true
  | .streamOpComplete wing ctx _ => decide (wing < Config.wings) && decide (ctx < 64)
  | .matrixEntryComplete _ => true
  | .acrdDelivery _ => true
  | .miterUnit _ => true
  | .sketchTurn wing => decide (wing < Config.wings)
  | .shadingGangStart _ => true
  | .viewDelivery _ => true
  | .faultResolve _ pages => pages.all PageSpec.wf
  | .faultDecline _ => true
  | .parkReplay _ => true
  | .pageMigration part _ _ => decide (part < 16)
  | .supervisorEndBlock _ => true
  | .supervisorResume _ _ _ => true
  | .supervisorResumeSkip _ _ => true
  | .preemptAdaptive _ => true
  | .preemptSave _ => true
  | .preemptFlush _ => true
  | .drainTimeout _ => true
  | .blockSaved _ => true
  | .blockRestore _ cluster => decide (cluster < Config.clusters)
  | .partitionTableWrite part word _ => decide (part < 16) && decide (word < 8)
  | .registerWrite w => w.wf
  | .msixUnmask part vector => decide (part < 16) && decide (vector < 2048)
  | .irqWindow => true
  | .mailboxMessage core _ => decide (core < 8)
  | .correctableError _ => true
  | .uncorrectableError _ => true
  | .matrixEngineFail cluster => decide (cluster < Config.clusters)
  | .matrixRetest cluster _ => decide (cluster < Config.clusters)
  | .twinStoreCompare _ _ => true
  | .flitCrcFail link => link.wf
  | .eyeMarginLow link => link.wf
  | .symbolCountExceeded link => link.wf
  | .retrainComplete link => link.wf
  | .retrainRequest link _ => link.wf
  | .signalLoss n => decide (n < 8)
  | .quiesce planes => decide (planes < 256)
  | .rehashDrainDone _ => true
  | .rehashResume => true
  | .getVersion => true
  | .getCapabilities _ => true
  | .negotiateAlgorithms _ _ => true
  | .getDigests => true
  | .getCertificate _ _ _ => true
  | .challenge _ _ => true
  | .getMeasurements _ _ _ => true
  | .spdmUnsupportedRequest _ => true
  | .requestFirmwareData component _ _ => decide (1 ≤ component) && decide (component ≤ 2)
  | .activateFirmware component => decide (1 ≤ component) && decide (component ≤ 2)
  | .getStatus => true
  | .cancelUpdate component => decide (1 ≤ component) && decide (component ≤ 2)
  | .firmwareRestartDone => true
  | .supervisorOsRestart => true
  | .unassignedOpcode cls op f => decide (cls ≠ 7) && decide (op ≠ 0) && !opAssigned cls op && f.wf
  | .cctlComplete _ => true
  | .codeFetchArrival _ _ _ => true
  | .queueReset part q => decide (part < 16) && decide (q < 16)
  | .savedContextDiscard _ => true
  | .powerRemoval => true
  | .clientLinkDown => true
  | .rootPortDeviceAccess _ _ _ _ => true

end Sys2Proof
end

