-- ==== Sys2Proof/Decode.lean ====
section
/-!
DEFINITION. Decode.lean: from the words of a clause to instructions and back (04 R65 to R74). An opcode means
a different instruction in each class, so the decoder takes the class of the clause header with the word.
-/

namespace Sys2Proof

/-! ### The word formats (R68, R71, R72) -/

/-- The extension word that an instruction without one behaves as (R72). -/
def defaultExt : Word := 0x10000000

/-- The fields of an instruction word and its extension word (R68, R71, R72). -/
def unpack (w ext : Word) : Fields :=
  let x := w.getLsbD 28
  let e := if x then ext else defaultExt
  { stall := w.extractLsb' 29 2, x := x, g := w.extractLsb' 18 3, d := w.extractLsb' 12 6
    a := w.extractLsb' 6 6, b := w.extractLsb' 0 6
    gn := e.getLsbD 30, w := e.extractLsb' 27 3, aq := e.getLsbD 26, bq := e.getLsbD 25, cq := e.getLsbD 24
    rm := e.extractLsb' 22 2, sat := e.getLsbD 21, c := e.extractLsb' 15 6, mod := e.extractLsb' 0 15 }

/-- OP (R68). -/
def opField (w : Word) : BitVec 7 := w.extractLsb' 21 7

/-! ### The opcode map (R73) -/

/-- The VEC instructions by opcode (R73). -/
def makeVec (op : BitVec 7) (f : Fields) : Instr :=
  match op.toNat with
  | 0x00 => .nop 0 f
  | 0x01 => .iadd f
  | 0x02 => .isub f
  | 0x03 => .imul f
  | 0x04 => .imulh f
  | 0x05 => .imad f
  | 0x06 => .iaddc f
  | 0x07 => .imin f
  | 0x08 => .imax f
  | 0x09 => .iabs f
  | 0x0A => .ineg f
  | 0x0B => .idot4 f
  | 0x0C => .icmp f
  | 0x10 => .and f
  | 0x11 => .or f
  | 0x12 => .xor f
  | 0x13 => .andn f
  | 0x14 => .not f
  | 0x15 => .bitf f
  | 0x16 => .shl f
  | 0x17 => .shr f
  | 0x18 => .sar f
  | 0x19 => .rol f
  | 0x1A => .clz f
  | 0x1B => .ffs f
  | 0x1C => .popc f
  | 0x1D => .brev f
  | 0x1E => .bfx f
  | 0x1F => .bfi f
  | 0x20 => .fadd f
  | 0x21 => .fsub f
  | 0x22 => .fmul f
  | 0x23 => .ffma f
  | 0x24 => .fmin f
  | 0x25 => .fmax f
  | 0x26 => .fcmp f
  | 0x27 => .frnd f
  | 0x28 => .fclass f
  | 0x29 => .fscale f
  | 0x30 => .frcp f
  | 0x31 => .frsq f
  | 0x32 => .fsqrt f
  | 0x33 => .fdiv f
  | 0x34 => .fexp2 f
  | 0x35 => .flog2 f
  | 0x36 => .fsinp f
  | 0x37 => .fcosp f
  | 0x38 => .ftanh f
  | 0x40 => .cvt f
  | 0x41 => .cvtq f
  | 0x42 => .cvtd f
  | 0x43 => .amxrd f
  | 0x44 => .amxset f
  | 0x45 => .pack f
  | 0x46 => .unpk f
  | 0x50 => .mov f
  | 0x51 => .movi f
  | 0x52 => .sel f
  | 0x53 => .bpick f
  | 0x54 => .movu f
  | 0x55 => .pmov f
  | 0x60 => .lxch f
  | 0x61 => .poll f
  | 0x62 => .rfal f
  | 0x63 => .peers f
  | 0x64 => .lfold f
  | 0x65 => .scan f
  | _ => .unassignedOpcode 0 op f

/-- The UNI instructions by opcode (R73). -/
def makeUni (op : BitVec 7) (f : Fields) : Instr :=
  match op.toNat with
  | 0x00 => .nop 1 f
  | 0x01 => .uadd f
  | 0x02 => .usub f
  | 0x03 => .umul f
  | 0x04 => .umulh f
  | 0x05 => .umad f
  | 0x06 => .umin f
  | 0x07 => .umax f
  | 0x10 => .uand f
  | 0x11 => .uor f
  | 0x12 => .uxor f
  | 0x13 => .ushl f
  | 0x14 => .ushr f
  | 0x15 => .usar f
  | 0x20 => .umov f
  | 0x21 => .umovi f
  | 0x22 => .usel f
  | 0x23 => .ucmp f
  | 0x30 => .uld f
  | 0x31 => .usread f
  | _ => .unassignedOpcode 1 op f

/-- The MEM instructions by opcode (R73). -/
def makeMem (op : BitVec 7) (f : Fields) : Instr :=
  match op.toNat with
  | 0x00 => .nop 2 f
  | 0x01 => .ld f
  | 0x02 => .st f
  | 0x04 => .atom f
  | 0x05 => .red f
  | 0x06 => .fence f
  | 0x07 => .pref f
  | 0x08 => .cctl f
  | 0x10 => .cpa f
  | 0x11 => .cpt f
  | 0x12 => .bseal f
  | 0x13 => .bwait f
  | 0x20 => .tlwait f
  | 0x21 => .tlrd f
  | 0x22 => .gath f
  | 0x23 => .coll f
  | _ => .unassignedOpcode 2 op f

/-- The MTX instructions by opcode (R73). -/
def makeMtx (op : BitVec 7) (f : Fields) : Instr :=
  match op.toNat with
  | 0x00 => .nop 3 f
  | 0x01 => .mma f
  | 0x02 => .mzero f
  | 0x03 => .acld f
  | 0x04 => .acst f
  | 0x05 => .acrd f
  | 0x06 => .acwr f
  | 0x07 => .plane f
  | 0x10 => .mcoef f
  | 0x11 => .mpoly f
  | 0x12 => .miter f
  | 0x13 => .mnorm f
  | 0x14 => .mistat f
  | _ => .unassignedOpcode 3 op f

/-- The ASY instructions by opcode (R73). -/
def makeAsy (op : BitVec 7) (f : Fields) : Instr :=
  match op.toNat with
  | 0x00 => .nop 4 f
  | 0x01 => .view f
  | 0x02 => .viewl f
  | 0x03 => .vstat f
  | 0x10 => .ndalloc f
  | 0x11 => .ndemit f
  | 0x12 => .nddone f
  | 0x13 => .ndlaunch f
  | _ => .unassignedOpcode 4 op f

/-- The CTL instructions by opcode (R73). -/
def makeCtl (op : BitVec 7) (f : Fields) : Instr :=
  match op.toNat with
  | 0x00 => .nop 5 f
  | 0x02 => .brx f
  | 0x03 => .pad f
  | 0x04 => .call f
  | 0x05 => .callx f
  | 0x06 => .ret f
  | 0x07 => .loop f
  | 0x08 => .exit f
  | 0x09 => .regang f
  | 0x0A => .yield f
  | 0x0B => .kwait f
  | 0x10 => .barinit f
  | 0x11 => .bararv f
  | 0x12 => .barwait f
  | 0x13 => .barxb f
  | 0x14 => .barsync f
  | 0x18 => .pace f
  | 0x19 => .pacerd f
  | 0x1C => .sigchk f
  | 0x01 => if f.g = 7 then .bra f else .braGuarded f
  | _ => .unassignedOpcode 5 op f

/-- The SYS instructions by opcode (R73). -/
def makeSys (op : BitVec 7) (f : Fields) : Instr :=
  match op.toNat with
  | 0x00 => .nop 6 f
  | 0x01 => .trap f
  | 0x02 => .brk f
  | 0x03 => .sread f
  | 0x04 => .swrite f
  | 0x06 => .chkpt f
  | 0x07 => .deadrd f
  | 0x05 => if f.mod.getLsbD 0 then .tretSkip f else .tret f
  | _ => .unassignedOpcode 6 op f

/-- The instruction of a class, opcode and fields (R73, R74). -/
def makeInstr (cls : BitVec 3) (op : BitVec 7) (f : Fields) : Option Instr :=
  match cls.toNat with
  | 0 => some (makeVec op f)
  | 1 => some (makeUni op f)
  | 2 => some (makeMem op f)
  | 3 => some (makeMtx op f)
  | 4 => some (makeAsy op f)
  | 5 => some (makeCtl op f)
  | 6 => some (makeSys op f)
  | _ => none

/-- Why words are no instruction. -/
inductive Reject where
  /-- Fewer bytes than the instruction has. -/
  | short
  /-- Bit 31 is set: a clause header, not a body word (R67, R78). -/
  | headerWord
  /-- The extension word has bit 31 set (R78). -/
  | headerExtension
  /-- Class 7 is reserved (R65). -/
  | reservedClass
deriving DecidableEq, Repr

/-- The instruction of a class in a word and the word after it (R67, R68, R71, R73). -/
def decodeWords (cls : BitVec 3) (w ext : Word) : Except Reject Instr :=
  if w.getLsbD 31 then .error .headerWord
  else if w.getLsbD 28 && ext.getLsbD 31 then .error .headerExtension
  else match makeInstr cls (opField w) (unpack w ext) with
    | some i => .ok i
    | none => .error .reservedClass

/-- A little-endian word of four bytes (R65). -/
def wordOf (b0 b1 b2 b3 : Byte) : Word := b3 ++ b2 ++ b1 ++ b0

/-- The first instruction of a byte string and the bytes after it. -/
def decodeBytes (cls : BitVec 3) (bytes : List Byte) : Except Reject (Instr × List Byte) :=
  match bytes with
  | b0 :: b1 :: b2 :: b3 :: rest =>
    let w := wordOf b0 b1 b2 b3
    if w.getLsbD 28 then
      match rest with
      | e0 :: e1 :: e2 :: e3 :: rest2 =>
        match decodeWords cls w (wordOf e0 e1 e2 e3) with
        | .ok i => .ok (i, rest2)
        | .error r => .error r
      | _ => .error .short
    else
      match decodeWords cls w 0 with
      | .ok i => .ok (i, rest)
      | .error r => .error r
  | _ => .error .short

/-! ### The clause header (R65) -/

/-- A clause header's fields (R65). -/
structure Header where
  marker : BitVec 7
  reserved : BitVec 10
  cede : Bool
  wait : BitVec 6
  cls : BitVec 3
  count : BitVec 4
deriving DecidableEq, Repr

/-- A word with bit 31 set, taken apart (R65). -/
def headerOf (w : Word) : Option Header :=
  if w.getLsbD 31 then
    some { marker := w.extractLsb' 24 7, reserved := w.extractLsb' 14 10, cede := w.getLsbD 13
           wait := w.extractLsb' 7 6, cls := w.extractLsb' 4 3, count := w.extractLsb' 0 4 }
  else none

/-- A header word of a class and count, waiting for nothing (R65). -/
def headerWord (cls : BitVec 3) (count : BitVec 4) : Word := 0xD3#8 ++ 0#17 ++ cls ++ count

/-! ### The encoder -/

/-- Class, opcode and fields of an instruction (R73); none for an event. -/
def codeOf : Instr → Option (BitVec 3 × BitVec 7 × Fields)
  | .nop cls f => some (cls, 0, f)
  | .iadd f => some (0, 0x01, f)
  | .isub f => some (0, 0x02, f)
  | .imul f => some (0, 0x03, f)
  | .imulh f => some (0, 0x04, f)
  | .imad f => some (0, 0x05, f)
  | .iaddc f => some (0, 0x06, f)
  | .imin f => some (0, 0x07, f)
  | .imax f => some (0, 0x08, f)
  | .iabs f => some (0, 0x09, f)
  | .ineg f => some (0, 0x0A, f)
  | .idot4 f => some (0, 0x0B, f)
  | .icmp f => some (0, 0x0C, f)
  | .and f => some (0, 0x10, f)
  | .or f => some (0, 0x11, f)
  | .xor f => some (0, 0x12, f)
  | .andn f => some (0, 0x13, f)
  | .not f => some (0, 0x14, f)
  | .bitf f => some (0, 0x15, f)
  | .shl f => some (0, 0x16, f)
  | .shr f => some (0, 0x17, f)
  | .sar f => some (0, 0x18, f)
  | .rol f => some (0, 0x19, f)
  | .clz f => some (0, 0x1A, f)
  | .ffs f => some (0, 0x1B, f)
  | .popc f => some (0, 0x1C, f)
  | .brev f => some (0, 0x1D, f)
  | .bfx f => some (0, 0x1E, f)
  | .bfi f => some (0, 0x1F, f)
  | .fadd f => some (0, 0x20, f)
  | .fsub f => some (0, 0x21, f)
  | .fmul f => some (0, 0x22, f)
  | .ffma f => some (0, 0x23, f)
  | .fmin f => some (0, 0x24, f)
  | .fmax f => some (0, 0x25, f)
  | .fcmp f => some (0, 0x26, f)
  | .frnd f => some (0, 0x27, f)
  | .fclass f => some (0, 0x28, f)
  | .fscale f => some (0, 0x29, f)
  | .frcp f => some (0, 0x30, f)
  | .frsq f => some (0, 0x31, f)
  | .fsqrt f => some (0, 0x32, f)
  | .fdiv f => some (0, 0x33, f)
  | .fexp2 f => some (0, 0x34, f)
  | .flog2 f => some (0, 0x35, f)
  | .fsinp f => some (0, 0x36, f)
  | .fcosp f => some (0, 0x37, f)
  | .ftanh f => some (0, 0x38, f)
  | .cvt f => some (0, 0x40, f)
  | .cvtq f => some (0, 0x41, f)
  | .cvtd f => some (0, 0x42, f)
  | .amxrd f => some (0, 0x43, f)
  | .amxset f => some (0, 0x44, f)
  | .pack f => some (0, 0x45, f)
  | .unpk f => some (0, 0x46, f)
  | .mov f => some (0, 0x50, f)
  | .movi f => some (0, 0x51, f)
  | .sel f => some (0, 0x52, f)
  | .bpick f => some (0, 0x53, f)
  | .movu f => some (0, 0x54, f)
  | .pmov f => some (0, 0x55, f)
  | .lxch f => some (0, 0x60, f)
  | .poll f => some (0, 0x61, f)
  | .rfal f => some (0, 0x62, f)
  | .peers f => some (0, 0x63, f)
  | .lfold f => some (0, 0x64, f)
  | .scan f => some (0, 0x65, f)
  | .uadd f => some (1, 0x01, f)
  | .usub f => some (1, 0x02, f)
  | .umul f => some (1, 0x03, f)
  | .umulh f => some (1, 0x04, f)
  | .umad f => some (1, 0x05, f)
  | .umin f => some (1, 0x06, f)
  | .umax f => some (1, 0x07, f)
  | .uand f => some (1, 0x10, f)
  | .uor f => some (1, 0x11, f)
  | .uxor f => some (1, 0x12, f)
  | .ushl f => some (1, 0x13, f)
  | .ushr f => some (1, 0x14, f)
  | .usar f => some (1, 0x15, f)
  | .umov f => some (1, 0x20, f)
  | .umovi f => some (1, 0x21, f)
  | .usel f => some (1, 0x22, f)
  | .ucmp f => some (1, 0x23, f)
  | .uld f => some (1, 0x30, f)
  | .usread f => some (1, 0x31, f)
  | .ld f => some (2, 0x01, f)
  | .st f => some (2, 0x02, f)
  | .atom f => some (2, 0x04, f)
  | .red f => some (2, 0x05, f)
  | .fence f => some (2, 0x06, f)
  | .pref f => some (2, 0x07, f)
  | .cctl f => some (2, 0x08, f)
  | .cpa f => some (2, 0x10, f)
  | .cpt f => some (2, 0x11, f)
  | .bseal f => some (2, 0x12, f)
  | .bwait f => some (2, 0x13, f)
  | .gath f => some (2, 0x22, f)
  | .coll f => some (2, 0x23, f)
  | .tlwait f => some (2, 0x20, f)
  | .tlrd f => some (2, 0x21, f)
  | .mma f => some (3, 0x01, f)
  | .mzero f => some (3, 0x02, f)
  | .acld f => some (3, 0x03, f)
  | .acst f => some (3, 0x04, f)
  | .acrd f => some (3, 0x05, f)
  | .acwr f => some (3, 0x06, f)
  | .plane f => some (3, 0x07, f)
  | .mcoef f => some (3, 0x10, f)
  | .mpoly f => some (3, 0x11, f)
  | .miter f => some (3, 0x12, f)
  | .mnorm f => some (3, 0x13, f)
  | .mistat f => some (3, 0x14, f)
  | .view f => some (4, 0x01, f)
  | .viewl f => some (4, 0x02, f)
  | .vstat f => some (4, 0x03, f)
  | .ndalloc f => some (4, 0x10, f)
  | .ndemit f => some (4, 0x11, f)
  | .nddone f => some (4, 0x12, f)
  | .ndlaunch f => some (4, 0x13, f)
  | .bra f => some (5, 0x01, f)
  | .braGuarded f => some (5, 0x01, f)
  | .brx f => some (5, 0x02, f)
  | .pad f => some (5, 0x03, f)
  | .call f => some (5, 0x04, f)
  | .callx f => some (5, 0x05, f)
  | .ret f => some (5, 0x06, f)
  | .loop f => some (5, 0x07, f)
  | .exit f => some (5, 0x08, f)
  | .regang f => some (5, 0x09, f)
  | .yield f => some (5, 0x0A, f)
  | .kwait f => some (5, 0x0B, f)
  | .barinit f => some (5, 0x10, f)
  | .bararv f => some (5, 0x11, f)
  | .barwait f => some (5, 0x12, f)
  | .barxb f => some (5, 0x13, f)
  | .barsync f => some (5, 0x14, f)
  | .pace f => some (5, 0x18, f)
  | .pacerd f => some (5, 0x19, f)
  | .sigchk f => some (5, 0x1C, f)
  | .trap f => some (6, 0x01, f)
  | .brk f => some (6, 0x02, f)
  | .sread f => some (6, 0x03, f)
  | .swrite f => some (6, 0x04, f)
  | .tret f => some (6, 0x05, f)
  | .tretSkip f => some (6, 0x05, f)
  | .chkpt f => some (6, 0x06, f)
  | .deadrd f => some (6, 0x07, f)
  | .unassignedOpcode cls op f => some (cls, op, f)
  | .packageReset _ => none
  | .powerLimitThrottle _ => none
  | .clientPortReady => none
  | .clientConfigRequest _ => none
  | .clientLinkReset => none
  | .functionLevelReset _ => none
  | .backgroundScrubEnd _ => none
  | .partitionResetEnd _ => none
  | .doorbell _ _ _ => none
  | .submissionEntryRead _ _ => none
  | .blockPlacement _ => none
  | .headOfLevelTimeout _ => none
  | .blockEnd _ => none
  | .heatTimeout _ _ => none
  | .easelCycle _ => none
  | .gangPromotion _ => none
  | .residencyLimit _ => none
  | .resultWriteback _ => none
  | .barStarved _ _ => none
  | .loadSectorArrival _ _ => none
  | .storePerformed _ _ => none
  | .atomicPerform _ _ => none
  | .specialFunctionDelivery _ => none
  | .fenceComplete _ => none
  | .copyComplete _ => none
  | .streamOpComplete _ _ _ => none
  | .matrixEntryComplete _ => none
  | .acrdDelivery _ => none
  | .miterUnit _ => none
  | .sketchTurn _ => none
  | .shadingGangStart _ => none
  | .viewDelivery _ => none
  | .faultResolve _ _ => none
  | .faultDecline _ => none
  | .parkReplay _ => none
  | .pageMigration _ _ _ => none
  | .supervisorEndBlock _ => none
  | .supervisorResume _ _ _ => none
  | .supervisorResumeSkip _ _ => none
  | .preemptAdaptive _ => none
  | .preemptSave _ => none
  | .preemptFlush _ => none
  | .drainTimeout _ => none
  | .blockSaved _ => none
  | .blockRestore _ _ => none
  | .partitionTableWrite _ _ _ => none
  | .registerWrite _ => none
  | .msixUnmask _ _ => none
  | .irqWindow => none
  | .mailboxMessage _ _ => none
  | .correctableError _ => none
  | .uncorrectableError _ => none
  | .matrixEngineFail _ => none
  | .matrixRetest _ _ => none
  | .twinStoreCompare _ _ => none
  | .flitCrcFail _ => none
  | .eyeMarginLow _ => none
  | .symbolCountExceeded _ => none
  | .retrainComplete _ => none
  | .retrainRequest _ _ => none
  | .signalLoss _ => none
  | .quiesce _ => none
  | .rehashDrainDone _ => none
  | .rehashResume => none
  | .getVersion => none
  | .getCapabilities _ => none
  | .negotiateAlgorithms _ _ => none
  | .getDigests => none
  | .getCertificate _ _ _ => none
  | .challenge _ _ => none
  | .getMeasurements _ _ _ => none
  | .spdmUnsupportedRequest _ => none
  | .requestFirmwareData _ _ _ => none
  | .activateFirmware _ => none
  | .getStatus => none
  | .cancelUpdate _ => none
  | .firmwareRestartDone => none
  | .supervisorOsRestart => none
  | .cctlComplete _ => none
  | .codeFetchArrival _ _ _ => none
  | .queueReset _ _ => none
  | .savedContextDiscard _ => none
  | .powerRemoval => none
  | .clientLinkDown => none
  | .rootPortDeviceAccess _ _ _ _ => none

/-- The instruction word of an opcode and fields (R68). -/
def packWord (op : BitVec 7) (f : Fields) : Word :=
  0#1 ++ f.stall ++ BitVec.ofBool f.x ++ op ++ f.g ++ f.d ++ f.a ++ f.b

/-- The extension word of the fields (R71). -/
def packExt (f : Fields) : Word :=
  0#1 ++ BitVec.ofBool f.gn ++ f.w ++ BitVec.ofBool f.aq ++ BitVec.ofBool f.bq ++ BitVec.ofBool f.cq ++ f.rm ++
  BitVec.ofBool f.sat ++ f.c ++ f.mod

/-- Class and words of an instruction; none for an event. -/
def encode (i : Instr) : Option (BitVec 3 × List Word) :=
  match codeOf i with
  | none => none
  | some (cls, op, f) => some (cls, if f.x then [packWord op f, packExt f] else [packWord op f])

/-- The bytes of words, each little-endian (R65). -/
def bytesOfWords (l : List Word) : List Byte :=
  l.flatMap (fun w => [w.extractLsb' 0 8, w.extractLsb' 8 8, w.extractLsb' 16 8, w.extractLsb' 24 8])

/-! ### The table's words (log 5) -/

/-- A full window, for the legality of a word by itself. -/
def fullWindow : Machine.Window := ⟨64, 8, 8, false⟩

/-- The operand fields that an instruction word of a class uses. -/
def fieldsUsed (e : Machine.Entry) : Nat :=
  (if e.d = .no then 0 else 1) + (if e.a = .no then 0 else 1) + (if e.b = .no then 0 else 1)

/-- How well a word fits a class: 0 where it is illegal there, else more the fewer fields it uses. -/
def classFit (cls : BitVec 3) (w ext : Word) : Nat :=
  let f := unpack w ext
  if opField w = 0 then 4
  else match Machine.entryOf cls.toNat (opField w).toNat f fullWindow with
    | none => 0
    | some e => match Machine.illegalCause fullWindow e f false with
      | some _ => 0
      | none => 4 - fieldsUsed e

/-- The best of the seven classes, the lower on a tie; none when the word is legal in none. -/
def bestClass (w ext : Word) : Option (BitVec 3) :=
  ([0, 1, 2, 3, 4, 5, 6] : List (BitVec 3)).foldl (fun best c => match best with
    | none => if classFit c w ext = 0 then none else some c
    | some b => if classFit b w ext < classFit c w ext then some c else some b) none

/-- The first class that assigns the word's opcode. -/
def someClass (w : Word) : Option (BitVec 3) :=
  ([0, 1, 2, 3, 4, 5, 6] : List (BitVec 3)).find? (fun c => opAssigned c (opField w))

/-- The class in which a table word is read: the table gives no class (log 5). -/
def tableClass (w ext : Word) : BitVec 3 :=
  match bestClass w ext with
  | some c => c
  | none => (someClass w).getD 0

/-- The bytes of the table's bits, `n` of them, the least significant first. -/
def tableBytes : Nat → Nat → List Byte
  | 0, _ => []
  | n + 1, w => BitVec.ofNat 8 w :: tableBytes n (w / 256)

/-- The words of a table entry: two of them, the bits above `nbits` zero. -/
def tableWords (nbits w : Nat) : Word × Word :=
  let v := w % 2 ^ nbits
  (BitVec.ofNat 32 v, BitVec.ofNat 32 (v / 2 ^ 32))

/-- The instruction that the decoder reads from a table word. -/
def decodeTableWord (nbits w : Nat) : Option Instr :=
  let p := tableWords nbits w
  match decodeBytes (tableClass p.1 p.2) (tableBytes 8 (w % 2 ^ nbits)) with
  | .ok (i, _) => some i
  | .error _ => none

end Sys2Proof
end

