-- ==== Sys2Proof/Machine/Flow.lean ====
section
/-!
DEFINITION. Machine/Flow.lean: where a slice goes next: code words and clause headers, the deferred, call and
loop stacks, joins, parting and rejoining (02 R29 to R34, 04 R65 to R67, R78, 11 R230 to R233).
-/

namespace Sys2Proof.Machine

/-! ### Code (R67, R78) -/

/-- A code word at a virtual address of a partition; none while its page is not mapped (R67, R177). -/
def State.code (s : State) (part a : Nat) : Option Word :=
  match s.translate part a 0 with
  | .ok p k => some (s.fetchWord k p)
  | _ => none

/-- A code word still to be fetched: its page is not mapped. One whose translation is refused is not awaited: its fetch traps. -/
def State.codeHeld (s : State) (part a : Nat) : Bool :=
  match s.translate part a 0 with
  | .fault => true
  | _ => false

/-- What the fetch of a code word raises: PROTECTION where its translation is refused (R11, R309), SOFT where it is poisoned (R343,
R346): code, TRAPADDR and TRAPAUX. -/
def State.fetchTrap (s : State) (part a : Nat) : Option (Nat × Nat × Nat) :=
  match s.translate part a 0 with
  | .refused aux => some (0x0D, a, aux)
  | .ok p _ => if s.physBad p 4 then some (0x15, 0, 7) else none
  | .fault => none

/-- A transfer target outside the code segment, or whose word has bit 31 clear (R78). -/
def State.badTarget (s : State) (part : Nat) (h : LaunchHdr) (a : Nat) : Bool :=
  !inCode h a || match s.code part a with
    | some w => !w.getLsbD 31
    | none => false

/-- Whether the last of the body words is an instruction word with X set (R78, cause 7). -/
def lastHasX : List Word → Bool
  | [] => false
  | [w] => w.getLsbD 28
  | w :: e :: t => if w.getLsbD 28 then lastHasX t else lastHasX (e :: t)

/-- The header at an address, when its word has bit 31 set. -/
def State.headerAt (s : State) (part a : Nat) : Option Header := (s.code part a).bind headerOf

/-- The addresses of the body words of the clause at `a` that lie in the code segment. -/
def State.bodyWords (s : State) (part : Nat) (h : LaunchHdr) (a : Nat) : List Nat :=
  match s.headerAt part a with
  | none => []
  | some hd => ((List.range hd.count.toNat).map (fun i => a + 4 * (i + 1))).filter (inCode h)

/-- Every word of the clause at `a` is there. -/
def State.clauseThere (s : State) (part : Nat) (h : LaunchHdr) (a : Nat) : Bool :=
  (a :: s.bodyWords part h a).all (fun x => !s.codeHeld part x)

/-- The lowest ILLEGAL_CLAUSE cause of a header at `a` (R78, R367); 0 when there is none, or none yet while body words are not
there. A word with bit 31 clear is cause 1 wherever a header is expected, at ENTRY and TRAPVEC too (log 77). -/
def State.headerCause (s : State) (part : Nat) (h : LaunchHdr) (a : Nat) : Nat :=
  if !inCode h a then 9
  else match s.code part a with
    | none => 0
    | some w => match headerOf w with
      | none => 1
      | some hd =>
        let n := hd.count.toNat
        let body := s.bodyWords part h a
        let words := body.filterMap (s.code part)
        if hd.marker ≠ 0x53 then 2
        else if hd.reserved ≠ 0 then 3
        else if hd.cls = 7 then 4
        else if n = 0 then 5
        else if words.any (fun w => w.getLsbD 31) then 6
        else if words.length < body.length then 0
        else if words.length = n ∧ lastHasX words then 7
        else if body.length < n then 8
        else 0

/-- The address after a clause's last word (R67). -/
def State.clauseEnd (s : State) (part a : Nat) : Nat :=
  match s.headerAt part a with
  | some hd => a + 4 * (hd.count.toNat + 1)
  | none => a + 4

/-- The first word of a clause, its class and end as a header gives them (R67). -/
def Point.enter (a : Nat) (hd : Header) : Point :=
  ⟨a + 4, true, hd.cls.toNat, a, a + 4 * (hd.count.toNat + 1)⟩

/-- The point `n` words on in its clause. -/
def Point.skip (p : Point) (n : Nat) : Point := { p with pc := p.pc + 4 * n }

/-! ### Loops (R232, R233) -/

/-- Leaving loop bodies for an address at a deferred depth (R233): the loops left, and whether a loop would be
left below its depth (LOOP_SHAPE, cause 5). -/
def leaveLoops (pc depth : Nat) : List LoopEntry → List LoopEntry × Bool
  | [] => ([], false)
  | e :: t =>
    if e.start ≤ pc ∧ pc < e.last then (e :: t, false)
    else if e.dd < depth then (e :: t, true)
    else leaveLoops pc depth t

/-- A taken transfer of a slice to a point, at its present deferred depth (R233). -/
def Slice.goTo (x : Slice) (p : Point) : Slice × Bool :=
  let r := leaveLoops p.pc x.deferred.length x.loops
  ({ x with point := p, loops := r.1 }, r.2)

/-- The end-of-body check after the clause of header `h` (R233): the loop stack and where to go; none for
LOOP_SHAPE, cause 6, which leaves the loop stack as it was, what earlier rounds of the check did to it included (log 72). -/
def endLoops (h next depth : Nat) : List LoopEntry → Option (List LoopEntry × Nat)
  | [] => some ([], next)
  | e :: t =>
    if e.stop ≠ h then some (e :: t, next)
    else if e.dd < depth then none
    else if 1 < e.rem then some ({ e with rem := e.rem - 1 } :: t, e.start)
    else endLoops h next depth t

/-- A slice that has issued its clause's last word goes on (R67, R233); none for LOOP_SHAPE, cause 6. -/
def Slice.endClause (x : Slice) : Option Slice :=
  match endLoops x.point.head x.point.stop x.deferred.length x.loops with
  | none => none
  | some (l, a) => some { x with loops := l, point := .atHeader a }

/-- What tells whether an entry of a slice's stack, counted from the bottom, has been consumed: it changes when an instruction, an
end check or a join takes what the entry holds (R346). -/
def Slice.stackKey (x : Slice) (file pos : Nat) : Option (List Nat) :=
  match file with
  | 0 => x.deferred.reverse[pos]?.map (fun e => [e.join, e.dest.pc, e.arrived.toNat])
  | 1 => x.loops.reverse[pos]?.map (fun e => [e.start, e.stop, e.rem])
  | 2 => x.calls.reverse[pos]?.map (fun e => [e.ret.pc])
  | _ => none

/-- The slice stands behind its clause's last word. -/
def Slice.atEnd (x : Slice) : Bool := x.point.inside && x.point.pc == x.point.stop

/-! ### Joins and emptied masks (R32, R33, R231) -/

/-- An arrival at the join of the top deferred entry (R32). -/
def Slice.arrive (x : Slice) : Slice × Bool :=
  match x.deferred with
  | [] => (x, false)
  | e :: t =>
    if e.arrived then
      { x with active := e.taken ||| x.active, deferred := t }.goTo (.atHeader e.join)
    else
      { x with active := e.mask, deferred := { e with taken := x.active, arrived := true } :: t }.goTo e.dest

/-- The deferred depth below which the present call does not join (R231). -/
def Slice.callDepth (x : Slice) : Nat :=
  match x.calls with
  | [] => 0
  | e :: _ => e.dd

/-- The signature's word of the join switch that the slice would make at its top entry (R350). -/
def Slice.switchWord (x : Slice) : Nat := if x.deferred.head?.any (·.arrived) then 2 else 1

/-- What a slice with no active lane does at once (R33, R231): a join switch, or the return of its call; with whether a
loop would be left below its depth, and the switch's word or 0. None when nothing is left. -/
def Slice.settleStep (x : Slice) : Option (Slice × Bool × Nat) :=
  if x.callDepth < x.deferred.length then
    let r := x.arrive
    some (r.1, r.2, x.switchWord)
  else match x.calls with
    | [] => none
    | e :: t =>
      let r := { x with active := e.back, calls := t, loops := x.loops.drop (x.loops.length - e.ld) }.goTo e.ret
      some (r.1, r.2, 0)

/-- A slice with no active lane goes on as R33 and R231 say, until a lane is active or none is left. -/
def Slice.settle : Nat → Slice → Slice × Bool
  | 0, x => (x, false)
  | n + 1, x =>
    if x.active ≠ 0 then (x, false)
    else match x.settleStep with
      | none => (x, false)
      | some r =>
        let q := r.1.settle n
        (q.1, r.2.1 || q.2)

/-- Enough steps to empty every stack: two for a deferred entry, one for a call. -/
def settleFuel : Nat := 24

/-- The slice reaches its top join (R32). -/
def Slice.join (x : Slice) : Slice × Bool :=
  let r := x.arrive
  let q := r.1.settle settleFuel
  (q.1, r.2 || q.2)

/-- The join address of the top entry. -/
def Slice.topJoin (x : Slice) : Option Nat := x.deferred.head?.map (·.join)

/-! ### Parting and rejoining (R29, R31, R86) -/

/-- The live slices that have an active lane. -/
def Gang.activeSlices (g : Gang) : List Nat :=
  g.liveSlices.filter (fun i => match g.slice? i with
    | some x => decide (x.active ≠ 0)
    | none => false)

def Gang.pcs (g : Gang) : List Nat := g.activeSlices.filterMap (fun i => (g.slice? i).map (·.point.pc))

/-- A whole gang whose live slices hold different PCs parts (R29). Every slice has its own copy of the budgets
already (R86). -/
def Gang.repart (g : Gang) : Gang :=
  match g.pcs with
  | [] => g
  | p :: t => if g.whole && t.any (· != p) then { g with whole := false } else g

/-- The largest budget of a register over the slices, the lowest slice's latency on a tie (R86). -/
def mergeBudgets (ls : List (List Budget)) : List Budget :=
  ls.foldl (fun acc l => l.foldl (fun acc b =>
    match acc.find? (fun c => c.file == b.file && c.idx == b.idx) with
    | none => acc ++ [b]
    | some c => if c.left < b.left
                then mapWhere (fun c => c.file == b.file && c.idx == b.idx) (fun _ => b) acc else acc) acc) []

/-- The gang becomes whole (R31, R86). -/
def Gang.regangWhole (g : Gang) : Gang :=
  let live := g.liveSlices
  let m := mergeBudgets (live.filterMap (fun i => (g.slice? i).map (·.budgets)))
  let early := (live.filterMap (fun i => (g.slice? i).map (·.earliest))).foldl max 0
  { (live.foldl (fun h i => h.modSlice i (fun x => { x with budgets := m, earliest := early })) g) with
    whole := true, shared := [] }

/-- Each slice given becomes what it does, and the switches of live slices are folded, the first arrivals before the second
(R350; log 85). -/
def Gang.switched (g : Gang) (moves : List (Nat × Slice × Nat)) : Gang :=
  let h := moves.foldl (fun h m => h.modSlice m.1 (fun _ => m.2.1)) g
  ([1, 2].filter (fun k => moves.any (fun m => m.2.2 == k && g.sliceLive m.1))).foldl
    (fun h k => h.fold [BitVec.ofNat 32 k, h.activeOf none ||| h.dead]) h

/-- A live slice without an active lane would leave a loop below its depth: it stays as it is and its agent traps (R233; log 105). -/
def Gang.loopStuck (g : Gang) (i : Nat) (x : Slice) : Bool :=
  g.sliceLive i && x.active == 0 && x.settleStep.any (·.2.1)

/-- One round of what slices without an active lane do (R33, R231), with the slices that switched at a join; none when
nothing is left. -/
def Gang.settleRound (g : Gang) : Option (Gang × List Nat) :=
  let moves := (List.range g.nslices).filterMap (fun i => (g.slice? i).bind (fun x =>
    if x.active ≠ 0 ∨ g.loopStuck i x then none else x.settleStep.map (fun r => (i, r.1, r.2.2))))
  if moves = [] then none
  else some (g.switched moves, (moves.filter (fun m => m.2.2 != 0)).map (·.1))

/-- Every slice without an active lane goes on until it has one or nothing is left, with the slices that switched. -/
def Gang.settleAll : Nat → Gang → Gang × List Nat
  | 0, g => (g, [])
  | n + 1, g => match g.settleRound with
    | none => (g, [])
    | some r =>
      let q := r.1.settleAll n
      (q.1, r.2 ++ q.2)

/-- A slice goes past the REGANG it waits at; its next issue waits for the STALL of that REGANG's issue (R81). -/
def Slice.pastRegang (x : Slice) : Slice :=
  match x.hold with
  | .regang _ stall xt =>
    { (x.spend (stall + 1)) with point := x.point.skip (if xt then 2 else 1), hold := .none, replay := none
                                 issues := x.issues + 1, readySince := none }
  | _ => x

/-- The slices wait at a REGANG, and where. -/
def Gang.regangPcs (g : Gang) : List (Option Nat) :=
  g.liveSlices.map (fun i => match g.slice? i with
    | some x => match x.hold with
      | .regang pc _ _ => some pc
      | _ => none
    | none => none)

/-- REGANG completes when every live slice waits at one (R31): whole at one address, parted at several. -/
def Gang.regang (g : Gang) : Gang :=
  let pcs := g.regangPcs
  match pcs with
  | [] => g
  | p :: t =>
    if g.whole || pcs.any (·.isNone) then g
    else
      let h := g.liveSlices.foldl (fun h i => h.modSlice i Slice.pastRegang) g
      if t.all (· == p) then
        let w := h.regangWhole
        w.fold [3, w.activeOf none ||| w.dead]
      else h

/-- The slices that have passed their clause's last word go on; false for a LOOP_SHAPE, cause 6, in one. -/
def Gang.endClauses (g : Gang) (sl : Option Nat) : Option Gang :=
  (g.members sl).foldl (fun acc i => acc.bind (fun h => match h.slice? i with
    | some x => if x.active &&& g.live ≠ 0 ∧ x.atEnd then x.endClause.map (fun y => h.modSlice i (fun _ => y)) else some h
    | none => some h)) (some g)

/-- The lanes of an agent whose slices' end check raises LOOP_SHAPE, cause 6 (R233). -/
def Gang.badEnds (g : Gang) (sl : Option Nat) : Mask :=
  (g.members sl).foldl (fun m i => match g.slice? i with
    | some x => if x.active &&& g.live ≠ 0 ∧ x.atEnd ∧ x.endClause.isNone then m ||| (x.active &&& g.live) else m
    | none => m) 0

end Sys2Proof.Machine
end

