-- ==== Sys2Proof/Machine/Barrier.lean ====
section
/-!
DEFINITION. Machine/Barrier.lean: the barrier object in scratchpad and its events (11 R239 to R243).
-/

namespace Sys2Proof.Machine

/-- A barrier's fields (R239); the reserved bits stay as they stand. -/
structure Bar where
  members : Nat
  arrived : Nat
  expect : Nat
  arrive : Nat
  live : Bool
  reserved : Nat
  phase : Nat
  pend : Nat
deriving DecidableEq, Repr

/-- The object at an offset of a block's scratchpad (R239). -/
def barAt (rd : Nat → Nat) (o : Nat) : Bar :=
  let lo := leGet rd o 8
  let hi := leGet rd (o + 8) 8
  { members := lo / 2 ^ 32, arrived := lo % 2 ^ 32, expect := hi / 2 ^ 58, arrive := hi / 2 ^ 52 % 64
    live := hi / 2 ^ 51 % 2 == 1, reserved := hi / 2 ^ 48 % 8, phase := hi / 2 ^ 36 % 4096, pend := hi % 2 ^ 36 }

/-- Its two words (R239). -/
def Bar.words (b : Bar) : Nat × Nat :=
  (b.members * 2 ^ 32 + b.arrived,
   b.expect * 2 ^ 58 + b.arrive * 2 ^ 52 + b.live.toNat * 2 ^ 51 + b.reserved * 2 ^ 48 + b.phase * 2 ^ 36 + b.pend)

/-- A phase completes when ARRIVE ≥ EXPECT and PEND = 0 (R242). -/
def Bar.complete (b : Bar) : Bar :=
  if b.expect ≤ b.arrive ∧ b.pend = 0 then { b with phase := (b.phase + 1) % 4096, arrive := 0, arrived := 0 } else b

/-- An arrival of a gang (R241). -/
def Bar.arrival (b : Bar) (gang : Nat) : Bar :=
  { b with arrive := min 63 (b.arrive + 1)
           arrived := if b.live && bitAt b.members gang then b.arrived ||| 2 ^ gang else b.arrived }.complete

/-- BARXB adds bytes (R241). -/
def Bar.addBytes (b : Bar) (n : Nat) : Bar := { b with pend := (b.pend + n) % 2 ^ 36 }.complete

/-- A copy subtracts its bytes (R196, R241). -/
def Bar.subBytes (b : Bar) (n : Nat) : Bar := { b with pend := (b.pend + 2 ^ 36 - n % 2 ^ 36) % 2 ^ 36 }.complete

/-- The exit effect of a gang on a .live barrier (R242). -/
def Bar.exitOf (b : Bar) (gang : Nat) : Bar :=
  if b.live && bitAt b.members gang then
    let b1 := { b with members := b.members - 2 ^ gang, expect := b.expect - 1 }
    (if bitAt b.arrived gang then { b1 with arrived := b.arrived - 2 ^ gang, arrive := b.arrive - 1 } else b1).complete
  else b

/-- The phase numbered `n` has completed (R243). -/
def Bar.passed (b : Bar) (n : Nat) : Bool :=
  let x := (b.phase + 4096 - n) % 4096
  decide (1 ≤ x) && decide (x ≤ 2047)

def Block.bar (b : Block) (o : Nat) : Bar := barAt (fun a => (mapGet b.scratch a).toNat) o

def Block.setBar (b : Block) (o : Nat) (v : Bar) : Block :=
  let w := v.words
  { b with scratch := mapSetAll b.scratch (leCells o 8 w.1 ++ leCells (o + 8) 8 w.2)
           bars := if b.bars.contains o then b.bars else o :: b.bars }

/-- One barrier event of a block's bank: the object is read and written whole (R239). What it writes comes from what it
reads, so that a poisoned grain stays poisoned (R344). -/
def State.barEvent (s : State) (blk o : Nat) (f : Bar → Bar) : State := s.modBlock blk (fun b => b.setBar o (f (b.bar o)))

/-- A gang's arrival takes effect: the slices that wait for it under BARSYNC learn the phase current then
(R241, R243). -/
def State.gangArrives (s : State) (gid o : Nat) : State :=
  match s.gang? gid with
  | none => s
  | some g =>
    let phase := match s.block? g.block with
      | some b => (b.bar o).phase
      | none => 0
    let learn := fun (x : Slice) => if x.hold = .barsync o none then { x with hold := .barsync o (some phase) } else x
    (s.modGang gid (fun g => { g with slices := g.slices.map learn
                                      arrivals := g.arrivals.filter (fun a => a.off != o) })).barEvent g.block o
      (fun b => b.arrival g.index)

/-- Every live slice has arrived at a recorded barrier, or has ended (R241). -/
def Gang.allArrived (g : Gang) (a : Arrival) : Bool := g.liveSlices.all (fun i => bitAt a.slices i)

/-- The gang's arrival at a barrier, made by every live slice, has still to take effect (R220, R241). -/
def Gang.recordDue (g : Gang) (o : Nat) : Bool :=
  decide (g.live ≠ 0) && g.arrivals.any (fun a => a.off == o && g.allArrived a)

/-- The accesses of the gang's slices that have ended are performed at .b: no slice that arrives asks for them (R220). -/
def State.endedDone (s : State) (g : Gang) : Bool :=
  (List.range g.nslices).all (fun i => g.sliceLive i || s.performed g.id s.fresh (some i) 1)

/-- The arrival records that have become complete take effect, as releases at .b (R220, R241). -/
def State.settleArrivals (s : State) (gid : Nat) : State :=
  match s.gang? gid with
  | none => s
  | some g => (g.arrivals.filter (fun a => decide (g.live ≠ 0) && g.allArrived a && s.endedDone g)).foldl
      (fun s a => s.gangArrives gid a.off) s

/-- The exit effect of a gang at every barrier of its block (R235, R242). -/
def State.exitEffect (s : State) (blk index : Nat) : State :=
  match s.block? blk with
  | none => s
  | some b => b.bars.foldl (fun s o => if (b.bar o).live && bitAt (b.bar o).members index
      then s.barEvent blk o (fun v => v.exitOf index) else s) s

/-- A gang's exit effect applies once its accesses are performed at .b (R220, R242). -/
def State.settleExit (s : State) (gid : Nat) : State :=
  match s.gang? gid with
  | none => s
  | some g =>
    if g.exitDue && s.performed gid s.fresh none 1 then
      (s.modGang gid (fun g => { g with exitDue := false })).exitEffect g.block g.index
    else s

/-- Arrivals and exit effects that waited for accesses of the gang (R220). -/
def State.settleReleases (s : State) (gid : Nat) : State := (s.settleArrivals gid).settleExit gid

end Sys2Proof.Machine
end

