-- ==== Sys2Proof/Machine/Header.lean ====
section
/-!
DEFINITION. Machine/Header.lean: the launch header, its checks and what a block takes of its cluster (02 R35 to
R37, R44, 12 R289, R292).
-/

namespace Sys2Proof.Machine

/-! ### The launch header (R35) -/

/-- The 64-bit word at an offset of a record. -/
def word64 (rd : Nat → Nat) (a o : Nat) : Nat := leGet rd (a + o) 8

/-- Bits `hi` to `lo` of a word. -/
def bits (x hi lo : Nat) : Nat := x / 2 ^ lo % 2 ^ (hi + 1 - lo)

/-- LEVELj: shading gangs per cluster and view slots per wing. -/
def levelOf (x : Nat) : Nat × Nat := (bits x 15 8, bits x 7 0)

/-- A launch header from its 128 bytes at `a` (R35). -/
def launchAt (rd : Nat → Nat) (a : Nat) : LaunchHdr :=
  let w := word64 rd a
  { entry := w 0x00, trapvec := w 0x08, codebase := w 0x10
    codesize := bits (w 0x18) 63 32, scratch := bits (w 0x18) 19 0, argbase := w 0x20
    gridx := bits (w 0x28) 31 0, gridy := bits (w 0x28) 47 32, gridz := bits (w 0x28) 63 48
    spanco := bits (w 0x30) 63 56, wingco := bits (w 0x30) 55 48, nestlim := bits (w 0x30) 41 40
    check := bitAt (w 0x30) 35, idem := bitAt (w 0x30) 34, twin := bitAt (w 0x30) 33
    nomatrix := bitAt (w 0x30) 32, tiles := bits (w 0x30) 31 28, regsCode := bits (w 0x30) 18 16
    nslices := bits (w 0x30) 15 12, gangs := bits (w 0x30) 5 0
    levels := [levelOf (bits (w 0x38) 15 0), levelOf (bits (w 0x38) 31 16), levelOf (bits (w 0x38) 47 32)]
    expcyc := bits (w 0x40) 47 0, paceallow := bits (w 0x48) 15 0, stackb := bits (w 0x50) 15 0 }

/-- Blocks of a launch. -/
def LaunchHdr.blocks (h : LaunchHdr) : Nat := h.gridx * h.gridy * h.gridz

/-! ### What a cluster holds (R44, R292) -/

/-- Room of a cluster in use or asked for: scratchpad bytes, palette tiles, and gangs and register bytes by easel. -/
structure Room where
  scratch : Nat
  tiles : Nat
  gangs : List Nat
  bytes : List Nat
deriving DecidableEq, Repr

def Room.none : Room := ⟨0, 0, [0, 0, 0, 0], [0, 0, 0, 0]⟩
def Room.add (a b : Room) : Room :=
  ⟨a.scratch + b.scratch, a.tiles + b.tiles, List.zipWith (· + ·) a.gangs b.gangs, List.zipWith (· + ·) a.bytes b.bytes⟩
/-- `n` times the same. -/
def Room.times (a : Room) (n : Nat) : Room :=
  ⟨n * a.scratch, n * a.tiles, a.gangs.map (n * ·), a.bytes.map (n * ·)⟩
/-- It fits a cluster (R44). -/
def Room.fits (a : Room) : Bool :=
  decide (a.scratch ≤ Config.scratchBytes) && decide (a.tiles ≤ 8) && a.gangs.all (· ≤ 16) &&
  a.bytes.all (· ≤ Config.regFileBytes)
/-- Gangs in all. -/
def Room.gangSum (a : Room) : Nat := a.gangs.foldl (· + ·) 0

/-- Register bytes of a window (R38, R44). -/
def LaunchHdr.window (h : LaunchHdr) : Nat := 32 * h.nregs * h.nslices

/-- The easel of a gang within its cluster, and its shadow's (R44). -/
def easelOf (g : Nat) : Nat := g % 4
def shadowEasel (e : Nat) : Nat := (e + 2) % 4

/-- What a block takes (R44). -/
def LaunchHdr.room (h : LaunchHdr) : Room :=
  let own := (List.range h.gangs).map easelOf
  let all := if h.twin then own ++ own.map shadowEasel else own
  let n := (List.range 4).map (fun e => (all.filter (· == e)).length)
  { scratch := h.scratch, tiles := h.tiles, gangs := n, bytes := n.map (· * h.window) }

/-- The level's reservation, none above NESTLIM. -/
def LaunchHdr.level (h : LaunchHdr) (j : Nat) : Nat × Nat :=
  if 1 ≤ j ∧ j ≤ h.nestlim then h.levels.getD (j - 1) (0, 0) else (0, 0)
/-- Gang places per cluster and view slots per wing (R292). -/
def LaunchHdr.places (h : LaunchHdr) : Nat := (h.level 1).1 + (h.level 2).1 + (h.level 3).1
def LaunchHdr.slots (h : LaunchHdr) : Nat := (h.level 1).2 + (h.level 2).2 + (h.level 3).2
/-- The number of a level's first place (R292). -/
def LaunchHdr.firstPlace (h : LaunchHdr) (j : Nat) : Nat :=
  ((List.range j).map (fun i => (h.level i).1)).foldl (· + ·) 0

/-- Bytes of a place's window (R292). -/
def placeBytes : Nat := 16384

/-- What some of the gang places take on a cluster (R292). -/
def placesRoom (l : List Nat) : Room :=
  let n := (List.range 4).map (fun e => (l.filter (fun i => i % 4 == e)).length)
  { scratch := 0, tiles := 0, gangs := n, bytes := n.map (· * placeBytes) }

def LaunchHdr.nestRoom (h : LaunchHdr) : Room := placesRoom (List.range h.places)

/-- How many blocks an empty cluster takes beside `base`, up to `max`. -/
def packs (base one : Room) : Nat → Nat
  | 0 => 0
  | n + 1 => if (base.add (one.times (n + 1))).fits then n + 1 else packs base one n

/-- Cohorts of the declared size, whatever the grid holds, fit an empty wing and span when a cluster takes `n` blocks (R36,
R37; log 76). -/
def LaunchHdr.cohortFits (h : LaunchHdr) (n : Nat) : Bool :=
  (h.wingco == 0 || decide (h.wingco ≤ 4 * n)) &&
  (h.spanco == 0 || (if h.wingco = 0 then decide (h.spanco ≤ 16 * n)
    else decide (h.spanco / h.wingco ≤ 4 * (4 * n / h.wingco))))

/-! ### The checks (R36) -/

/-- Lies outside the global window, or is not 4-byte aligned. -/
def badCodeAddr (a : Nat) : Bool := a % 4 != 0 || decide (2 ^ 56 ≤ a)

/-- The capacity failures of R36: the words that a failure reports. `nest` is clear for a shading header (R289). -/
def LaunchHdr.capacity (h : LaunchHdr) (nest : Bool) : List (Nat × Bool) :=
  let bare := packs Room.none h.room 64
  let full := packs (if nest then h.nestRoom else Room.none) h.room 64
  let small := { h.room with scratch := 0 }
  let ok := fun (n : Nat) => decide (1 ≤ n) && h.cohortFits n
  let bare0 := packs Room.none small 64
  [(0x18, decide (Config.scratchBytes < h.scratch)), (0x30, !ok bare0 || (decide (h.scratch ≤ Config.scratchBytes) && !ok bare)),
   (0x38, nest && ok bare && !ok full)]

/-- The header words that break R36, by offset. -/
def headerFails (rd : Nat → Nat) (a : Nat) (nest : Bool) : List Nat :=
  let w := word64 rd a
  let h := launchAt rd a
  let outside := fun (x : Nat) => decide (x < h.codebase) || decide (h.codebase + h.codesize < x + 4)
  let levelBad := (List.range 3).any (fun i =>
    let l := h.levels.getD i (0, 0)
    if i < h.nestlim then l.1 == 0 || l.2 == 0 else l != (0, 0))
  let own : List (Nat × Bool) :=
    [(0x00, badCodeAddr h.entry || outside h.entry),
     (0x08, badCodeAddr h.trapvec || (h.trapvec != 0 && outside h.trapvec)),
     (0x10, badCodeAddr h.codebase),
     (0x18, h.codesize == 0 || h.codesize % 4 != 0 || decide (524288 < h.scratch) || h.scratch % 8 != 0 ||
            bits (w 0x18) 31 20 != 0),
     (0x28, h.gridx == 0 || h.gridy == 0 || h.gridz == 0),
     (0x30, h.gangs == 0 || decide (32 < h.gangs) || h.nslices == 0 || decide (8 < h.nslices) ||
            decide (6 < h.regsCode) || decide (8 < h.tiles) || bits (w 0x30) 11 6 != 0 || bits (w 0x30) 27 19 != 0 ||
            bits (w 0x30) 39 36 != 0 || bits (w 0x30) 47 42 != 0 || (h.nomatrix && h.tiles != 0) ||
            (h.spanco != 0 && h.wingco != 0 && h.spanco % h.wingco != 0)),
     (0x30, nest && levelBad),
     (0x38, bits (w 0x38) 63 48 != 0 || (nest && decide (128 < h.slots))),
     (0x40, bits (w 0x40) 63 48 != 0), (0x48, bits (w 0x48) 63 16 != 0),
     (0x50, bits (w 0x50) 63 16 != 0 || h.stackb % 8 != 0),
     (0x58, w 0x58 != 0), (0x60, w 0x60 != 0), (0x68, w 0x68 != 0), (0x70, w 0x70 != 0),
     (0x78, w 0x78 != 1)]
  ((own ++ h.capacity nest).filter (·.2)).map (·.1)

/-- The detail of a refused header: its lowest offending word (R36). -/
def refusedWord (rd : Nat → Nat) (a : Nat) : Option Nat :=
  match headerFails rd a true with
  | [] => none
  | x :: t => some (t.foldl min x)

/-- A header that cannot shade (R289). -/
def shadeBad (rd : Nat → Nat) (a : Nat) : Bool :=
  let h := launchAt rd a
  headerFails rd a false != [] || h.gridx != 1 || h.gridy != 1 || h.gridz != 1 || h.gangs != 1 || h.nslices != 8 ||
  !h.nomatrix || h.tiles != 0 || h.scratch != 0 || h.twin || h.wingco != 0 || h.spanco != 0

end Sys2Proof.Machine
end

