-- ==== Sys2Proof/Machine/Life.lean ====
section
/-!
DEFINITION. Machine/Life.lean: how a gang starts, how its lanes exit and die and how it ends (02 R33, R40, R46,
11 R235, R242, 12 R290, R291, 20 R345, R348).
-/

namespace Sys2Proof.Machine

/-! ### The start of a gang (R40) -/

/-- A slice at the start: at ENTRY, its existing lanes active, its stacks empty (R40). -/
def newSlice (entry i now : Nat) : Slice :=
  { point := .atHeader entry, active := sliceLanes i, deferred := [], loops := [], calls := [], hold := .none
    earliest := now, replay := none, budgets := [], readySince := none, issues := 0 }

/-- A gang at its start (R40, R45): Pending, whole, every register zero; the signature of R350. -/
def newGang (id block index easel : Nat) (kind : GangKind) (h : LaunchHdr) (nest now : Nat) : Gang :=
  { id := id, block := block, index := index, easel := easel, kind := kind, life := .pending, nest := nest
    nslices := h.nslices, nregs := h.nregs, whole := true
    slices := (List.range h.nslices).map (fun i => newSlice h.entry i now)
    exited := 0, dead := 0, newDead := 0, d := [], q := [], c := [], p := []
    k := List.replicate 6 0, kzero := List.replicate 6 0, amax := [], stack := [], regs := .zero
    signature := 0xFFFFFFFF, viewStatus := [], se := false, trapState := none, pendTraps := [], outst := []
    tracked := [], olds := [], shared := [], sealedN := 0, fails := [], arrivals := [], twin := [], twinIn := []
    placedAt := now, activeSince := now, lastIssue := now, readySince := none, stallSince := none, cede := false, exitDue := false }

/-- A block at its start: zero scratchpad and tiles (R40, R178). -/
def newBlock (id launch part number cluster argbase now : Nat) : Block :=
  { id := id, launch := launch, part := part, number := number, cluster := cluster, resident := true, ended := false
    argbase := argbase, scratch := [], tiles := [], pacer := 0, bars := [], elapsed := 0, placedAt := now
    engineLost := false, stop := .none, starvedSince := none, held := false }

/-! ### Shading gangs (R290 to R292, R300, R301) -/

/-- The clusters of a wing (R10). -/
def clustersOf (w : Nat) : List Nat := (List.range 4).map (4 * w + ·)

/-- A block of a launch's own, no shading gang's. -/
def State.isOwn (s : State) (b : Block) : Bool :=
  !s.gangs.any (fun g => g.block == b.id && (match g.kind with
    | .shading .. => true
    | _ => false))

/-- The blocks resident on a cluster. -/
def State.resident (s : State) (c : Nat) : List Block := s.blocks.filter (fun b => b.cluster == c && b.resident && !b.ended && s.isOwn b)

/-- The gang places of a launch that running shading gangs hold on a cluster. -/
def State.placesHeld (s : State) (launch cluster : Nat) : List Nat :=
  s.gangs.filterMap (fun g => match g.kind with
    | .shading v _ i =>
      if g.life != .ended && g.easel / 4 == cluster && (s.view? v).any (fun v => v.launch == launch) then some i else none
    | _ => none)

/-- The launch has blocks to place. -/
def Launch.waits (l : Launch) : Bool := l.again != [] || decide (l.next < l.total)

/-- Something of a launch is left: blocks, or views, which keep their slots and their gangs' places (R290, R292). -/
def State.needsLaunch (s : State) (l : Launch) : Bool :=
  l.waits || l.blocksLeft != 0 || s.blocks.any (fun b => b.launch == l.id) || s.fl.views.any (fun v => v.launch == l.id)

/-- The views of a launch on a wing. -/
def State.viewsOn (s : State) (launch wing : Nat) : List View := s.fl.views.filter (fun v => v.launch == launch && v.wing == wing)

/-- The launch has its reservation on a cluster whole: a block of it is resident there, or its last block there has ended and a
view of it remains on the wing (R292). -/
def State.nestWhole (s : State) (l : Launch) (c : Nat) : Bool :=
  (s.resident c).any (fun b => b.launch == l.id) || (l.nests.contains (c, false) && !(s.viewsOn l.id (wingOf c)).isEmpty)

/-- On one of a wing's clusters. -/
def State.nestOnWing (s : State) (l : Launch) (w : Nat) : Bool := (clustersOf w).any (s.nestWhole l)

/-- Levels that a launch's admitted SHADE views on a wing, and the views nested in those, may still need (R296, R339; log
90). -/
def State.needsLevel (s : State) (l : Launch) (w j : Nat) : Bool :=
  (s.viewsOn l.id w).any (fun v => v.kind == 3 && v.admitted.isSome && decide (v.level ≤ j))

/-- The level of a gang place (R292). -/
def LaunchHdr.placeLevel (h : LaunchHdr) (i : Nat) : Nat := if i < h.firstPlace 2 then 1 else if i < h.firstPlace 3 then 2 else 3

/-- The gang places that a launch has on a cluster: all of its reservation; after the save of its last block there, those that
running shading gangs hold and, where its last block of the wing stood, one of each level that its admitted views need, so that they are
all delivered (R292, R296, R339; log 90). -/
def State.placesOn (s : State) (l : Launch) (c : Nat) : List Nat :=
  let kept := !s.nestOnWing l (wingOf c) && (l.nests.find? (fun n => wingOf n.1 == wingOf c)).any (fun n => n.1 == c)
  (List.range l.hdr.places).filter (fun i => s.nestWhole l c || (s.placesHeld l.id c).contains i ||
    (let j := l.hdr.placeLevel i
     kept && i == l.hdr.firstPlace j && s.needsLevel l (wingOf c) j))

/-- The launch takes its places on a cluster (R292). -/
def Launch.nestOn (l : Launch) (c : Nat) (saved : Bool) : Launch :=
  { l with nests := (c, saved) :: l.nests.filter (fun n => n.1 != c) }

/-- Reservations that nothing keeps any more are released (R292). -/
def State.trimNests (s : State) : State :=
  { s with launches := s.launches.map (fun l => { l with nests := l.nests.filter (fun n =>
      (s.resident n.1).any (fun b => b.launch == l.id) || !(s.viewsOn l.id (wingOf n.1)).isEmpty) }) }

/-- The level's lowest free place on the lowest-numbered cluster of a wing that has one (R290). -/
def State.freePlace (s : State) (launch level wing : Nat) : Option (Nat × Nat) :=
  match s.launch? launch with
  | none => none
  | some l =>
    let own := (List.range (l.hdr.level level).1).map (l.hdr.firstPlace level + ·)
    (clustersOf wing).findSome? (fun c =>
      (own.find? (fun i => (s.placesOn l c).contains i && !(s.placesHeld launch c).contains i)).map (fun i => (c, i)))

/-- A shading gang's d0 to d3 in the lane of a hit ray (R290). -/
def Gang.shadeIn (g : Gang) (v : View) (lane : Nat) (r : Ray) : Gang :=
  match r.hit with
  | none => g
  | some h =>
    let time := ((v.srcs.find? (fun x => x.lane == r.lane)).bind (·.cam)).map (·.time)
    let two := fun (lo hi : Nat) => (BitVec.ofNat 64 (lo + 2 ^ 32 * hi) : Reg)
    (((g.setD 0 lane (two h.t h.tri.inst)).setD 1 lane (two h.tri.prim h.tri.mat)).setD 2 lane (two h.b1 h.b2)).setD 3 lane
      (two (if v.perLane then 32 * r.lane + r.pixel else r.pixel) (time.getD 0))

/-- The header under which a shading gang runs: its code, register count and trap vector are its own, the rest is the issuing
launch's, and it reserves nothing (R289, R300). -/
def LaunchHdr.shading (own root : LaunchHdr) : LaunchHdr :=
  { own with nestlim := root.nestlim, check := root.check, idem := root.idem, stackb := root.stackb, levels := [], expcyc := 0
             paceallow := 0 }

/-- A view's next shading gang starts in a place (R290): a block and a launch of its own carry its header and SHARG. -/
def State.startShading (s : State) (v : View) (hdr : LaunchHdr) (rays : List Ray) (cluster place : Nat) : State :=
  let n := s.fresh
  let arg := (v.srcs.findSome? (·.cut)).map (·.shArg)
  let part := ((s.block? v.block).map (·.part)).getD 0
  let h := hdr.shading (((s.launch? v.launch).map (·.hdr)).getD hdr)
  let launch : Launch :=
    { id := n, hdrAddr := 0, hdr := h, part := part, prio := 0, node := none, heat := none, next := 1, total := 1, again := []
      released := s.pkg.clock, waiting := none, wingHeld := none, blocksLeft := 0, nests := [] }
  let lanes := (List.range 32).zip rays
  let kind : GangKind := .shading v.id (rays.map (fun r => (r.lane, r.pixel))) place
  let g := newGang (n + 2) (n + 1) 0 (4 * cluster + place % 4) kind h v.level s.pkg.clock
  let g1 := lanes.foldl (fun g p => g.shadeIn v p.1 p.2) g
  let none_ := g.lanes &&& ~~~maskOf (lanes.map (·.1))
  let g2 := { (g1.without none_) with exited := none_ }
  let s1 := { s with launches := s.launches ++ [launch]
                     blocks := s.blocks ++ [newBlock (n + 1) n part 0 cluster (arg.getD 0) s.pkg.clock]
                     gangs := s.gangs ++ [g2], fresh := n + 3 }
  s1.modView v.id (fun v => { v with toStart := v.toStart.drop 1, running := v.running + 1 })

/-- The views of a launch, level and wing that wait with a shading gang, by admission (R301). -/
def State.shadeWaiters (s : State) (launch level wing : Nat) : List View :=
  sortBy (fun v => v.admitted.getD 0)
    (s.fl.views.filter (fun v => v.launch == launch && v.level == level && v.wing == wing && v.toStart != []))

/-- The first waiting shading gang of a launch, level and wing starts, if a place is free (R290, R301). -/
def State.startNext (s : State) (launch level wing : Nat) : Option State :=
  match s.shadeWaiters launch level wing with
  | [] => none
  | v :: _ => match s.freePlace launch level wing, v.shade, v.toStart with
    | some p, some h, rays :: _ => some (s.startShading v h rays p.1 p.2)
    | _, _, _ => none

/-! ### Twins and ends -/

/-- The gang, its shadow or the gang that it shadows (R348). -/
def twinOf (gid : Nat) (g h : Gang) : Bool :=
  h.id == gid || h.kind == .shadow gid || g.kind == .shadow h.id

/-- A wing's sketch unit is out of service, by itself or with its die (R343, R353). -/
def State.sketchOut (s : State) (wing : Nat) : Bool := s.errs.deadSketch.contains wing || s.dieOff wing

/-- A view that is lost with its sketch unit, its block having been stopped, stands for its running shading gangs alone. -/
def State.viewOrphaned (s : State) (v : View) : Bool :=
  s.sketchOut v.wing && v.running == 0 && (s.gang? v.gang).all (fun g => g.life == .ended)

/-- A shading gang of a view has ended: its place goes to the next that waits (R301). -/
def State.shadeEnded (s : State) (block view : Nat) : State :=
  let s1 := (s.modView view (fun w => { w with running := w.running - 1 })).modBlock block (fun b => { b with ended := true })
  match s1.view? view with
  | none => s1
  | some v =>
    let s2 := (s1.startNext v.launch v.level v.wing).getD s1
    if s2.viewOrphaned v then s2.dropView v.id else s2

/-- A gang with no live lane whose counters read zero ends (R46). -/
def State.endGang (s : State) (gid : Nat) : State :=
  match s.gang? gid with
  | none => s
  | some g =>
    if g.life = .ended ∨ g.live ≠ 0 ∨ g.k.any (· != 0) then s
    else
      let s1 := s.modGang gid (fun g => { g with life := .ended, pendTraps := [], arrivals := [] })
      match g.kind with
      | .shading v _ _ => s1.shadeEnded g.block v
      | _ => s1

/-! ### What ends with an operation -/

/-- A token counts its operation off in a gang and its shadow (R41, R85, R348). -/
def State.endToken (s : State) (gid tag : Nat) : State :=
  match s.gang? gid with
  | none => s
  | some g =>
    let off := fun (h : Gang) => match h.tracked.find? (fun t => t.op == tag) with
      | none => h
      | some t => { ((h.settleR tag).decK t.token s.pkg.clock) with tracked := h.tracked.filter (fun t => t.op != tag) }
    let ids := (s.gangs.filter (twinOf gid g)).map (·.id)
    let s1 := { s with gangs := mapWhere (twinOf gid g) off s.gangs }
    ids.foldl (fun s i => s.endGang i) s1

/-- An operation is done with: its token counts it off and, its elements gone, it leaves (R41, R184, R187). -/
def State.opDone (s : State) (id : Nat) : State :=
  match s.op? id with
  | none => s
  | some o =>
    if o.parked then s
    else
      let off := o.token && (o.elts == [] || (o.kind == .store && decide (o.ord ≤ 1)))
      let s1 := if off then (s.endToken o.gang o.at_).modOp id (fun o => { o with token := false }) else s
      if o.elts = [] then (s1.dropOp id).settleReleases o.gang else s1

/-- A park whose agent has lost every active lane is over, and its operation waits for it no more. -/
def State.dropParks (s : State) (gid : Nat) : State :=
  match s.gang? gid with
  | none => s
  | some g =>
    (s.fl.parks.filter (fun p => p.gang == gid && decide (g.activeOf p.slice = 0))).foldl (fun s p =>
      let s1 := s.dropPark p.id
      match p.op with
      | some id => (s1.modOp id (fun o => { o with parked := false })).opDone id
      | none => s1) s

/-! ### The pixels of shading gangs -/

/-- The pixels that lanes of a shading gang leave, by the value each lane gives (R290, R291). -/
def pixelsOf (pixels : List (Nat × Nat)) (m : Mask) (val : Nat → Nat) : List Pixel :=
  (lanesOf m).filterMap (fun l => (pixels[l]?).map (fun p => Pixel.mk p.1 p.2 (val l)))

/-- The radiance fallback of a view's source lane (R281). -/
def View.fbRad (v : View) (lane : Nat) : Nat :=
  match v.srcs.find? (fun x => x.lane == lane) with
  | some x => match x.cut with
    | some c => fallback 3 c
    | none => 0
  | none => 0

/-- Shading lanes give FBRAD (R291). -/
def View.shadeLost (v : View) (px : List (Nat × Nat)) (m : Mask) : View :=
  { v with shadeFail := true
           pixels := v.pixels ++ (pixelsOf px m (fun _ => 0)).map (fun p => { p with val := v.fbRad p.lane }) }

/-- A shading gang whose trap escalates is ended (R291): its lanes not yet exited give FBRAD, and it ends once its token counters
read zero (R46). -/
def State.endShading (s : State) (g : Gang) (view : Nat) (px : List (Nat × Nat)) : State :=
  let s1 := s.modGang g.id (fun g => { (g.without g.live) with exited := g.exited ||| g.live, pendTraps := [], arrivals := [] })
  (s1.modView view (fun v => v.shadeLost px g.live)).endGang g.id

/-! ### Taking a trap (R320, R321, R323 to R325) -/

/-- The trap goes to the supervisor (R325); a shading gang is ended instead (R291). -/
def State.escalates (s : State) (g : Gang) (sl : Option Nat) (t : Trap) (replay : Mask) : State :=
  let s1 := s.modGang g.id (fun g => g.escalate sl t replay s.pkg.clock)
  match g.kind with
  | .shading v px _ => s1.endShading g v px
  | _ => s1

/-- A trap state written whole is no longer poisoned (R344). -/
def State.cleanTrapState (s : State) (gid : Nat) : State :=
  if s.errs.poison = [] then s else s.clearPoison (· == .trapState gid)

/-- Takes a trap raised by an agent (R320, R321, R323 to R325). `replay` is the mask to which a later
re-issue is limited. A trap of another agent while the gang is in its handler is held (R324). -/
def State.takeTrap (s : State) (aid : AgentId) (t : Trap) (replay : Mask) : State :=
  match s.gang? aid.gang with
  | none => s
  | some g =>
    let vec := match (s.block? g.block).bind s.hdrOf with
      | some h => h.trapvec
      | none => 0
    let now := s.pkg.clock
    match g.trapState with
    | some ts =>
      if ts.has aid.slice then s.escalates g aid.slice t replay
      else s.modGang g.id (fun g => g.modAgent aid.slice (fun x => { x with hold := .handler }))
    | none =>
      if vec = 0 ∨ alwaysEscalates t.code then s.escalates g aid.slice t replay
      else (s.modGang g.id (fun g => g.enterHandler aid.slice t replay vec now)).cleanTrapState g.id

/-! ### Traps of twins (R348, R349) -/

/-- The shadow of a gang, while it lives. -/
def State.shadowOf (s : State) (gid : Nat) : Option Gang :=
  s.gangs.find? (fun h => h.kind == .shadow gid && h.life != .ended)

/-- The agent of the other copy of a twin. -/
def AgentId.of (a : AgentId) (gid : Nat) : AgentId := ⟨gid, a.slice⟩

/-- The lanes to which a trap of the agent limits a later re-issue of the word at which it stands: the active ones, or those of
them to which the word is limited already (R320). -/
def Gang.replayOf (g : Gang) (sl : Option Nat) : Mask :=
  g.activeOf sl &&& ((g.lead sl).bind (·.replay)).getD 0xFFFFFFFF

def State.replayOf (s : State) (aid : AgentId) : Mask := (s.gang? aid.gang).elim 0 (fun g => g.replayOf aid.slice)

/-- Both copies take TWIN_MISMATCH at a word (R349). -/
def State.twinMismatch (s : State) (primary shadow : AgentId) (pc : Nat) (lanes : Mask) (aux : Nat) : State :=
  (s.takeTrap primary ⟨0x11, pc, lanes, 0, aux⟩ (s.replayOf primary)).takeTrap shadow ⟨0x11, pc, lanes, 0, aux⟩ (s.replayOf shadow)

/-- The agent's slices stand again where the gang's shadow stands, one issue behind (R348, R349). -/
def Gang.backTo (g : Gang) (sl : Option Nat) (shadow : Gang) : Gang :=
  (g.members sl).foldl (fun g i => match shadow.slice? i with
    | some y => g.modSlice i (fun x => { x with point := y.point, active := y.active, deferred := y.deferred, loops := y.loops
                                                calls := y.calls, issues := y.issues })
    | none => g) g

/-- The other copy of a twin, while it lives. -/
def State.otherCopy (s : State) (g : Gang) : Option Gang :=
  match g.kind with
  | .shadow p => (s.gang? p).filter (fun h => h.life != .ended)
  | _ => s.shadowOf g.id

/-- The slices of two copies have issued as many instructions. -/
def Gang.levelWith (g h : Gang) (sl : Option Nat) : Bool := (g.lead sl).map (·.issues) == (h.lead sl).map (·.issues)

/-- A twin's two copies stay within one issue of each other (R348): the primary waits for its shadow. -/
def State.twinLevel (s : State) (g : Gang) (sl : Option Nat) (x : Slice) : Bool :=
  match s.shadowOf g.id with
  | none => true
  | some sh => match sh.lead sl with
    | some y => decide (x.issues ≤ y.issues)
    | none => true

/-- The same of an agent, by the slice that stands for it. -/
def State.agentLevel (s : State) (g : Gang) (sl : Option Nat) : Bool := (g.lead sl).all (s.twinLevel g sl)

/-- A trap of an agent that no instruction at its issue raises: at its next word, at a join or an end check. Both copies of a twin take it where the other meets it too,
at the same word; else both take TWIN_MISMATCH (R349). -/
def State.trapAtNext (s : State) (aid : AgentId) (t : Trap) (same : Gang → Bool) : State :=
  match s.gang? aid.gang with
  | none => s
  | some g => match s.otherCopy g with
    | none => s.takeTrap aid t (g.replayOf aid.slice)
    | some o =>
      let other := aid.of o.id
      if same o && g.levelWith o aid.slice then (s.takeTrap aid t (g.replayOf aid.slice)).takeTrap other t (o.replayOf aid.slice)
      else match g.kind with
        | .shadow p => (s.modGang p (fun p => p.backTo aid.slice g)).twinMismatch other aid t.pc t.lanes 0xFF
        | _ => s.twinMismatch aid other t.pc t.lanes 0xFF

/-! ### Poisoned stack entries (R343, R346) -/

/-- The slice's stacks are those of its own code, not of the handler. -/
def Gang.ownStacks (g : Gang) (i : Nat) : Bool := g.trapState.all (fun ts => !ts.has (some i))

/-- A poisoned entry of a stack is consumed between two states of its gang. -/
def Gang.consumes (g h : Gang) (e : ErrSite) : Bool :=
  match e with
  | .stack n i file pos => n == g.id && decide (file < 3) && g.ownStacks i && h.ownStacks i &&
      (g.slice? i).bind (·.stackKey file pos) != (h.slice? i).bind (·.stackKey file pos)
  | _ => false

/-- What was consumed of it: the slice that has taken it. -/
def takenSite (e : ErrSite) : ErrSite :=
  match e with
  | .stack n i _ _ => .stack n i 3 0
  | e => e

/-- The poisoned entries that a gang's slices have consumed since an earlier state are marked in those slices (R346; log 87). -/
def State.consumed (s old : State) (gid : Nat) : State :=
  if s.errs.poison = [] then s
  else match old.gang? gid, s.gang? gid with
    | some g, some h =>
      { s with errs := { s.errs with poison := s.errs.poison.map (fun e => if g.consumes h e then takenSite e else e) } }
    | _, _ => s

/-! ### What follows a loss of lanes -/

/-- A fence begins for an agent, or for every agent of a gang (R191, R217). -/
def State.newFence (s : State) (gid : Nat) (sl : Option Nat) (kind scope : Nat) (chkpt : Bool) : State :=
  let n := s.newId
  let o : FenceOp := { id := n.1, gang := gid, slice := sl, kind := kind, scope := scope, chkpt := chkpt }
  { n.2 with fl := { n.2.fl with fences := n.2.fl.fences ++ [o] } }

/-- Slices without an active lane go on (R33, R231); the joins at which they switch order their accesses (R217), and a whole
gang may part (R29). -/
def State.settleSlices (s : State) (gid : Nat) : State :=
  match s.gang? gid with
  | none => s
  | some g =>
    let r := g.settleAll settleFuel
    (r.2.eraseDups).foldl (fun s i => s.newFence gid (some i) 2 0 false) (s.modGang gid (fun _ => r.1.repart))

/-- A parted gang's REGANG completes once every live slice waits at one, and orders the gang's accesses (R31, R217). -/
def State.regangs (s : State) (gid : Nat) : State :=
  match s.gang? gid with
  | none => s
  | some g =>
    if g.whole || g.regangPcs = [] || g.regangPcs.any (·.isNone) then s
    else (s.modGang gid Gang.regang).newFence gid none 2 0 false

/-- The live slices of the agent that runs a handler. -/
def Gang.handlerSlices (g : Gang) (ts : TrapState) : List Nat := g.liveSlices.filter (bitAt ts.members)

/-- Whether a slice waits at a TRET, and its SKIP. -/
def Gang.tretOf (g : Gang) (i : Nat) : Option Bool :=
  (g.slice? i).bind (fun x => match x.hold with
    | .tret k => some k
    | _ => none)

/-- A handler's TRETs complete together when every live slice of its agent waits at one (R330); SKIP bits that differ
raise ILLEGAL_OP, cause 12, in each. -/
def State.trets (s : State) (gid : Nat) : State :=
  match s.gang? gid with
  | none => s
  | some g =>
    match g.trapState with
    | none => s
    | some ts =>
      let words := match (s.block? g.block).bind (fun b => s.code b.part ts.trap.pc) with
        | some w => if w.getLsbD 28 then 2 else 1
        | none => 1
      match (g.handlerSlices ts).map g.tretOf with
      | [] => s
      | some k :: t =>
        if t.any (·.isNone) then s
        else if t.all (· == some k) then
          if k && ts.wordless then badTrets s g ts
          else (s.modGang gid (fun g => g.leaveHandler ts (if k then some words else none) s.pkg.clock)).settleSlices gid
        else badTrets s g ts
      | none :: _ => s
where
  /-- Each slice that waits raises ILLEGAL_OP, cause 12, which escalates; the other copy of a twin does too where its slices stand at
  the same TRETs (R349). -/
  badTrets (s : State) (g : Gang) (ts : TrapState) : State :=
    let l := g.handlerSlices ts
    let same := fun (o : Gang) => l.all (fun i => (o.slice? i).map (·.point) == (g.slice? i).map (·.point))
    l.foldl (fun s i => match g.slice? i with
      | some x => s.trapAtNext ⟨g.id, some i⟩ ⟨0x02, x.point.pc, x.active &&& g.live, 0, 12⟩ same
      | none => s) s

/-- What follows when lanes of a gang are gone: slices without an active lane go on (R33), the exit effect of the
last live lane becomes due (R242), arrivals and REGANGs that now are complete (R31, R241), the end of the gang (R46). -/
def State.afterLoss (s : State) (gid : Nat) : State :=
  match s.gang? gid with
  | none => s
  | some g =>
    let free := fun (x : Slice) => if x.active = 0 then { x with hold := .none, replay := none } else x
    let due := g.kind == .plain && decide (g.live = 0)
    let s1 := (s.dropParks gid).modGang gid (fun g => { g with slices := g.slices.map free, exitDue := g.exitDue || due })
    ((((((s1.settleSlices gid).consumed s gid).regangs gid).settleReleases gid).trets gid)).endGang gid

/-- Lanes exit (R46, R235): they leave every mask, and a shading gang's pixels are their d0. -/
def State.exitLanes (s : State) (gid : Nat) (m : Mask) : State :=
  match s.gang? gid with
  | none => s
  | some g =>
    let m := m &&& g.live
    if m = 0 then s
    else
      let s1 := s.modGang gid (fun g => { (g.without m) with exited := g.exited ||| m })
      let s2 := match g.kind with
        | .shading v px _ =>
          s1.modView v (fun w => { w with pixels := w.pixels ++ pixelsOf px m (fun l => (g.readR s.pkg.clock s.choice 32 .d 0 l).toNat) })
        | _ => s1
      s2.afterLoss gid

/-- Lanes of a gang die, in both copies of a twin (R345, R348): they leave every mask and both dead masks take
them; a shading lane gives FBRAD (R291); each is reported. A store signature not yet compared is formed anew without them (R349). -/
def State.killLanes (s : State) (gid : Nat) (m : Mask) : State :=
  match s.gang? gid with
  | none => s
  | some g =>
    let m := m &&& g.live
    if m = 0 then s
    else
      let twins := s.gangs.filter (twinOf gid g)
      let s1 := twins.foldl (fun s h => s.modGang h.id (fun h =>
        { (h.without m) with dead := h.dead ||| m, newDead := h.newDead ||| m, twin := h.twin.filter (·.ok) })) s
      let s2 := match g.kind with
        | .shading v px _ => s1.modView v (fun w => w.shadeLost px m)
        | _ => s1
      let s3 := (lanesOf m).foldl (fun s l => s.emit (.laneLost gid l)) s2
      twins.foldl (fun s h => s.afterLoss h.id) s3

/-- A value is delivered into one lane of a gang and of its shadow (R85, R348). -/
def State.deliver (s : State) (gid tag w : Nat) (f : RFile) (r lane : Nat) (v : Reg) : State :=
  match s.gang? gid with
  | none => s
  | some g =>
    let ids := (s.gangs.filter (twinOf gid g)).map (·.id)
    let s := if s.errs.poison = [] then s else s.clearPoison (fun e => ids.any (fun i => match f with
      | .d => e == .dreg i r lane
      | .q => e == .q i r
      | .p => e == .pred i r lane
      | .c => e == .c i r
      | .amax => e == .amax i lane))
    { s with gangs := mapWhere (twinOf gid g) (fun h => h.deliverR s.pkg.clock s.choice w tag f r lane v) s.gangs
             choice := s.choice + 1 }

/-- The slices of a shadow have issued all that those of its gang have (R348). -/
def Gang.caughtUp (h g : Gang) : Bool :=
  g.liveSlices.all (fun i => match g.slice? i, h.slice? i with
    | some x, some y => decide (x.issues ≤ y.issues)
    | _, _ => true)

/-- Both copies of a twin have issued the operation (R348); a save drops the shadow (R349). -/
def State.twinReady (s : State) (gid tag : Nat) : Bool :=
  s.gangs.all (fun h => h.kind != .shadow gid || h.life == .ended || h.tracked.any (fun t => t.op == tag) ||
    (s.gang? gid).all h.caughtUp || (s.block? h.block).any (fun b => b.stop.saving))

end Sys2Proof.Machine
end

