-- ==== Sys2Proof/Machine/Issue.lean ====
section
/-!
DEFINITION. Machine/Issue.lean: how an instruction issues: what it sees, the checks before it acts in the order
of R79, and what every issue does (04 R78 to R86, 18 R320, R370, 20 R345, R346, R348 to R350).
-/

namespace Sys2Proof.Machine

/-! ### What an instruction sees -/

/-- An instruction at its issue: its agent, gang, block and launch, its fields and entry, the active lanes of the
agent, those to which a re-issue limits it (R330), and its executing lanes (R70, R107). -/
structure Ctx where
  g : Gang
  aid : AgentId
  lead : Slice
  blk : Block
  hdr : LaunchHdr
  f : Fields
  e : Entry
  cls : Nat
  op : Nat
  act : Mask
  lim : Mask
  exec : Mask
  now : Nat
  choice : Nat
deriving Repr

def Ctx.pc (c : Ctx) : Nat := c.lead.point.pc
/-- The instruction has issued before and has held the issue since (R73): it is looked at again, not issued again. -/
def Ctx.resumed (c : Ctx) : Bool := c.lead.hold.issued
/-- Words of the instruction: one, or two with its extension word. -/
def Ctx.words (c : Ctx) : Nat := if c.f.x then 2 else 1
/-- The tag of this issue in the agent, the same in both copies of a twin (R348). -/
def Ctx.tag (c : Ctx) : Nat := 16 * c.lead.issues + (match c.aid.slice with
  | some i => i
  | none => 8)
/-- The lanes of the agent (R29). -/
def Ctx.own (c : Ctx) : Mask :=
  (c.g.members c.aid.slice).foldl (fun m i => m ||| sliceLanes i) 0 &&& c.g.lanes

/-- The width in bits of register elements; a .q element is two registers. -/
def Ctx.w (c : Ctx) : Nat := min 64 (widthOf c.f)

/-- A register as the instruction reads it whole (R80, R83). -/
def Ctx.rd (c : Ctx) (r : RFile) (i lane : Nat) : Reg := c.g.readR c.now c.choice 64 r i lane

/-- An operand position (R367). -/
inductive Pos where
  | d | a | b | c
deriving DecidableEq, Repr

/-- The width of the elements that an instruction reads of an operand, which a short read keeps whole (R83): W where the instruction
computes in elements of width W, and otherwise that of what the operand is: an address, a count or a format block is a
register of 64 bits, a control word or a scale is w0, a conversion's or an ACWR's source has the elements of its type (R116, R121, R124 to
R126, R129, R136, R156, R181). -/
def Ctx.readW (c : Ctx) (pos : Pos) : Nat :=
  match c.cls, c.op, pos with
  | 0, 0x40, .a | 0, 0x41, .a | 0, 0x42, .a => ((tyOf (srcOf c.f)).map (·.width)).getD 64
  | 0, 0x1E, .b | 0, 0x1F, .c | 0, 0x41, .b | 0, 0x42, .b | 0, 0x53, .c | 0, 0x60, .b => 32
  | 0, 0x46, .a => c.w / 2
  | 0, 0x51, .d | 1, 0x21, .d => if bitAt (fnOf c.f) 3 then 16 else c.w
  | 0, 0x53, _ => 8
  | 0, _, _ => c.w
  | 1, 0x22, .c | 1, 0x30, _ => 64
  | 1, _, _ => c.w
  | 2, 0x02, .b | 2, 0x04, .b | 2, 0x04, .c | 2, 0x05, .b => c.w
  | 3, 0x06, .a => rowWidth (modF c.f 3 0)
  | _, _, _ => 64

/-- A register of an operand field in one lane. -/
def Ctx.opd (c : Ctx) (pos : Pos) (o : Opd) (bit : Bool) (i lane : Nat) : Reg :=
  match fileOf o bit with
  | some r => c.g.readR c.now c.choice (c.readW pos) r i lane
  | none => 0
def Ctx.A (c : Ctx) (lane : Nat) : Reg := c.opd .a c.e.a c.f.aq c.f.a.toNat lane
def Ctx.B (c : Ctx) (lane : Nat) : Reg := c.opd .b c.e.b c.f.bq c.f.b.toNat lane
def Ctx.B1 (c : Ctx) (lane : Nat) : Reg := c.opd .b c.e.b c.f.bq (c.f.b.toNat + 1) lane
def Ctx.C (c : Ctx) (lane : Nat) : Reg := if c.f.x then c.opd .c c.e.c c.f.cq c.f.c.toNat lane else 0
def Ctx.D (c : Ctx) (lane : Nat) : Reg := c.opd .d c.e.d false c.f.d.toNat lane

/-- The lowest executing lane (R225). -/
def Ctx.low (c : Ctx) : Nat := lowLane c.exec
/-- The agent has an executing lane. -/
def Ctx.any (c : Ctx) : Bool := decide (c.exec ≠ 0)

/-- The lanes in which a guard holds (R70). -/
def guardMask (g : Gang) (now choice : Nat) (f : Fields) : Mask :=
  if f.g = 7 then g.lanes
  else maskWhere (fun l => (g.readR now choice 64 .p f.g.toNat l != 0) != f.gn)

/-- The legality window of a gang's agent (R39). -/
def windowOfAgent (h : LaunchHdr) (sl : Option Nat) : Window := ⟨h.nregs, h.tiles, h.nslices, sl.isSome⟩

/-- The context of an agent's instruction. -/
def State.ctx? (s : State) (aid : AgentId) (cls op : Nat) (f : Fields) : Option Ctx :=
  match s.gang? aid.gang with
  | none => none
  | some g =>
    match g.lead aid.slice, s.block? g.block with
    | some x, some b =>
      match s.hdrOf b with
      | none => none
      | some h =>
        let act := g.activeOf aid.slice
        let lim := match x.replay with
          | some m => act &&& m
          | none => act
        some { g := g, aid := aid, lead := x, blk := b, hdr := h, f := f
               e := (entryOf cls op f (windowOfAgent h aid.slice)).getD {}
               cls := cls, op := op, act := act, lim := lim
               exec := lim &&& guardMask g s.pkg.clock s.choice f
               now := s.pkg.clock, choice := s.choice }
    | _, _ => none

/-! ### What an instruction does -/

/-- The outcome of an issue: done, done with its slices sent on, done with all that follows an issue but the cycle's
end, a trap with its replay mask (R320), a hold at the instruction, or nothing left to issue. -/
inductive Res where
  | done (s : State)
  | jump (s : State)
  | own (s : State)
  | trap (s : State) (t : Trap) (replay : Mask)
  | hold (s : State) (h : Hold)
  | gone (s : State)
deriving Repr

/-- An instruction's own part of its issue. -/
structure Body where
  /-- An operand limit found in register values: ILLEGAL_OP, cause 12 (R78). -/
  late : Ctx → State → Bool := fun _ _ => false
  /-- Code words that decide its ILLEGAL_TARGET: it is held until they are there (R67, R79). -/
  needs : Ctx → List Nat := fun _ => []
  /-- ILLEGAL_TARGET, which comes before STALL_SHORT (R79). -/
  target : Ctx → State → Option Trap := fun _ _ => none
  /-- Registers of a dynamic kind that it reads: a shading gang's d0 (R291). -/
  more : Ctx → List (RFile × Nat) := fun _ => []
  /-- It writes state outside the gang's registers (R349). -/
  outward : Bool := false
  /-- Its effect is the primary's; a shadow counts its token only (R348). -/
  ghost : Bool := false
  /-- What is free to happen once a shadow has issued it too (R348). -/
  met : Ctx → State → State := fun _ s => s
  /-- Its result comes from outside the gang (R348). -/
  outside : Bool := false
  /-- The signature returns to its initial value (R247). -/
  rst : Ctx → Bool := fun _ => false
  /-- NOP: no field of it is read or wrong (R74). -/
  nop : Bool := false
  /-- The ILLEGAL_OP cause of an opcode that names no instruction (R74, R78). -/
  unassigned : Option Nat := none
  run : Ctx → State → Res

/-- A trap of the instruction (R320). -/
def Ctx.mkTrap (c : Ctx) (code : Nat) (lanes : Mask) (addr aux : Nat) : Trap := ⟨code, c.pc, lanes, addr, aux⟩
/-- A trap with the agent's active lanes, and nothing done. -/
def Ctx.raise (c : Ctx) (s : State) (code aux : Nat) : Res := .trap s (c.mkTrap code c.act 0 aux) c.lim
/-- A trap that concerns some lanes, and nothing done. -/
def Ctx.raiseAt (c : Ctx) (s : State) (code : Nat) (lanes : Mask) (addr aux : Nat) : Res :=
  .trap s (c.mkTrap code lanes addr aux) c.lim

/-! ### The scoreboard (R84, R85) -/

/-- The shortfall and recorded latency of a register for an agent (R84). -/
def Ctx.short (c : Ctx) (r : RFile) (i : Nat) : Nat × Nat :=
  let own := match c.lead.budget r i with
    | some b => (b.left, b.lat)
    | none => (0, 0)
  match c.aid.slice with
  | none => own
  | some sl =>
    match c.g.shared.find? (fun h => h.file == r && h.idx == i && h.slice.any (· != sl) && decide (c.now < h.lands)) with
    | some h => (h.lands - c.now, h.lat)
    | none => own

/-- A conversion's .am update and a budget that an .am update left: the two never depend (R123). -/
def Ctx.amOnly (c : Ctx) (r : RFile) (lat : Nat) : Bool :=
  r == .amax && c.cls == 0 && decide (0x40 ≤ c.op) && decide (c.op ≤ 0x42) && lat == 4

/-- TRAPAUX of STALL_SHORT (R84). -/
def shortAux (r : RFile) (i left lat : Nat) : Nat := i + 2 ^ 8 * r.code + 2 ^ 16 * left + 2 ^ 24 * lat
/-- TRAPAUX of HAZARD (R85). -/
def hazardAux (r : RFile) (i token : Nat) : Nat := i + 2 ^ 8 * r.code + 2 ^ 16 * token

/-- The first register that falls short (R84). -/
def Ctx.stallShort (c : Ctx) (l : List (RFile × Nat)) : Option Nat :=
  (l.filterMap (fun p => let x := c.short p.1 p.2
    if x.1 = 0 ∨ c.amOnly p.1 x.2 then none else some (shortAux p.1 p.2 x.1 x.2))).head?

/-- The first register that is outstanding (R85), what the instruction itself awaits when a park replays it apart. A d or p
register that is outstanding only in lanes of other slices is not, for a slice of a parted gang (log 78). -/
def Ctx.hazard (c : Ctx) (l : List (RFile × Nat)) : Option Nat :=
  (l.filterMap (fun p => (c.g.outst.find? (fun o => o.file == p.1 && o.idx == p.2 && o.op != c.tag &&
      (p.1 == .q || p.1 == .c || c.aid.slice.isNone || decide (o.lanes &&& c.own ≠ 0)))).map (fun o => hazardAux p.1 p.2 o.token))).head?

/-- STALL_SHORT, then HAZARD, in checking mode (R79, R84, R85). -/
def Ctx.score (c : Ctx) (more : List (RFile × Nat)) : Option (Nat × Nat) :=
  if !c.hdr.check then none
  else
    let l := c.e.touches c.f ++ more
    match c.stallShort l with
    | some aux => some (0x08, aux)
    | none => (c.hazard l).map (fun aux => (0x09, aux))

/-! ### Poison in registers (R345, R346) -/

def poisonLane (s : State) (gid : Nat) (r : RFile) (i lane : Nat) : Bool :=
  match r with
  | .d => s.poisoned (.dreg gid i lane)
  | .p => s.poisoned (.pred gid i lane)
  | .amax => s.poisoned (.amax gid lane)
  | _ => false

/-- A conversion's .am update: it reads AMAX as far as poison goes (R123, R345). -/
def Ctx.amReads (c : Ctx) : List (RFile × Nat) :=
  if c.cls == 0 && decide (0x40 ≤ c.op) && decide (c.op ≤ 0x42) && immOf c.f then [(.amax, 0)] else []

/-- The lanes of which an instruction reads the lowest one's registers alone, group by group (R27, R118, R131, R144, R225, R227);
none where it reads those of every executing lane. -/
def Ctx.lowGroups (c : Ctx) : Option (List Mask) :=
  let quarters := (List.range 4).map (fun q => c.exec &&& quarterLanes q)
  match c.cls, c.op with
  | 0, 0x62 | 1, _ | 2, 0x08 | 2, 0x10 | 2, 0x11 | 2, 0x22 | 2, 0x23 | 3, 0x10 | 4, 0x01
  | 5, 0x10 | 5, 0x11 | 5, 0x12 | 5, 0x13 | 5, 0x14 => some [c.exec]
  | 3, 0x03 | 3, 0x04 => some (if modBit c.f 13 then [c.exec] else quarters)
  | 3, 0x01 | 3, 0x07 => some quarters
  | 5, 0x02 | 5, 0x05 => some ((c.g.members c.aid.slice).map (fun i => (c.g.slice? i).elim 0 (fun x => x.active &&& c.g.live)))
  | _, _ => none

/-- The lanes of a group that consume poison when its lowest lane that lives is read (R345): each that is poisoned, up to the
first that is not. -/
def lowestBad (m : Mask) (bad : Nat → Bool) : Mask := maskOf ((lanesOf m).takeWhile bad)

/-- The lanes that consume poison: by the guard, or by a source in a lane of which it is read (R345). -/
def Ctx.dying (c : Ctx) (s : State) (more : List (RFile × Nat)) : Mask :=
  let byGuard := if c.f.g = 7 then 0 else maskWhere (fun l => hasLane c.act l && poisonLane s c.g.id .p c.f.g.toNat l)
  let src := c.e.sources c.f ++ c.amReads ++ more
  let bad := fun (l : Nat) => src.any (fun p => poisonLane s c.g.id p.1 p.2 l)
  byGuard ||| (match c.lowGroups with
    | none => maskWhere (fun l => hasLane c.exec l && bad l)
    | some ms => ms.foldl (fun m g => m ||| lowestBad (g &&& ~~~byGuard) bad) 0)

/-- The token counters that the instruction reads: that of its token, and those that a KWAIT names (R346). -/
def Ctx.readsK (c : Ctx) : List Nat :=
  (if c.e.tok ≠ .no ∧ tokOf c.f < 6 then [tokOf c.f] else []) ++
  (if c.cls == 5 && c.op == 0x0B then (List.range 6).filter (bitAt (modF c.f 5 0)) else [])

/-- The instruction reads the gang's trap state: a TRET, or a read of a trap register (R42, R330, R346). -/
def Ctx.readsTrap (c : Ctx) : Bool :=
  (c.cls == 6 && c.op == 0x05) ||
  (((c.cls == 6 && c.op == 0x03) || (c.cls == 1 && c.op == 0x31)) && decide (0x28 ≤ modF c.f 7 0) && decide (modF c.f 7 0 ≤ 0x2C))

/-- A slice of the agent has consumed a poisoned stack entry, or does so by this instruction, a RET (R346; log 87). -/
def Ctx.readsStack (c : Ctx) (s : State) : Bool :=
  (c.g.members c.aid.slice).any (fun i => s.poisoned (.stack c.g.id i 3 0) ||
    (c.cls == 5 && c.op == 0x06 && (c.g.slice? i).any (fun x => decide (x.active &&& c.exec ≠ 0) &&
      x.calls != [] && s.poisoned (.stack c.g.id i 2 (x.calls.length - 1)))))

/-- SOFT's TRAPAUX for a token counter that the instruction reads (R346). -/
def Ctx.softK (c : Ctx) (s : State) : Option Nat :=
  if s.errs.poison = [] then none
  else (c.readsK.find? (fun j => s.poisoned (.k c.g.id j))).map (fun j => 2 + 256 * j)

/-- SOFT's TRAPAUX, when the instruction consumes poison of per-gang state (R346). -/
def Ctx.soft (c : Ctx) (s : State) : Option Nat :=
  if s.errs.poison = [] then none
  else
    let src := c.e.sources c.f
    let q := (src.filterMap (fun p => match p.1 with
      | .q => if s.poisoned (.q c.g.id p.2) then some (1 + 256 * p.2) else none
      | .c => if s.poisoned (.c c.g.id p.2) then some (3 + 256 * p.2) else none
      | _ => none)).head?
    match q with
    | some a => some a
    | none =>
      match c.softK s with
      | some a => some a
      | none =>
      if c.readsStack s then some 4
      else if c.readsTrap && s.poisoned (.trapState c.g.id) then some 5
      else if c.hdr.check && s.poisoned (.scoreboard c.g.id) then some 6
      else none

/-- The agent's marks of consumed stack entries are told by one SOFT. -/
def Ctx.toldStacks (c : Ctx) (s : State) : State :=
  if s.errs.poison = [] then s
  else s.clearPoison (fun e => (c.g.members c.aid.slice).any (fun i => e == .stack c.g.id i 3 0))

/-- Grains that a whole write of a register clears (R344); MNORM's q register takes the poison of what it read, and an .am update
writes AMAX from itself. -/
def Ctx.cleans (c : Ctx) (e : ErrSite) : Bool :=
  let ws := if c.e.tok == .no && !(c.cls == 3 && c.op == 0x13) then (c.e.written c.f).filter (fun p => !c.amReads.contains p) else []
  match e with
  | .dreg g r l => g == c.g.id && ws.contains (.d, r) && hasLane c.exec l
  | .pred g r l => g == c.g.id && ws.contains (.p, r) && hasLane c.exec l
  | .amax g l => g == c.g.id && ws.contains (.amax, 0) && hasLane c.exec l
  | .q g r => g == c.g.id && ws.contains (.q, r) && c.any
  | .c g r => g == c.g.id && ws.contains (.c, r) && c.any
  | _ => false

/-! ### The order of an issue (R79) -/

/-- The deferred trap as it is taken at a word: its lanes still live, or, for FABRIC_LOST, those concerned; the lowest one's
address (R169, R286, R357, R370). -/
def PendTrap.at_ (t : PendTrap) (pc : Nat) (act live : Mask) : Trap :=
  let lanes := match t.lanes with
    | none => act
    | some m => if t.code = 0x19 then m else m &&& live
  let addr := (lanesOf lanes ++ [32]).findSome? (fun l => (t.addrs.find? (fun (p : Nat × Nat) => p.1 == l)).map (fun (p : Nat × Nat) => p.2))
  ⟨t.code, pc, lanes, addr.getD 0, t.aux⟩

/-- A deferred trap that the agent's next instruction raises (R370); one of a slice that has no live lane left is discarded. -/
def Ctx.deferred (c : Ctx) : Option PendTrap :=
  c.g.pendTraps.find? (fun t => match t.slice with
    | none => true
    | some i => t.slice == c.aid.slice || (c.aid.slice.isNone && c.g.sliceLive i))

/-- A park record of the agent that has been resolved or declined: its instruction is being replayed (R333). -/
def State.parkOf (s : State) (aid : AgentId) : Option Park :=
  s.fl.parks.find? (fun p => p.gang == aid.gang && (p.slice.isNone || p.slice == aid.slice) && p.ready)

/-- Everything before the instruction's own traps: ILLEGAL_OP, ILLEGAL_TARGET, STALL_SHORT, HAZARD (R79). -/
def Ctx.early (c : Ctx) (b : Body) (s : State) : Option Res :=
  let trap := fun (t : Trap) => Res.trap s t c.lim
  if b.nop then none
  else match b.unassigned with
  | some cause => some (trap (c.mkTrap 0x02 c.act 0 cause))
  | none =>
    match illegalCause (windowOfAgent c.hdr c.aid.slice) c.e c.f (b.late c s) with
    | some aux => some (trap (c.mkTrap 0x02 c.act 0 aux))
    | none =>
      match (b.needs c).find? (s.codeHeld c.blk.part) with
      | some a => some (.hold s (.code a))
      | none =>
        match b.target c s with
        | some t => some (trap t)
        | none => (c.score (b.more c)).map (fun p => trap (c.mkTrap p.1 c.act 0 p.2))

/-- The counter that the instruction names is full (R41). -/
def Ctx.tokenFull (c : Ctx) : Bool := c.e.tok != .no && decide (tokOf c.f < 6) && decide (63 ≤ c.g.getK (tokOf c.f))

/-- The instruction's own effect, once its token counter has room (R41). -/
def Ctx.runs (c : Ctx) (b : Body) (s : State) : Res :=
  if c.tokenFull && (s.parkOf c.aid).isNone then .hold s (.token (tokOf c.f)) else b.run c s

/-- The instruction has issued before and is replayed for the lanes that it has left: no next instruction of its agent (R333,
R370). One that parked with nothing done issues anew (R145). -/
def State.replays (s : State) (aid : AgentId) : Bool := (s.parkOf aid).any (fun p => p.op.isSome)

/-- The gang is in the handler of another agent (R324). -/
def Ctx.barred (c : Ctx) : Bool :=
  match c.g.trapState with
  | some ts => !ts.has c.aid.slice
  | none => false

/-- The result that an accepted MNORM holds for is the engine's or known: its operands are captured and its checks made (R172,
R175). -/
def State.accepted (s : State) (h : Hold) : Bool :=
  match h with
  | .mxResult id => (s.job? id).isSome
  | _ => false

/-- An accepted MNORM whose agent traps instead is computed again when it issues again. -/
def State.dropAccepted (s : State) (h : Hold) : State :=
  match h with
  | .mxResult id => s.dropJob id
  | _ => s

/-- The instruction's own checks (R79), which are made once: a replay for the lanes that are left passes through translation and
parking alone (R182). -/
def Ctx.checks (c : Ctx) (b : Body) (s : State) : Option Res :=
  if c.resumed || s.replays c.aid || s.accepted c.lead.hold then none else c.early b s

/-- What comes before the instruction acts: a deferred trap, which an instruction that has issued already no longer meets (R370),
then its own checks. -/
def Ctx.before (c : Ctx) (b : Body) (s : State) : Option Res :=
  match if c.resumed || s.replays c.aid then none else c.deferred with
  | some t =>
    some (.trap ((s.dropAccepted c.lead.hold).modGang c.g.id (fun g => { g with pendTraps := g.pendTraps.filter (· != t) }))
      (t.at_ c.pc c.act c.g.live) c.lim)
  | none => c.checks b s

/-- The lanes of an instruction that consume poison die at its issue, before it acts (R345): what it sees then; none when its
agent stands at it no longer. -/
def Ctx.survive (c : Ctx) (b : Body) (s : State) : State × Option Ctx :=
  let m := if s.errs.poison = [] || b.nop || c.resumed || s.accepted c.lead.hold then 0 else c.dying s (b.more c)
  if m = 0 then (s, some c)
  else
    let t := s.killLanes c.g.id m
    (t, (t.ctx? c.aid c.cls c.op c.f).filter (fun d => decide (d.act ≠ 0 ∧ d.lead.point = c.lead.point)))

/-- SOFT, the token's room, and the instruction's own effect. One that holds the issue looks again at counters only. -/
def Ctx.acts (c : Ctx) (b : Body) (s : State) : Res :=
  match if s.accepted c.lead.hold then none else if c.resumed then c.softK s else c.soft s with
  | some aux => c.raise (c.toldStacks s) 0x15 aux
  | none => c.runs b s

/-- The outcome of an issue, a trap of which would be taken. -/
def Ctx.outcome (c : Ctx) (b : Body) (s : State) : Res :=
  match c.before b s with
  | some r => r
  | none =>
    match c.survive b s with
    | (t, none) => .gone t
    | (t, some d) => d.acts b t

/-- While the gang is in another agent's handler, an instruction that raises a trap is held there and has changed nothing
(R324). -/
def Ctx.barring (c : Ctx) (s : State) (r : Res) : Res :=
  match r with
  | .trap t tr m => if c.barred then .hold s .handler else .trap t tr m
  | r => r

/-- The outcome of an issue as it is taken. -/
def Ctx.result (c : Ctx) (b : Body) (s : State) : Res := c.barring s (c.outcome b s)

/-! ### After an issue (R81, R84, R350) -/

/-- One cycle of an easel is over: one of its counters adds one (R252); after the last easel the cycle is. -/
def State.endTurn (s : State) (easel counter : Nat) : State :=
  let k := 16 * easel + counter
  let s1 := { s with counters := mapSet s.counters k (mapGet s.counters k + 1) }
  if s.turn + 1 < Config.easels then { s1 with turn := s.turn + 1 }
  else
    let t := s.pkg.nanoRem + 1000
    { s1 with turn := 0, pkg := { s.pkg with clock := s.pkg.clock + 1, nano := s.pkg.nano + t / s.pkg.mhz
                                             nanoRem := t % s.pkg.mhz } }

/-- What an issue does to a slice of its agent: it goes on after the word unless sent elsewhere, its budgets are
charged, and the next issue waits STALL+1 cycles from it (R67, R81, R84), from the beginning of the hold where the instruction has held
the issue. -/
def Ctx.issued (c : Ctx) (jumped : Bool) (x : Slice) : Slice :=
  let y := if c.e.lat = 0 then x else (c.e.written c.f).foldl (fun x p => x.produce p.1 p.2 c.e.lat) x
  let z := y.spend (c.f.stall.toNat + 1)
  { z with point := if !jumped && decide (x.point = c.lead.point) && decide (x.active ≠ 0) then x.point.skip c.words
                    else x.point
           earliest := if c.resumed then x.earliest else c.now + c.f.stall.toNat + 1
           issues := x.issues + 1, replay := none, readySince := if c.resumed then x.readySince else none }

/-- The fixed-latency writes of registers that the gang shares, as they stand in `g` after the instruction's effect (R83, R84). -/
def Ctx.shares (c : Ctx) (g : Gang) : List Shared :=
  if c.e.lat = 0 then []
  else ((c.e.written c.f).filter (fun p => p.1 == .q || p.1 == .c)).map (fun p =>
    ⟨p.1, p.2, c.aid.slice, c.now + c.e.lat, c.e.lat, if c.any then some (g.getR p.1 p.2 0) else none⟩)

/-- The words of an instruction that the whole gang issues, folded (R350). -/
def Ctx.ownFold (c : Ctx) (sig : Word) : Word :=
  if c.g.whole then foldWord (foldWord sig (packWord (BitVec.ofNat 7 c.op) c.f)) (c.act ||| c.g.dead) else sig

/-- RET and EXIT fold their own words themselves, before those of the switches that they bring about (R33, R350). -/
def Ctx.foldsFirst (c : Ctx) : Bool := c.cls == 5 && (c.op == 0x06 || c.op == 0x08)

/-- The signature after an issue (R247, R350). -/
def Ctx.signature (c : Ctx) (rst : Bool) (sig : Word) : Word :=
  if c.foldsFirst then sig
  else if rst && c.g.whole then 0xFFFFFFFF
  else c.ownFold sig

/-- CEDE of the clause whose last word issues (R66). An instruction that holds the issue has issued when its hold begins. -/
def Ctx.cedes (c : Ctx) (s : State) : Bool :=
  c.pc + 4 * c.words == c.lead.point.stop &&
  (match s.headerAt c.blk.part c.lead.point.head with
   | some h => h.cede
   | none => false)

/-- The trap of an agent's end-of-body checks (R233): LOOP_SHAPE, cause 6, at the header that follows. -/
def Gang.endTrap (g : Gang) (sl : Option Nat) : Option Trap :=
  match g.endClauses sl, g.lead sl with
  | none, some x => some ⟨0x07, x.point.stop, g.badEnds sl, 0, 6⟩
  | _, _ => none

/-- The end-of-body checks of the agent's slices (R233). A trap of a twin waits until its shadow has come as far (R349). -/
def State.endBodies (s : State) (aid : AgentId) : State :=
  match s.gang? aid.gang with
  | none => s
  | some g =>
    match g.endClauses aid.slice with
    | some h => s.modGang g.id (fun _ => h.repart)
    | none => match g.endTrap aid.slice with
      | some t => if s.agentLevel g aid.slice then s.trapAtNext aid t (fun o => o.endTrap aid.slice == some t) else s
      | none => s

/-- The agent's gang as an issue leaves it for the end checks (R81, R84, R248, R350). -/
def Ctx.leaves (c : Ctx) (s : State) (rst jumped : Bool) (g : Gang) : Gang :=
  { (c.g.members c.aid.slice).foldl (fun h i => h.modSlice i (c.issued jumped)) g with
    signature := c.signature rst g.signature
    shared := g.shared.filter (fun x => decide (c.now < x.lands)) ++ c.shares g
    olds := g.olds.filter (fun o => decide (c.now < o.lands))
    lastIssue := if c.resumed then g.lastIssue else c.now
    readySince := if c.resumed then g.readySince else none
    cede := g.cede || (!c.resumed && c.cedes s) }

/-- What every issue does after its effect. One that has held the issue has taken its cycle when its hold began (R252). -/
def State.finish (s : State) (c : Ctx) (rst jumped : Bool) : State :=
  let s1 := (if s.errs.poison = [] then s else s.clearPoison c.cleans).modGang c.g.id (c.leaves s rst jumped)
  let s2 := { s1 with choice := s1.choice + 1 }.endBodies c.aid
  if c.resumed then s2 else s2.endTurn c.g.easel 0

/-! ### Twins (R348, R349) -/

def AgentId.key (a : AgentId) : Nat := a.slice.getD 8

/-- The store signature that a copy forms (R349). -/
def Ctx.twinSig (c : Ctx) : TwinSig :=
  { slice := c.aid.key, pc := c.pc, word := packWord (BitVec.ofNat 7 c.op) c.f, ext := packExt c.f, mask := c.exec
    data := (lanesOf c.exec).flatMap (fun l => [(l, 0, (c.A l).toNat), (l, 1, (c.B l).toNat), (l, 2, (c.C l).toNat),
      (l, 3, if c.e.bSpan = 2 then (c.B1 l).toNat else 0), (l, 4, if c.e.dWrite then 0 else (c.D l).toNat)])
    sig := c.g.signature, ok := false }

/-- The agent forms its store signature and is held (R349). -/
def State.formSig (s : State) (c : Ctx) : State :=
  s.modGang c.g.id (fun g => { g with twin := g.twin.filter (fun t => t.slice != c.aid.key) ++ [c.twinSig] })

/-- The deferred traps of a gang. -/
def State.pendsOf (s : State) (gid : Nat) : List PendTrap :=
  match s.gang? gid with
  | some g => g.pendTraps
  | none => []

/-- A shadow keeps the deferred traps that its gang still has. -/
def State.untrap (s : State) (gid : Nat) (l : List PendTrap) : State := s.modGang gid (fun g => { g with pendTraps := l })

/-- A shadow's own part of an operation that its gang performs: the token it counts (R41, R348), with the time that the gang expects
(R249). -/
def Gang.ghostToken (g : Gang) (c : Ctx) (o : Tracked) : Gang :=
  if c.e.tok = .no ∨ 6 ≤ tokOf c.f ∨ !c.any then g
  else
    let t := tokOf c.f
    let h := (c.e.written c.f).foldl (Gang.await · c.now t o.op c.exec) g
    { (h.incK t) with tracked := h.tracked ++ [⟨o.op, t, o.due⟩] }

/-- The result that the primary has received from outside, given to the shadow (R348). -/
def Gang.twinCopy (g p : Gang) (c : Ctx) : Gang :=
  (c.e.written c.f).foldl (fun g r => (lanesOf (if r.1 == .q || r.1 == .c then 1 else c.exec)).foldl
    (fun g l => g.writeR c.now c.choice c.e.lat c.w r.1 r.2 l (p.getR r.1 r.2 l)) g) g

/-- An agent held at an instruction. Where the instruction issues so, this is its issue: the easel's cycle, a new period of readiness,
its STALL time and a CEDE of its clause (R66, R73, R81, R248, R252). -/
def State.held (c : Ctx) (t : State) (h : Hold) : State :=
  let issues := h.issued && !c.resumed
  let next := c.now + (if issues then c.f.stall.toNat else 0) + 1
  let s1 := t.modGang c.g.id (fun g => { (g.modAgent c.aid.slice (fun x =>
    { x with hold := h, earliest := max x.earliest next, readySince := none })) with
      lastIssue := if issues then c.now else g.lastIssue
      readySince := if issues then none else g.readySince
      cede := g.cede || (issues && c.cedes t) })
  if issues then s1.endTurn c.g.easel 0 else s1

/-- A trap that the operands of an instruction decide alone, which both copies of a twin raise or neither (R349): the primary's
effect depends on the state around it, the shadow does not perform it. -/
def Res.operandTrap : Res → Option Trap
  | .trap _ t _ => if [0x03, 0x0A, 0x0B, 0x0E, 0x15].contains t.code then some t else none
  | _ => none

/-- A shadow's instruction after its checks: it follows its gang and changes nothing but itself; a trap of its own is a
mismatch. -/
def Ctx.shadowActs (c : Ctx) (b : Body) (s : State) (primary : Nat) (p : Gang) : State :=
  let differs := fun (t : Trap) =>
    (s.modGang primary (fun p => p.backTo c.aid.slice c.g)).twinMismatch (c.aid.of primary) c.aid t.pc t.lanes 0xFF
  let res := c.acts b s
  let follow := fun (f : Gang → Gang) => match res.operandTrap with
    | some t => differs t
    | none => (s.modGang c.g.id f).finish c (b.rst c) false
  if b.outside then follow (fun g => g.twinCopy p c)
  else if b.ghost then b.met c <| follow (fun g => (p.tracked.find? (fun t => t.op == c.tag)).elim g (g.ghostToken c))
  else
    let keep := fun (t : State) => { s with gangs := mapWhere (fun h => h.id == c.g.id)
                                              (fun h => (t.gang? h.id).getD h) s.gangs }
    match res with
    | .done t => (keep t).finish c (b.rst c) false
    | .jump t => (keep t).finish c (b.rst c) true
    | .own t => (keep t).endTurn c.g.easel 0
    | .trap _ t _ => differs t
    | .hold t h => (keep t).held c h
    | .gone t => t

/-- A shadow's issue: once its gang has issued the instruction, it makes its own checks, deferred traps apart, which its gang meets
first; lanes that consume poison in it die in both copies, for an operation that its gang waits to perform before the
signatures are compared (R345, R348, R349). -/
def Ctx.shadowIssue (c : Ctx) (b : Body) (s : State) (primary : Nat) : State :=
  match s.gang? primary with
  | none => s.held c .twin
  | some p =>
    let pn := match p.lead c.aid.slice with
      | some x => x.issues
      | none => c.lead.issues + 1
    if pn ≤ c.lead.issues ∧ p.life ≠ .ended then
      if !b.outward then s.held c .twin
      else if (c.checks b s).isSome || !p.twin.any (fun t => t.slice == c.aid.key) then (s.formSig c).held c .twin
      else match c.survive b s with
        | (t, none) => t
        | (t, some d) => (t.formSig d).held d .twin
    else
      let s1 := s.modGang c.g.id (fun g => { g with twin := g.twin.filter (fun t => t.slice != c.aid.key) })
      match c.checks b s1 with
      | some (.trap _ t _) =>
        (s1.modGang primary (fun p => p.backTo c.aid.slice c.g)).twinMismatch (c.aid.of primary) c.aid t.pc t.lanes 0xFF
      | some (.hold _ h) => s1.held c h
      | some _ => s1.held c .twin
      | none =>
        match c.survive b s1 with
        | (t, none) => t
        | (t, some d) => d.shadowActs b t primary p

/-- What an issue leaves, given its outcome, where the gang has no shadow. -/
def Ctx.conclude (c : Ctx) (b : Body) (res : Res) : State :=
  match res with
  | .done t => t.finish c (b.rst c) false
  | .jump t => t.finish c (b.rst c) true
  | .own t => t.endTurn c.g.easel 0
  | .trap t tr r => t.takeTrap c.aid tr r
  | .hold t h => t.held c h
  | .gone t => t

/-- The same where it has one: what goes outside waits until the shadow has formed the same signature, and a trap is raised when
the shadow raises it too (R349). -/
def Ctx.twinIssue (c : Ctx) (b : Body) (s : State) (sh : Gang) (res : Res) : State :=
  let apart := (sh.lead c.aid.slice).any (fun (x : Slice) => decide (x.issues = c.lead.issues) && x.point != c.lead.point)
  let behind := (sh.lead c.aid.slice).any (fun (x : Slice) => decide (x.issues < c.lead.issues) || (apart && x.hold != Hold.twin))
  let said := c.g.twin.any (fun t => t.slice == c.aid.key && t.pc == c.pc && t.ok)
  let use := fun (t : State) => t.modGang c.g.id (fun g => { g with twin := g.twin.filter (fun t => t.slice != c.aid.key) })
  let wait := (s.formSig c).held c .twin
  match res with
  | .trap t tr r =>
    if behind then s.held c .twin
    else if apart then s.twinMismatch c.aid (c.aid.of sh.id) c.pc tr.lanes 0xFF
    else if (s.parkOf c.aid).isSome then (t.takeTrap c.aid tr r).takeTrap (c.aid.of sh.id) tr r
    else
      let other := c.aid.of sh.id
      match (s.ctx? other c.cls c.op c.f).map (fun (d : Ctx) => d.outcome b s) with
      | some (.trap _ tr2 r2) =>
        if tr2.code = tr.code then ((t.untrap sh.id (t.pendsOf c.g.id)).takeTrap c.aid tr r).takeTrap other tr2 r2
        else s.twinMismatch c.aid other c.pc tr.lanes 0xFF
      | _ => s.twinMismatch c.aid other c.pc tr.lanes 0xFF
  | .done t => if b.outward && !said then wait else c.conclude b (.done (use t))
  | .jump t => if b.outward && !said then wait else c.conclude b (.jump (use t))
  | .own t => c.conclude b (.own (use t))
  | .hold t h => if b.outward && !said && h != .handler then wait else t.held c h
  | .gone t => t

/-- The issue of an instruction by the agent whose turn it is (R79, R80, R320, R348). -/
def Ctx.issue (c : Ctx) (b : Body) (s : State) : State :=
  match c.g.kind with
  | .shadow p => c.shadowIssue b s p
  | _ =>
    match s.shadowOf c.g.id with
    | none => c.conclude b (c.result b s)
    | some sh =>
      match c.before b s with
      | some r => c.twinIssue b s sh (c.barring s r)
      | none =>
        match c.survive b s with
        | (t, none) => t
        | (t, some d) => d.twinIssue b t ((t.shadowOf d.g.id).getD sh) (d.barring t (d.acts b t))

/-- An instruction of class `cls` and opcode `op` executed by the agent that holds the issue. -/
def issueOp (cls op : Nat) (f : Fields) (b : Body) (s : State) : StepOut :=
  match s.issuing with
  | none => .fault .noIssuingAgent
  | some aid =>
    let s0 := { s with issuing := none }
    match s0.ctx? aid cls op f with
    | none => .fault .noIssuingAgent
    | some c =>
      .next ((c.issue b (s0.modGang aid.gang (fun g => g.modAgent aid.slice (fun x => { x with hold := .none })))).consumed s0 aid.gang)

end Sys2Proof.Machine
end

