-- ==== Sys2Proof/Machine/Vec.lean ====
section
/-!
DEFINITION. Machine/Vec.lean: the VEC instructions that compute per lane (06 R107 to R127) and NOP (04 R74).
-/

namespace Sys2Proof.Machine

/-! ### Operands and results -/

/-- The form of the element layout (R107). -/
def Ctx.form (c : Ctx) : Form := ⟨!immOf c.f && oneOf c.f, kOf c.f⟩

/-- The second source: register or integer immediate (R75). -/
def Ctx.Bi (c : Ctx) (lane : Nat) : Reg := if immOf c.f then immInt c.w (imm16 c.f) else c.B lane

/-- The second source: register or float immediate (R75). -/
def Ctx.Bf (c : Ctx) (lane : Nat) : Reg := if immOf c.f then immFlt c.w (imm16 c.f) else c.B lane

/-- FN bit `i`. -/
def Ctx.fnBit (c : Ctx) (i : Nat) : Bool := bitAt (fnOf c.f) i

/-- A fixed-latency result written in every executing lane (R80, R107). -/
def Ctx.put (c : Ctx) (s : State) (r : RFile) (i : Nat) (v : Nat → Reg) : State :=
  s.modGang c.g.id (fun g => (lanesOf c.exec).foldl (fun g l => g.writeR c.now c.choice c.e.lat c.w r i l (v l)) g)

/-- A fixed-latency result of the agent in a q or c register (R80, R135). -/
def Ctx.putQ (c : Ctx) (s : State) (r : RFile) (i : Nat) (v : Reg) : State :=
  if c.any then s.modGang c.g.id (fun g => g.writeShared c.aid.slice c.now c.choice c.e.lat c.w r i v) else s

/-- A truth value as a predicate's value. -/
def boolReg (b : Bool) : Reg := if b then 1 else 0

/-- An instruction whose only effect is D in every executing lane. -/
def vecD (v : Ctx → Nat → Reg) : Body :=
  { run := fun (c : Ctx) (s : State) => .done (c.put s .d c.f.d.toNat (v c)) }

/-- An instruction whose only effect is a predicate in every executing lane. -/
def vecP (v : Ctx → Nat → Bool) : Body :=
  { run := fun (c : Ctx) (s : State) => .done (c.put s .p c.f.d.toNat (fun l => boolReg (v c l))) }

/-- An elementwise result over the old destination (R107). -/
def Ctx.each (c : Ctx) (lane : Nat) (f : Nat → Nat) : Reg := c.form.apply c.w (c.D lane) f

/-- An integer instruction of R110. -/
def intBody (op : IntOp) : Body :=
  vecD (fun (c : Ctx) l => c.each l (fun k =>
    intOp op c.w (c.fnBit 0) c.f.sat (elem c.w k (c.A l)) (elem c.w k (c.Bi l)) (elem c.w k (c.C l))))

/-- A logic instruction (R114). -/
def logicBody (op : LogicOp) : Body :=
  vecD (fun (c : Ctx) l => c.each l (fun k => elem c.w k (logic op (c.A l) (c.Bi l))))

/-- A shift (R115). -/
def shiftBody (op : ShiftOp) : Body :=
  vecD (fun (c : Ctx) l => c.each l (fun k => shift op c.w (elem c.w k (c.A l)) (elem c.w k (c.Bi l))))

/-- A bit count (R115). -/
def bitBody (op : BitOp) : Body :=
  vecD (fun (c : Ctx) l => c.each l (fun k => bitCount op c.w (elem c.w k (c.A l))))

/-- A float instruction (R117). -/
def fltBody (op : FltOp) : Body :=
  vecD (fun (c : Ctx) l => c.each l (fun k =>
    fltOp op c.w (rmodeOf c.f.rm) (elem c.w k (c.A l)) (elem c.w k (c.Bf l)) (elem c.w k (c.C l))))

/-! ### Integer arithmetic (R110 to R113) -/

def execIadd (f : Fields) (s : State) : StepOut := issueOp 0 0x01 f (intBody .add) s
def execIsub (f : Fields) (s : State) : StepOut := issueOp 0 0x02 f (intBody .sub) s
def execImul (f : Fields) (s : State) : StepOut := issueOp 0 0x03 f (intBody .mul) s
def execImulh (f : Fields) (s : State) : StepOut := issueOp 0 0x04 f (intBody .mulh) s
def execImad (f : Fields) (s : State) : StepOut := issueOp 0 0x05 f (intBody .mad) s
def execImin (f : Fields) (s : State) : StepOut := issueOp 0 0x07 f (intBody .min) s
def execImax (f : Fields) (s : State) : StepOut := issueOp 0 0x08 f (intBody .max) s
def execIabs (f : Fields) (s : State) : StepOut := issueOp 0 0x09 f (intBody .abs) s
def execIneg (f : Fields) (s : State) : StepOut := issueOp 0 0x0A f (intBody .neg) s

/-- IADDC's sum and carry in a lane (R111). -/
def Ctx.addc (c : Ctx) (lane : Nat) : Reg × Bool :=
  Machine.addc c.form c.w (c.D lane) (c.A lane) (c.B lane) (c.C lane != 0)

/-- IADDC adds with a carry through a predicate (R111). -/
def execIaddc (f : Fields) (s : State) : StepOut :=
  issueOp 0 0x06 f
    { run := fun (c : Ctx) s =>
        .done (c.put (c.put s .d f.d.toNat (fun l => (c.addc l).1)) .p f.c.toNat (fun l => boolReg (c.addc l).2)) } s

/-- IDOT4 (R112). -/
def execIdot4 (f : Fields) (s : State) : StepOut :=
  issueOp 0 0x0B f (vecD (fun (c : Ctx) l => c.each l (fun k =>
    dot4 (c.fnBit 0) (c.fnBit 1) f.sat (c.A l) (c.B l) (c.C l) k))) s

/-- ICMP (R113). -/
def execIcmp (f : Fields) (s : State) : StepOut :=
  issueOp 0 0x0C f (vecP (fun (c : Ctx) l =>
    icmp (fnOf f % 8) c.w (c.fnBit 3) (elem c.w c.form.key (c.A l)) (elem c.w c.form.key (c.Bi l)))) s

/-! ### Logic, shifts and bit fields (R114 to R116) -/

def execAnd (f : Fields) (s : State) : StepOut := issueOp 0 0x10 f (logicBody .and) s
def execOr (f : Fields) (s : State) : StepOut := issueOp 0 0x11 f (logicBody .or) s
def execXor (f : Fields) (s : State) : StepOut := issueOp 0 0x12 f (logicBody .xor) s
def execAndn (f : Fields) (s : State) : StepOut := issueOp 0 0x13 f (logicBody .andn) s
def execNot (f : Fields) (s : State) : StepOut := issueOp 0 0x14 f (logicBody .not) s

/-- BITF applies its table at every bit (R114). -/
def execBitf (f : Fields) (s : State) : StepOut :=
  issueOp 0 0x15 f (vecD (fun (c : Ctx) l => bitf (modF f 7 0) (c.A l) (c.B l) (c.C l))) s

def execShl (f : Fields) (s : State) : StepOut := issueOp 0 0x16 f (shiftBody .shl) s
def execShr (f : Fields) (s : State) : StepOut := issueOp 0 0x17 f (shiftBody .shr) s
def execSar (f : Fields) (s : State) : StepOut := issueOp 0 0x18 f (shiftBody .sar) s
def execRol (f : Fields) (s : State) : StepOut := issueOp 0 0x19 f (shiftBody .rol) s
def execClz (f : Fields) (s : State) : StepOut := issueOp 0 0x1A f (bitBody .clz) s
def execFfs (f : Fields) (s : State) : StepOut := issueOp 0 0x1B f (bitBody .ffs) s
def execPopc (f : Fields) (s : State) : StepOut := issueOp 0 0x1C f (bitBody .popc) s
def execBrev (f : Fields) (s : State) : StepOut := issueOp 0 0x1D f (bitBody .brev) s

/-- BFX: the control word is B.w0 or imm16 (R116). -/
def execBfx (f : Fields) (s : State) : StepOut :=
  issueOp 0 0x1E f (vecD (fun (c : Ctx) l => c.each l (fun k =>
    bfx c.w (c.fnBit 0) (elem c.w k (c.A l)) (if immOf f then imm16 f else elem 32 0 (c.B l))))) s

/-- BFI: the control word is C.w0 (R116). -/
def execBfi (f : Fields) (s : State) : StepOut :=
  issueOp 0 0x1F f (vecD (fun (c : Ctx) l => c.each l (fun k =>
    bfi c.w (elem c.w k (c.A l)) (elem c.w k (c.B l)) (elem 32 0 (c.C l))))) s

/-! ### Float arithmetic (R117 to R119) -/

def execFadd (f : Fields) (s : State) : StepOut := issueOp 0 0x20 f (fltBody .add) s
def execFsub (f : Fields) (s : State) : StepOut := issueOp 0 0x21 f (fltBody .sub) s
def execFmul (f : Fields) (s : State) : StepOut := issueOp 0 0x22 f (fltBody .mul) s
def execFfma (f : Fields) (s : State) : StepOut := issueOp 0 0x23 f (fltBody .fma) s
def execFmin (f : Fields) (s : State) : StepOut := issueOp 0 0x24 f (fltBody .min) s
def execFmax (f : Fields) (s : State) : StepOut := issueOp 0 0x25 f (fltBody .max) s
def execFrnd (f : Fields) (s : State) : StepOut := issueOp 0 0x27 f (fltBody .rnd) s

/-- FCMP (R118). -/
def execFcmp (f : Fields) (s : State) : StepOut :=
  issueOp 0 0x26 f (vecP (fun (c : Ctx) l =>
    fcmp (fnOf f % 8) c.w (c.fnBit 3) (elem c.w c.form.key (c.A l)) (elem c.w c.form.key (c.B l)))) s

/-- FCLASS (R119). -/
def execFclass (f : Fields) (s : State) : StepOut :=
  issueOp 0 0x28 f (vecD (fun (c : Ctx) l => c.each l (fun k => fclass c.w (elem c.w k (c.A l))))) s

/-- FSCALE takes an integer second source (R117). -/
def execFscale (f : Fields) (s : State) : StepOut :=
  issueOp 0 0x29 f (vecD (fun (c : Ctx) l => c.each l (fun k =>
    fltOp .scale c.w (rmodeOf f.rm) (elem c.w k (c.A l)) (elem c.w k (c.Bi l)) 0))) s

/-! ### Special functions (R120) -/

/-- A token-tracked operation is counted at its issue; its registers are outstanding in the executing lanes
(R41, R85). `due` is its issue cycle plus its nominal latency (R249). -/
def Gang.track (g : Gang) (c : Ctx) (token latency : Nat) (regs : List (RFile × Nat)) (lanes : Mask) : Gang :=
  let h := regs.foldl (Gang.await · c.now token c.tag lanes) g
  { (h.incK token) with tracked := h.tracked ++ [⟨c.tag, token, c.now + latency⟩] }

/-- A special function: its results are computed at issue and delivered later (R120). -/
def specialBody (op : SpecOp) : Body :=
  { ghost := true
    run := fun (c : Ctx) s =>
      if !c.any then .done s
      else
        let v := fun l => packW c.w (fun k =>
          specOp op c.w (rmodeOf c.f.rm) (elem c.w k (c.A l)) (elem c.w k (c.B l)))
        let n := s.newId
        let o : SpecialOp :=
          { id := n.1, gang := c.g.id, slice := c.aid.slice, token := tokOf c.f, dest := c.f.d.toNat
            vals := (lanesOf c.exec).map (fun l => (l, v l)), at_ := c.tag }
        let s1 := n.2.modGang c.g.id (fun g => g.track c (tokOf c.f) 24 [(.d, c.f.d.toNat)] c.exec)
        .done { s1 with fl := { s1.fl with specials := s1.fl.specials ++ [o] } } }

def execFrcp (f : Fields) (s : State) : StepOut := issueOp 0 0x30 f (specialBody .rcp) s
def execFrsq (f : Fields) (s : State) : StepOut := issueOp 0 0x31 f (specialBody .rsq) s
def execFsqrt (f : Fields) (s : State) : StepOut := issueOp 0 0x32 f (specialBody .sqrt) s
def execFdiv (f : Fields) (s : State) : StepOut := issueOp 0 0x33 f (specialBody .div) s
def execFexp2 (f : Fields) (s : State) : StepOut := issueOp 0 0x34 f (specialBody .exp2) s
def execFlog2 (f : Fields) (s : State) : StepOut := issueOp 0 0x35 f (specialBody .log2) s
def execFsinp (f : Fields) (s : State) : StepOut := issueOp 0 0x36 f (specialBody .sinp) s
def execFcosp (f : Fields) (s : State) : StepOut := issueOp 0 0x37 f (specialBody .cosp) s
def execFtanh (f : Fields) (s : State) : StepOut := issueOp 0 0x38 f (specialBody .tanh) s

/-! ### Conversions and AMAX (R121 to R124) -/

/-- AMAX as an instruction reads it (R80, R83); its .am updates keep their value before under index 1. -/
def Gang.readAmax (g : Gang) (now choice lane : Nat) : Reg :=
  mixOlds choice 32 (mixKey .amax 1 false) lane (g.oldsOf now .amax 1 lane) (g.readR now choice 32 .amax 0 lane)

/-- AMAX written by AMXRD.clr, AMXSET or SWRITE (R80, R83). -/
def Gang.writeAmax (g : Gang) (now choice lat lane : Nat) (v : Reg) : Gang :=
  let v' := match g.oldOf now .amax 1 lane with
    | none => v
    | some _ => mixElems 32 (Config.mixMask choice (mixKey .amax 1 true) lane) (g.getR .amax 0 lane) v
  g.writeR now choice lat 32 .amax 0 lane v'

/-- An .am update (R123): in issue order over earlier ones, whatever their spacing; over another writer's value
that has not landed, a free mixture. -/
def Gang.updateAmax (g : Gang) (now choice lat lane : Nat) (up : Nat → Nat) : Gang :=
  let cur := g.getR .amax 0 lane
  let v := BitVec.ofNat 64 (up (g.readR now choice 32 .amax 0 lane).toNat)
  let v' := match g.oldOf now .amax 0 lane with
    | none => v
    | some _ => mixElems 32 (Config.mixMask choice (mixKey .amax 0 true) lane) cur v
  ({ g with olds := g.oldsBut .amax 1 lane ++ (OldVal.mk .amax 1 lane cur (now + lat) (now + lat) :: g.unlanded now .amax 1 lane) }).setR
    .amax 0 lane v'

/-- A conversion: CVT without a scale, CVTQ and CVTD with B.w0 (R122). -/
def convBody (scaled : Bool) : Body :=
  { run := fun (c : Ctx) s =>
      match tyOf (srcOf c.f), tyOf (dstOf c.f) with
      | some src, some dst =>
        let r := fun l => cvtLane src dst (rmodeOf c.f.rm) c.f.sat (if scaled then some (elem 32 0 (c.B l)) else none) (c.A l)
        let s1 := c.put s .d c.f.d.toNat (fun l => (r l).1)
        let s2 := if modBit c.f 3 then c.put s1 .p (modF c.f 2 0) (fun l => boolReg (r l).2) else s1
        .done (if immOf c.f then s2.modGang c.g.id (fun g => (lanesOf c.exec).foldl
            (fun g l => g.updateAmax c.now c.choice c.e.lat l (amaxLane src dst (c.A l))) g) else s2)
      | _, _ => .done s }

def execCvt (f : Fields) (s : State) : StepOut := issueOp 0 0x40 f (convBody false) s
def execCvtq (f : Fields) (s : State) : StepOut := issueOp 0 0x41 f (convBody true) s
def execCvtd (f : Fields) (s : State) : StepOut := issueOp 0 0x42 f (convBody true) s

/-- AMXRD reads AMAX and may then clear it (R123). -/
def execAmxrd (f : Fields) (s : State) : StepOut :=
  issueOp 0 0x43 f
    { run := fun (c : Ctx) s =>
        let s1 := c.put s .d f.d.toNat (fun l => c.g.readAmax c.now c.choice l)
        .done (if modBit f 0 then s1.modGang c.g.id (fun g => (lanesOf c.exec).foldl
          (fun g l => g.writeAmax c.now c.choice c.e.lat l 0) g) else s1) } s

/-- AMXSET sets AMAX (R123). -/
def execAmxset (f : Fields) (s : State) : StepOut :=
  issueOp 0 0x44 f
    { run := fun (c : Ctx) s => .done (s.modGang c.g.id (fun g => (lanesOf c.exec).foldl
        (fun g l => g.writeAmax c.now c.choice c.e.lat l (BitVec.ofNat 64 (amxset (c.A l)))) g)) } s

def execPack (f : Fields) (s : State) : StepOut :=
  issueOp 0 0x45 f (vecD (fun (c : Ctx) l => packLane c.w (modBit f 0) f.sat (c.A l) (c.B l))) s

def execUnpk (f : Fields) (s : State) : StepOut :=
  issueOp 0 0x46 f (vecD (fun (c : Ctx) l => unpkLane c.w (modBit f 0) (modBit f 1) (c.A l))) s

/-! ### Moves and selection (R125 to R127) -/

def execMov (f : Fields) (s : State) : StepOut :=
  issueOp 0 0x50 f (vecD (fun (c : Ctx) l => c.each l (fun k => elem c.w k (c.A l)))) s

/-- The value that MOVI and UMOVI give over an old destination (R125). -/
def moviVal (w : Nat) (f : Fields) (old : Reg) : Reg :=
  if bitAt (fnOf f) 3 then setElem 16 (fnOf f % 4) old (imm16 f) else immInt w (imm16 f)

def execMovi (f : Fields) (s : State) : StepOut :=
  issueOp 0 0x51 f (vecD (fun (c : Ctx) l => moviVal c.w f (c.D l))) s

def execSel (f : Fields) (s : State) : StepOut :=
  issueOp 0 0x52 f (vecD (fun (c : Ctx) l => c.each l (fun k => elem c.w k (if c.C l != 0 then c.A l else c.B l)))) s

def execBpick (f : Fields) (s : State) : StepOut :=
  issueOp 0 0x53 f (vecD (fun (c : Ctx) l => bpick (c.A l) (c.B l) (c.C l))) s

/-- MOVU takes the lowest executing lane's value (R125). -/
def execMovu (f : Fields) (s : State) : StepOut :=
  issueOp 0 0x54 f
    { run := fun (c : Ctx) s => .done (c.putQ s .q f.d.toNat (c.each 0 (fun k => elem c.w k (c.A c.low)))) } s

/-- The boolean functions of PMOV (R127). -/
def pmovOp (fn : Nat) (a b : Bool) : Bool :=
  match fn with
  | 0 => a && b
  | 1 => a || b
  | 2 => a != b
  | _ => a && !b

/-- PMOV by its FN (R127). -/
def execPmov (f : Fields) (s : State) : StepOut :=
  issueOp 0 0x55 f
    { run := fun (c : Ctx) s => .done (
        if fnOf f = 4 then
          c.put s .d f.d.toNat (fun l => packN 1 8 (fun i => if i = 7 then 1 else (c.rd .p i l).toNat))
        else if fnOf f = 5 then
          (List.range 7).foldl (fun s i => c.put s .p i (fun l => boolReg (bitAt (c.A l).toNat i))) s
        else c.put s .p f.d.toNat (fun l => boolReg (pmovOp (fnOf f) (c.A l != 0) (c.B l != 0)))) } s

/-! ### NOP and the opcodes of no instruction (R74) -/

/-- NOP has the issue timing of its STALL field and nothing else; no field of it is ever wrong (R74). -/
def execNop (cls : BitVec 3) (f : Fields) (s : State) : StepOut :=
  issueOp cls.toNat 0 f
    { nop := true, run := fun (_ : Ctx) s => .done s } s

/-- An opcode that no table lists raises ILLEGAL_OP at issue: cause 1, or 2 for 0x7F (R74, R78, R367). -/
def execUnassignedOpcode (cls : BitVec 3) (op : BitVec 7) (f : Fields) (s : State) : StepOut :=
  issueOp cls.toNat op.toNat f
    { unassigned := some (if op = 0x7F then 2 else 1), run := fun (_ : Ctx) s => .done s } s

end Sys2Proof.Machine
end

