-- ==== Sys2Proof/Machine/Mem.lean ====
section
/-!
DEFINITION. Machine/Mem.lean: the memory system: points of coherence, what a read sees, when an access may be
performed, and what performing it does (09 R176 to R193, 10 R205 to R218, 20 R344, R345).
-/

namespace Sys2Proof.Machine

/-! ### Homes (R11, R190) -/

/-- The wing whose L2 slice is the home of a line of this package (R190). -/
def homeWing (a : Nat) : Nat := a / 2 ^ 37 % 2048 * 4 + ((a / 256 % 4) ^^^ (a / 1024 % 4))

/-- A line is homed at a wing of this package. -/
def State.homedAt (s : State) (wing a : Nat) : Bool := a / 2 ^ 48 == s.pkg.pkgid && homeWing (a % 2 ^ 48) == wing

def overlaps (a n b m : Nat) : Bool := decide (a < b + m) && decide (b < a + n)

/-- Two places that share a byte, elements of `n` and `m` bytes. -/
def placesMeet (p : Place) (n : Nat) (q : Place) (m : Nat) : Bool :=
  match p, q with
  | .phys a _, .phys b _ => overlaps a n b m
  | .scratch a, .scratch b => overlaps a n b m
  | _, _ => false

/-! ### Older accesses -/

/-- The element of an operation still to be performed overlaps a place. -/
def MemOp.meets (o : MemOp) (p : Place) (n : Nat) : Bool := o.elts.any (fun e => placesMeet e.place o.bytes p n)

/-- The ordering code with which an access acts at a place: in the scratchpad no scope is wider than .b (R178, R205). -/
def Place.acts (p : Place) (ord : Nat) : Nat :=
  match p with
  | .scratch _ => min ord 2
  | _ => ord

/-- Strong accesses of one agent are kept in order at .b and .w (R212). -/
def keptStrong (a b : Nat) : Bool := decide (2 ≤ a) && decide (2 ≤ b) && decide (min a b ≤ 3)

/-- Two places in one 256-byte line of global memory. -/
def sameLine (p q : Place) : Bool :=
  match p, q with
  | .phys a _, .phys b _ => a / 256 == b / 256
  | _, _ => false

/-- Requests of one agent that go to the home of one line keep their order (R216). -/
def keptLine (p : Place) (a : Nat) (q : Place) (b : Nat) : Bool := decide (4 ≤ a) && decide (4 ≤ b) && sameLine p q

/-- An access of ordering code `b` at `q` follows an earlier strong one of its agent still to be performed. -/
def MemOp.keeps (o : MemOp) (q : Place) (b : Nat) : Bool :=
  o.elts.any (fun e => keptStrong (e.place.acts o.ord) (q.acts b) || keptLine e.place o.ord q b)

/-! ### What a read sees (R207, R208) -/

/-- Byte `a` of a value of `n` bytes at `b`. -/
def byteIn (b n v a : Nat) : Option (BitVec 8) :=
  if b ≤ a ∧ a < b + n then some (BitVec.ofNat 8 (v / 2 ^ (8 * (a - b)))) else none

/-- A place's key id, of a global address. -/
def Place.keyed (p : Place) (key : Nat) : Bool :=
  match p with
  | .phys _ k => k == key
  | _ => true

/-- The newest of a list's answers. -/
def newest {α : Type} (f : α → Option (BitVec 8)) (l : List α) : Option (BitVec 8) :=
  l.foldl (fun acc x => (f x).orElse (fun _ => acc)) none

/-- The partition of a block. -/
def State.partOf (s : State) (blk : Nat) : Nat := ((s.block? blk).map (·.part)).getD 0

/-- A byte that an earlier store of the gang holds in its combiner. -/
def State.combinerByte (s : State) (gid id : Nat) (p : Nat → Place → Nat → Nat → Option (BitVec 8)) (a : Nat) :
    Option (BitVec 8) :=
  newest (fun (o : MemOp) => newest (fun (e : Elt) => p a e.place o.bytes e.data) o.elts)
    ((s.older gid id).filter MemOp.isStore)

def physByte (a : Nat) (p : Place) (n v : Nat) : Option (BitVec 8) :=
  match p with
  | .phys b _ => byteIn b n v a
  | _ => none
def bankByte (a : Nat) (p : Place) (n v : Nat) : Option (BitVec 8) :=
  match p with
  | .scratch b => byteIn b n v a
  | _ => none

/-- A byte of a write at a block's port, or in a wing's L2 slice, under a key id. -/
def State.portByte (s : State) (blk key a : Nat) : Option (BitVec 8) :=
  newest (fun (w : Write) => byteIn w.addr w.bytes w.data a)
    (s.fl.writes.filter (fun w => !w.atWing && w.block == blk && w.key == key))
def State.wingByte (s : State) (wing key a : Nat) : Option (BitVec 8) :=
  newest (fun (w : Write) => byteIn w.addr w.bytes w.data a)
    (s.fl.writes.filter (fun w => w.atWing && w.wing == wing && w.key == key))

/-- A write under another key id to the line waits at the block's port or in the wing: it goes to its home before an access
of the line under this one (R310). -/
def State.keyWaits (s : State) (blk wing key a : Nat) : Bool :=
  s.fl.writes.any (fun w => (if w.atWing then w.wing == wing else w.block == blk) && w.key != key &&
    overlaps w.addr w.bytes (a / 256 * 256) 256)

/-- The copy of a line that a wing holds under a key. -/
def State.copyOf (s : State) (wing key a : Nat) : Option L2Copy :=
  s.mem.copies.find? (fun c => c.wing == wing && c.key == key && c.line == a / 256)

/-- A byte as the wing's slice gives it: a write on its way, a copy, or the home. -/
def State.sliceByte (s : State) (wing key a : Nat) : BitVec 8 :=
  match s.wingByte wing key a with
  | some v => v
  | none => match s.copyOf wing key a with
    | some c => c.bytes.getD (a % 256) 0
    | none => s.mem.read key a

/-- A global byte as a gang's operation `id` reads it (R207, R210): the gang's own earlier stores, then the
cluster's port, then the wing. -/
def State.viewByte (s : State) (gid id blk wing key a : Nat) : BitVec 8 :=
  match s.combinerByte gid id physByte a with
  | some v => v
  | none => (s.portByte blk key a).getD (s.sliceByte wing key a)

/-- A scratchpad byte as a gang's operation reads it: the gang's own earlier stores, then the bank. -/
def State.bankView (s : State) (gid id blk o : Nat) : Nat :=
  match s.combinerByte gid id bankByte o with
  | some v => v.toNat
  | none => s.scratchByte blk o

/-- A value of `n` bytes at a place, as a gang's operation reads it. -/
def State.viewPlace (s : State) (gid id blk wing : Nat) (p : Place) (n : Nat) : Nat :=
  match p with
  | .phys a key => leGet (fun x => (s.viewByte gid id blk wing key x).toNat) a n
  | .scratch o => leGet (s.bankView gid id blk) o n
  | .stack _ => 0

/-- The 8-byte grains that `n` bytes at `a` touch. -/
def grains (a n : Nat) : List Nat := (List.range ((a + n + 7) / 8 - a / 8)).map (a / 8 + ·)

/-- The elements that earlier stores of the gang hold in its combiner, oldest first: the place and bytes of each, and its poison. -/
def State.inCombiner (s : State) (gid id : Nat) : List (Place × Nat × Bool) :=
  ((s.older gid id).filter MemOp.isStore).flatMap (fun o => o.elts.map (fun e => (e.place, o.bytes, o.row == some true)))

/-- What stays poisoned of poisoned bytes that are written: their grains, or the line whose tag an error has struck (R343). -/
def writeSites (wing a n : Nat) : List ErrSite :=
  if n = 256 ∧ a % 256 = 0 then [.l2tag wing (a / 256) true] else (grains a n).map (fun g => .l2 wing g false)

/-- The poisoned grains that `n` bytes at `a` meet as a wing's slice gives them: those of its copy of the line, or of the home. -/
def State.badAt (s : State) (wing key a n : Nat) : List ErrSite :=
  (match s.copyOf wing key a with
   | some c => c.bad
   | none => s.errs.poison).filter (touchesPhys a n)

/-- The data that an access reads in the wing's slice are poisoned (R344), where `seen` are the writes on their way that it sees and
`own` the bytes of its gang's earlier stores, oldest first. Each write or store, from the wing's on to the newest of its own, clears
the grains that it covers whole and leaves the others as they were; a poisoned one poisons its grains. -/
def State.readsBad (s : State) (seen : List Write) (own : List (Nat × Nat × Bool)) (wing key a n : Nat) : Bool :=
  let way := (seen.filter (·.atWing) ++ seen.filter (fun w => !w.atWing)).map (fun w => (w.addr, w.bytes, w.bad)) ++ own
  (way.foldl (fun l x => (if x.2.2 then writeSites wing x.1 x.2.1 else []) ++ l.filter (fun e => !coversPhys x.1 x.2.1 e))
    (s.badAt wing key a n)).any (touchesPhys a n)

/-- The place's data are poisoned as a gang's operation reads them. -/
def State.placeBad (s : State) (gid id blk wing : Nat) (p : Place) (n : Nat) : Bool :=
  let own := fun (at_ : Place → Option Nat) => (s.inCombiner gid id).filterMap (fun x => (at_ x.1).map (fun a => (a, x.2)))
  match p with
  | .phys a key => s.readsBad (s.fl.writes.filter (fun w => w.block == blk || (w.atWing && w.wing == wing)))
      (own (fun p => match p with
        | .phys a _ => some a
        | _ => none)) wing key a n
  | .scratch o =>
    let mine := own (fun p => match p with
      | .scratch a => some a
      | _ => none)
    s.errs.poison.any (fun e => (List.range n).any (fun i => scratchPoison blk (o + i) e) &&
      !mine.any (fun x => coversScratch blk x.1 x.2.1 e))
  | .stack _ => false

/-! ### Copies in the L2 slices (R207, R214) -/

def State.dropCopies (s : State) (p : L2Copy → Bool) : State :=
  { s with mem := { s.mem with copies := s.mem.copies.filter (fun c => !p c) } }

/-- The ways of an L2 slice in which a partition's lines allocate (R304, R312). -/
def State.waysOf (s : State) (part : Nat) : List Nat := (List.range Config.l2Ways).filter (bitAt ((s.part part).cfg % 2 ^ 16))

/-- The set of a slice in which a line stands; which lines share one is free (R8, R312; log 84). -/
def lineSet (wing line : Nat) : Nat := Config.l2Set wing line % Config.l2Sets

/-- The wing holds a fresh copy of a line, with its poison, in one of the partition's ways, whose line of that set it evicts (R312,
R344); without a way it holds none. -/
def State.installCopy (s : State) (wing part key a : Nat) : State :=
  let line := a / 256
  let s1 := s.dropCopies (fun c => c.wing == wing && c.line == line)
  match s.waysOf part with
  | [] => s1
  | w :: t =>
    let n := s1.choose (t.length + 1)
    let way := (w :: t).getD n.1 w
    let s2 := n.2.dropCopies (fun c => c.wing == wing && c.way == way && lineSet wing c.line == lineSet wing line)
    let bytes := (List.range 256).map (fun i => s.mem.read key (256 * line + i))
    let bad := s2.errs.poison.filter (touchesPhys (256 * line) 256)
    { s2 with mem := { s2.mem with copies := ⟨wing, way, line, key, bytes, bad⟩ :: s2.mem.copies } }

/-- What a read of a partition does to the wing's copy of its line (R207, R214, R310): one under another key id is dropped; a
strong read at .s or .d goes to the home; any other may find a copy, and the line may be brought in or sent out at any
time. -/
def State.touchLine (s : State) (wing part key a ord : Nat) : State :=
  if s.homedAt wing a then s
  else if 4 ≤ ord then s.dropCopies (fun c => c.wing == wing && c.line == a / 256)
  else
    let s1 := s.dropCopies (fun c => c.wing == wing && c.line == a / 256 && c.key != key)
    let r := s1.choose 3
    match r.1 with
    | 0 => r.2
    | 1 => r.2.dropCopies (fun c => c.wing == wing && c.line == a / 256)
    | _ => r.2.installCopy wing part key a

/-- The wing's copies of lines homed elsewhere are discarded (R214). -/
def State.discardCopies (s : State) (wing : Nat) : State := s.dropCopies (fun c => c.wing == wing)

/-- A write performed at its home through a wing (R207): the wing's copy of the line takes it too, and one under another key
id is dropped (R310). -/
def State.homeWrite (s : State) (wing key a n v : Nat) : State :=
  let s1 := (s.physWrite key a n v).dropCopies (fun c => c.wing == wing && c.key != key && overlaps a n (256 * c.line) 256)
  let bytes := fun (c : L2Copy) => (List.range 256).map (fun i => (byteIn a n v (256 * c.line + i)).getD (c.bytes.getD i 0))
  let upd := fun (c : L2Copy) => { c with bytes := bytes c, bad := c.bad.filter (fun e => !coversPhys a n e) }
  { s1 with mem := { s1.mem with copies := mapWhere (fun c => c.wing == wing && overlaps a n (256 * c.line) 256) upd
                                           s1.mem.copies } }

/-- Sites of a byte's line become poisoned at its home and in the wing's copy of the line (R344). -/
def State.poisonHome (s : State) (wing a : Nat) (l : List ErrSite) : State :=
  let mark := fun (c : L2Copy) => { c with bad := l.filter (fun e => !c.bad.contains e) ++ c.bad }
  let copies := mapWhere (fun (c : L2Copy) => c.wing == wing && c.line == a / 256) mark s.mem.copies
  l.foldl State.addPoison { s with mem := { s.mem with copies := copies } }

/-- A write of a whole grain through a wing clears its poison at home and in the wing's copy (R344). -/
def State.cleanHome (s : State) (wing a n : Nat) : State :=
  let clean := fun (c : L2Copy) => { c with bad := c.bad.filter (fun e => !coversPhys a n e) }
  { s with mem := { s.mem with copies := mapWhere (fun c => c.wing == wing) clean s.mem.copies } }.clearPoison (coversPhys a n)

/-! ### Stores on their way (R207, R208, R213) -/

/-- A write of the block waits at its port over the bytes. -/
def State.portMeets (s : State) (blk a n : Nat) : Bool :=
  s.fl.writes.any (fun w => !w.atWing && w.block == blk && overlaps w.addr w.bytes a n)
def State.wingMeets (s : State) (wing a n : Nat) : Bool :=
  s.fl.writes.any (fun w => w.atWing && w.wing == wing && overlaps w.addr w.bytes a n)

/-- The loads and returning atomics of an agent before `id` have returned (R191, acq). -/
def State.readsDone (s : State) (gid id : Nat) (sl : Option Nat) : Bool :=
  !(s.older gid id).any (fun o => o.open_ && o.returns && sameAgent gid sl o.gang o.slice)

/-- A read of operation `o` may take its value from an earlier store that is still in the combiner: a store of its own agent,
or, from another slice, one that is no wider than .g and whose agent's earlier reads have returned (R211, notes b, c and
e), under one key id (R310). -/
def State.forwards (s : State) (p o : MemOp) (e : Elt) : Bool :=
  o.isRead && p.isStore &&
  (sameAgent p.gang p.slice o.gang o.slice || (decide (p.ord ≤ 1) && s.readsDone p.gang p.id p.slice)) &&
  match e.place with
  | .phys _ k => p.elts.all (fun x => x.place.keyed k || !placesMeet x.place p.bytes e.place o.bytes)
  | _ => true

/-- A matrix operation of the agent, not yet done, that was issued before `id` and writes the bytes (R143, R208). -/
def State.engineMeets (s : State) (gid id : Nat) (sl : Option Nat) (a n : Nat) : Bool :=
  s.fl.jobs.any (fun j => sameAgent gid sl j.gang j.slice && decide (j.id < id) && j.writes.any (fun r => overlaps r.1 r.2 a n))

/-- An access of the gang that an element of operation `o` must follow: earlier accesses to its bytes (R211, note
a), reads of the agent not yet returned when it writes (note c), strong accesses kept before it (R212), requests to its line
(R216), and the matrix engine's writes of its bytes (R143). -/
def State.mustFollow (s : State) (o : MemOp) (e : Elt) : Bool :=
  (s.older o.gang o.id).any (fun p => p.open_ &&
    ((p.meets e.place o.bytes && !s.forwards p o e) ||
     (sameAgent p.gang p.slice o.gang o.slice &&
       ((!o.isRead && p.returns) || (p.keeps e.place o.ord && !(!p.returns && o.isRead)) ||
        p.elts.any (fun x => keptLine x.place p.ord e.place o.ord))))) ||
  (!o.isRead && s.engineMeets o.gang o.id o.slice e.addr o.bytes)

/-- An earlier element of the same store over the same bytes (R187). -/
def MemOp.behindLane (o : MemOp) (e : Elt) : Bool :=
  (o.elts.takeWhile (fun x => x ≠ e)).any (fun x => placesMeet x.place o.bytes e.place o.bytes)

/-- The last place in the scratchpad of an access is open until its cycles in the banks have passed (R180). -/
def State.banksDone (s : State) (o : MemOp) (e : Elt) : Bool :=
  o.elts.any (fun x => x.place ≠ e.place && x.place.inBank) || decide (o.banks ≤ 1) || decide (o.issued + o.banks ≤ s.pkg.clock)

/-- A request that the rehash does not hold: it was on its way before (R356). -/
def Rehash.sent (r : Rehash) (id a : Nat) : Bool := r.onWay.contains (id, a)

/-- A rehash runs that found the request on its way: it has passed its block's port and its wing, and no later write there holds it
(R356). -/
def State.wasSent (s : State) (id a : Nat) : Bool := s.pkg.rehash.any (fun r => r.sent id a)

/-- A store's element may leave the combiner: for the block's port, the wing or the home, by its scope, with
nothing of its bytes left in between. -/
def State.storeReady (s : State) (o : MemOp) (e : Elt) (blk wing : Nat) : Bool :=
  !s.mustFollow o e && !o.behindLane e &&
  match e.place with
  | .phys a key =>
    if o.ord ≤ 2 ∨ s.wasSent o.id a then true
    else !s.portMeets blk a o.bytes && !s.keyWaits blk wing key a && (o.ord == 3 || !s.wingMeets wing a o.bytes)
  | _ => s.banksDone o e

/-- A store's element leaves the combiner. -/
def State.storeOut (s : State) (o : MemOp) (e : Elt) (blk wing : Nat) : State :=
  let s1 := s.modOp o.id (fun o => { o with elts := o.elts.erase e })
  match e.place with
  | .phys a key =>
    if 4 ≤ o.ord ∨ (o.ord = 3 ∧ s.homedAt wing a) then s1.homeWrite wing key a o.bytes e.data
    else
      let w : Write := { id := o.id, lane := e.lane, gang := o.gang, slice := o.slice, vaddr := e.addr, block := blk, wing := wing
                         atWing := o.ord == 3, key := key, addr := a, bytes := o.bytes, data := e.data, bad := o.row == some true
                         mute := o.row.isSome }
      { s1 with fl := { s1.fl with writes := s1.fl.writes ++ [w] } }
  | .scratch off => s1.scratchWrite blk off o.bytes e.data
  | .stack _ => s1

/-- The writes that reached a point before `w`. -/
def State.before (s : State) (w : Write) : List Write := s.fl.writes.takeWhile (fun x => x ≠ w)

/-- A write on its way may go one point further: no earlier write at its point over its bytes, and when its next
point is the home, none in the wing. -/
def State.writeReady (s : State) (w : Write) : Bool :=
  !(s.before w).any (fun x => x.atWing == w.atWing && (if w.atWing then x.wing == w.wing else x.block == w.block) &&
      overlaps x.addr x.bytes w.addr w.bytes) &&
  (w.atWing || (!(s.fl.writes.any (fun x => x.atWing && x.wing == w.wing && x.key != w.key && x.addr / 256 == w.addr / 256)) &&
    (!s.homedAt w.wing w.addr || !s.wingMeets w.wing w.addr w.bytes)))

/-- A write on its way goes one point further (R207), and what is poisoned of it poisons its grains at home (R344). -/
def State.writeOut (s : State) (w : Write) : State :=
  let s1 := { s with fl := { s.fl with writes := s.fl.writes.erase w } }
  if w.atWing || s.homedAt w.wing w.addr then
    let s2 := s1.homeWrite w.wing w.key w.addr w.bytes w.data
    if w.bad then s2.poisonHome w.wing w.addr (writeSites w.wing w.addr w.bytes) else s2
  else { s1 with fl := { s1.fl with writes := s1.fl.writes ++ [{ w with atWing := true }] } }

/-- Writes on their way reach their home, in the order of their points: those in the wing first. -/
def State.drain (s : State) (p : Write → Bool) : State :=
  let go := fun (s : State) (w : Write) => (s.writeOut w)
  let s1 := (s.fl.writes.filter (fun w => w.atWing && p w)).foldl go s
  let s2 := (s1.fl.writes.filter (fun w => !w.atWing && p w)).foldl go s1
  (s2.fl.writes.filter (fun w => w.atWing && p w)).foldl go s2

/-! ### The fabric (R356, R357) -/

/-- The package of an address, when it is another than this one. -/
def State.otherPkg (s : State) (a : Nat) : Option Nat := if a / 2 ^ 48 = s.pkg.pkgid then none else some (a / 2 ^ 48)

/-- The map index of a local address (R354). -/
def planeHash (a : Nat) : Nat := (List.range 14).foldl (fun h j => h ^^^ a % 2 ^ 48 / 2 ^ (8 + 3 * j) % 8) 0

/-- The plane of map entry `i`. -/
def mapEntry (m i : Nat) : Nat := m / 8 ^ i % 8

/-- The plane on which a request travels. -/
def State.planeOf (s : State) (a : Nat) : Nat := mapEntry s.pkg.planeMap (planeHash a)

/-- A port that retrains holds its flits (R353). -/
def Package.retrains (p : Package) (plane : Nat) : Bool := p.links.any (fun x => x.link == .port plane && x.retraining)

/-- The remote requests on their way, of accesses and of writes in a wing, by operation and physical address. -/
def State.remotes (s : State) : List (Nat × Nat) :=
  (s.fl.ops.flatMap (fun o => o.elts.filterMap (fun e => match e.place with
    | .phys a _ => some (o.id, a)
    | _ => none)) ++ (s.fl.writes.filter (·.atWing)).map (fun w => (w.id, w.addr))).filter (fun p => (s.otherPkg p.2).isSome)

/-- A remote request, of operation `id`, is held: its port retrains, or a rehash runs and the request is new, was lost on a dead
plane, or is replayed after another that was issued before it (R353, R356; log 94). -/
def State.fabricHeld (s : State) (id a : Nat) : Bool :=
  (s.otherPkg a).isSome && (s.pkg.retrains (s.planeOf a) || (match s.pkg.rehash with
    | none => false
    | some r => !r.sent id a || (!r.installed && bitAt r.dead (s.planeOf a)) ||
        (r.installed && s.remotes.any (fun p => decide (p.1 < id) && r.sent p.1 p.2))))

/-- Every port of this package is down: it has left the domain (R356). -/
def Package.alone (p : Package) : Bool := (List.range 8).all (fun n => p.links.any (fun x => x.link == .port n && !x.up))

/-- A package that has left the domain, seen from here. -/
def State.goneTo (s : State) (pkg : Nat) : Bool := pkg != s.pkg.pkgid && (s.pkg.departed.contains pkg || s.pkg.alone)

/-- The address lies on a package that has left the domain (R357). -/
def State.gone (s : State) (a : Nat) : Bool := (s.otherPkg a).any s.goneTo

/-- A partition's engines may reach other packages, and wait for the rehash and for ports that retrain. -/
def State.fabricWaits (s : State) (part : Nat) : Bool :=
  (s.pkg.rehash.isSome || (List.range 8).any s.pkg.retrains) && s.mem.pages.any (fun p => p.part == part && (s.otherPkg p.spec.pbase).isSome)

/-- Two losses of one operation are one trap, of the lanes of both (R357). -/
def PendTrap.sameOp (a b : PendTrap) : Bool := a.code == b.code && a.op == b.op && a.slice == b.slice && a.aux == b.aux
def PendTrap.join (a b : PendTrap) : PendTrap :=
  { a with lanes := a.lanes.bind (fun x => b.lanes.map (fun y => x ||| y)), addrs := a.addrs ++ b.addrs }

/-- A loss is reported before the agent's next instruction (R357). -/
def Gang.addLoss (g : Gang) (t : PendTrap) : Gang :=
  { g with pendTraps := if g.pendTraps.any t.sameOp then mapWhere t.sameOp (fun x => x.join t) g.pendTraps else g.pendTraps ++ [t] }

/-- FABRIC_LOST of an operation (R357), in a gang and its twin. Without lanes of its own, as that of an access for the agent or of
an engine, it concerns the agent's active lanes (log 89). -/
def State.lost (s : State) (gid : Nat) (t : PendTrap) : State :=
  match s.gang? gid with
  | none => s
  | some g => { s with gangs := mapWhere (twinOf gid g) (fun h => h.addLoss t) s.gangs }

/-- FABRIC_LOST for some elements of an operation (R357). -/
def State.fabricLost (s : State) (gid id : Nat) (sl : Option Nat) (uni : Bool) (es : List Elt) (aux : Nat) : State :=
  s.lost gid ⟨sl, 0x19, if uni then none else some (maskOf (es.map (fun e => e.lane))),
    es.map (fun e => (if uni then 32 else e.lane, e.addr)), aux, id⟩

/-- FABRIC_LOST of an operation that an engine makes for an agent (R357; log 89). -/
def State.engLost (s : State) (gid id : Nat) (sl : Option Nat) (lanes : Option Mask) (a : Nat) : State :=
  s.lost gid ⟨sl, 0x19, lanes, [(32, a)], 8, id⟩

/-- Elements of an operation are lost: they are performed or not, freely, deliver nothing, and still count their token
off (R357). -/
def State.loseElts (s : State) (o : MemOp) (es : List Elt) (aux : Nat) (perform : State → Elt → State) : State :=
  let s1 := es.foldl (fun (s : State) e =>
    let n := s.choose 2
    if n.1 = 0 then n.2 else perform n.2 e) s
  ((s1.modOp o.id (fun o => { o with elts := o.elts.filter (fun e => !es.contains e) })).fabricLost o.gang o.id o.slice
    (o.file == .q && o.returns) es aux).opDone o.id

/-- Where an element lies in memory. -/
def Elt.phys? (e : Elt) : Option Nat :=
  match e.place with
  | .phys a _ => some a
  | _ => none

/-! ### The end of an operation -/

/-- A q register of a gang that receives poison is marked in both copies of a twin, and one that receives none loses its mark
(R344, R346, R348). -/
def State.markQ (s : State) (gid r : Nat) (bad : Bool) : State :=
  match s.gang? gid with
  | none => s
  | some g => ((s.gangs.filter (twinOf gid g)).map (·.id)).foldl (fun s i =>
      if bad then s.addPoison (.q i r) else s.clearPoison (· == .q i r)) s

/-- A poisoned delivery kills its lane; a poisoned q register is marked (R345, R346). -/
def State.poisonDelivery (s : State) (o : MemOp) (lane : Nat) : State :=
  if o.file = .q then s.markQ o.gang o.dest true else s.killLanes o.gang (laneBit lane)

/-- The value that a load of `n` bytes gives a register (R187). -/
def loadVal (sx : Bool) (n v : Nat) : Reg := if sx then BitVec.ofInt 64 (sInt (8 * n) v) else BitVec.ofNat 64 v

/-- A value reaches a lane's register of an operation: the poisoned kill, others are written (R184, R345). -/
def State.give (s : State) (o : MemOp) (e : Elt) (bad : Bool) (v : Reg) : State :=
  if bad then s.poisonDelivery o e.lane
  else s.deliver o.gang o.at_ (8 * o.bytes) o.file (o.dest + e.hi.toNat) e.lane v

/-! ### Loads (R184, R187, R210 to R213) -/

/-- A load's element may be read: nothing that it must follow is left, and a strong write by another slice to its
bytes has been performed (R213). -/
def State.loadReady (s : State) (o : MemOp) (e : Elt) (blk wing : Nat) : Bool :=
  !s.mustFollow o e && s.twinReady o.gang o.at_ &&
  match e.place with
  | .phys a key => s.wasSent o.id a || !s.keyWaits blk wing key a
  | .scratch _ => decide (o.returnsAt ≤ s.pkg.clock)
  | .stack _ => true

/-- Every element of the load at the address of `e` is read, and its lanes receive the value (R187, R218). -/
def State.loadIn (s : State) (o : MemOp) (e : Elt) (sx : Bool) (blk wing : Nat) : State :=
  let s1 := match e.place with
    | .phys a key => s.touchLine wing (s.partOf blk) key a o.ord
    | _ => s
  let v := s1.viewPlace o.gang o.id blk wing e.place o.bytes
  let bad := s1.placeBad o.gang o.id blk wing e.place o.bytes
  let mine := match e.place with
    | .stack _ => [e]
    | _ => o.elts.filter (fun x => x.place == e.place)
  let s2 := mine.foldl (fun s x => s.give o x (bad || (match x.place with
    | .stack _ => x.cmp == 1
    | _ => false)) (loadVal sx o.bytes (match x.place with
    | .stack _ => x.data
    | _ => v))) s1
  (s2.modOp o.id (fun o => { o with elts := o.elts.filter (fun x => !mine.contains x) })).opDone o.id

/-! ### Atomics (R189, R190) -/

/-- The new value of an element under an atomic operation (R189). -/
def atomVal (aop w m b c : Nat) : Nat :=
  match aop with
  | 0 => (m + b) % 2 ^ w
  | 1 => intOp .min w false false m b 0
  | 2 => intOp .max w false false m b 0
  | 3 => intOp .min w true false m b 0
  | 4 => intOp .max w true false m b 0
  | 5 => m &&& b
  | 6 => m ||| b
  | 7 => m ^^^ b
  | 8 => b
  | 9 => if m = c then b else m
  | 10 => fltOp .add w .rne m b 0
  | 11 => fltOp .min w .rne m b 0
  | _ => fltOp .max w .rne m b 0

/-- An atomic's element may be performed: what it must follow is performed, and no write of its bytes is on its
way through its own block or wing (R208). -/
def State.atomReady (s : State) (o : MemOp) (e : Elt) (blk wing : Nat) : Bool :=
  !s.mustFollow o e && s.twinReady o.gang o.at_ &&
  match e.place with
  | .phys a key => s.wasSent o.id a ||
      (!s.portMeets blk a o.bytes && !s.wingMeets wing a o.bytes && !s.keyWaits blk wing key a)
  | _ => s.banksDone o e

/-- One lane's read-modify-write, and its old value returned (R189); a poisoned element is left (R344). -/
def State.atomOne (s : State) (o : MemOp) (aop : Nat) (ret : Bool) (blk wing : Nat) (e : Elt) : State :=
  let n := o.bytes
  let old := match e.place with
    | .phys a key => s.mem.readN key a n
    | .scratch off => leGet (s.scratchByte blk) off n
    | .stack _ => 0
  let bad := match e.place with
    | .phys a _ => s.physBad a n
    | .scratch off => s.scratchBad blk off n
    | .stack _ => false
  let v := atomVal aop (8 * n) old e.data e.cmp
  let s1 := if bad then s
    else match e.place with
      | .phys a key => (s.dropCopies (fun c => c.wing == wing && c.line == a / 256)).homeWrite wing key a n v
      | .scratch off => s.scratchWrite blk off n v
      | .stack _ => s
  if ret then s1.give o e bad (BitVec.ofNat 64 old) else s1

/-- The lanes of an atomic that name one element are applied together, in ascending order (R190). -/
def State.atomAll (s : State) (o : MemOp) (e : Elt) (aop : Nat) (ret : Bool) (blk wing : Nat) : State :=
  let mine := o.elts.filter (fun x => x.place == e.place)
  let s1 := mine.foldl (fun s x => s.atomOne o aop ret blk wing x) s
  (s1.modOp o.id (fun o => { o with elts := o.elts.filter (fun x => !mine.contains x) })).opDone o.id

/-! ### Releases (R214, R220 to R222) -/

/-- The writes visible to a gang's agents are performed at a scope (R214). The writes of other agents at the
block's port and in the wing's slice are carried too, observed or not: log 30. -/
def State.writesDone (s : State) (blk wing scope : Nat) : Bool :=
  !s.fl.writes.any (fun w =>
    (decide (2 ≤ scope) && !w.atWing && w.block == blk) || (decide (3 ≤ scope) && w.atWing && w.wing == wing))

/-- A release at a scope is complete (R191, R214). -/
def State.released (s : State) (gid id : Nat) (sl : Option Nat) (blk wing scope : Nat) : Bool :=
  s.performed gid id sl scope && s.writesDone blk wing scope

/-- A fence of the agent is not complete (R191). -/
def State.fenced (s : State) (gid : Nat) (sl : Option Nat) : Bool :=
  s.fl.fences.any (fun f => sameAgent gid sl f.gang f.slice)

/-- An acquire at a scope: from .s on the wing's copies are discarded (R214). -/
def State.acquire (s : State) (wing scope : Nat) : State := if 3 ≤ scope then s.discardCopies wing else s

end Sys2Proof.Machine
end

