-- ==== Sys2Proof/Machine/MemInstr.lean ====
section
/-!
DEFINITION. Machine/MemInstr.lean: the MEM instructions and ULD (06 R137, 09 R181 to R203).
-/

namespace Sys2Proof.Machine

def Ctx.wing (c : Ctx) : Nat := wingOf c.blk.cluster

/-- A memory operation of an agent whose fence is not complete waits at issue (R191). -/
def Ctx.gated (c : Ctx) (s : State) (k : State → Res) : Res :=
  if s.fenced c.g.id c.aid.slice then .hold s .fence else k s

/-- The gang has made an effect that a restart would repeat (R331). -/
def Ctx.markSe (c : Ctx) (s : State) : State := if c.any then s.modGang c.g.id (fun g => { g with se := true }) else s

/-! ### Checks at issue (R176, R182) -/

/-- The ADDRESS cause of an access of `n` bytes (R176, R179); 0 when there is none. Every byte of a stack element must lie below STACKB
(log 101). -/
def addrCause (h : LaunchHdr) (noStack : Bool) (a n : Nat) : Nat :=
  match spaceOf a with
  | .nowhere => 1
  | .stack o => if noStack then 3 else if h.stackb < o + n then 2 else 0
  | _ => 0

/-- The bytes run past the scratchpad allocation (R178). -/
def scratchOver (h : LaunchHdr) (a n : Nat) : Bool :=
  match spaceOf a with
  | .scratch o => decide (h.scratch < o + n)
  | _ => false

/-- The first of ADDRESS, MISALIGNED and SCRATCH_BOUNDS that a lane meets (R182, step 1): code, lanes, the lowest
one's address, TRAPAUX. -/
def stepOne (h : LaunchHdr) (noStack : Bool) (align n : Nat) (l : List (Nat × Nat)) : Option (Nat × List Nat × Nat × Nat) :=
  let pick := fun (code : Nat) (bad : List (Nat × Nat)) (aux : Nat → Nat) => match bad with
    | [] => none
    | p :: _ => some (code, bad.map (·.1), p.2, aux p.2)
  match pick 0x0B (l.filter (fun p => addrCause h noStack p.2 n != 0)) (fun a => addrCause h noStack a n) with
  | some t => some t
  | none => match pick 0x0E (l.filter (fun p => p.2 % align != 0)) (fun _ => 0) with
    | some t => some t
    | none => pick 0x0A (l.filter (fun p => scratchOver h p.2 n)) (fun _ => 0)

/-- The trap of an address that an agent uses once: its active lanes are concerned. -/
def Ctx.agentCheck (c : Ctx) (s : State) (noStack : Bool) (align n a : Nat) : Option Res :=
  (stepOne c.hdr noStack align n [(0, a)]).map (fun t => c.raiseAt s t.1 c.act t.2.2.1 t.2.2.2)

/-! ### Per-lane accesses (R181 to R190) -/

/-- A per-lane access, or one of the agent as a whole (`agent`; ULD). -/
structure Access where
  kind : MemKind
  /-- Bytes of the element, up to 16. -/
  bytes : Nat
  ord : Nat
  /-- 0 read, 1 write, 2 atomic. -/
  perm : Nat
  agent : Bool
  file : RFile
  dest : Nat
  addr : Nat → Nat
  data : Nat → Nat
  cmp : Nat → Nat

/-- Where a lane's element lies (R176, R182, step 2). -/
inductive Loc where
  | at_ (p : Place)
  | fault
  | refused (aux : Nat)

def Ctx.locate (c : Ctx) (s : State) (x : Access) (lane : Nat) : Loc :=
  match spaceOf (x.addr lane) with
  | .scratch o => .at_ (.scratch o)
  | .stack o => .at_ (.stack o)
  | .nowhere => .refused 0
  | .global a => match s.translate c.blk.part a x.perm with
    | .ok p k => .at_ (.phys p k)
    | .fault => .fault
    | .refused aux => .refused aux

/-- The place `n` bytes on. -/
def Place.plus (p : Place) (n : Nat) : Place :=
  match p with
  | .phys a k => .phys (a + n) k
  | .scratch o => .scratch (o + n)
  | .stack o => .stack (o + n)

/-- The backing byte of a lane's stack offset (R179). -/
def stackByte (lane o : Nat) : Nat := (o / 8 * 32 + lane) * 8 + o % 8

def Gang.stackGet (g : Gang) (lane o n : Nat) : Nat := leGet (fun a => (mapGet g.stack (stackByte lane a)).toNat) o n
def Gang.stackSet (g : Gang) (lane o n v : Nat) : Gang :=
  { g with stack := (List.range n).foldl (fun m i =>
      mapSet m (stackByte lane (o + i)) (BitVec.ofNat 8 (v / 2 ^ (8 * i)))) g.stack }

/-- A lane's elements: a .q element is two of 8 bytes (R181). -/
def Access.elts (x : Access) (g : Gang) (bad : Nat → Nat → Bool) (lane : Nat) (p : Place) : List Elt :=
  let n := min 8 x.bytes
  let one := fun (hi : Bool) =>
    let q := if hi then p.plus 8 else p
    let v := if hi then x.data lane / 2 ^ 64 else x.data lane % 2 ^ 64
    let got := match x.kind, q with
      | .load _, .stack o => (g.stackGet lane o n, (bad lane o).toNat)
      | _, _ => (v, x.cmp lane)
    Elt.mk lane hi (x.addr lane + (if hi then 8 else 0)) q got.1 got.2
  if x.bytes = 16 then [one false, one true] else [one false]

/-- The lanes at good places: their elements, a stack store done at once (R179). -/
def Access.pending (x : Access) (g : Gang) (bad : Nat → Nat → Bool) (l : List (Nat × Place)) : List Elt :=
  l.flatMap (fun p => match x.kind, p.2 with
    | .store, .stack _ => []
    | _, _ => x.elts g bad p.1 p.2)

def Access.stackStores (x : Access) (g : Gang) (l : List (Nat × Place)) : Gang :=
  l.foldl (fun g p => match x.kind, p.2 with
    | .store, .stack o => g.stackSet p.1 o (x.bytes) (x.data p.1)
    | _, _ => g) g

/-- Stack stores clear the poison of the grains that they cover whole (R344). -/
def Access.cleanStack (x : Access) (s : State) (gid : Nat) (l : List (Nat × Place)) : State :=
  l.foldl (fun s p => match x.kind, p.2 with
    | .store, .stack o => s.cleanBacking gid p.1 o x.bytes
    | _, _ => s) s

/-- The registers that the access awaits (R85). -/
def Access.regs (x : Access) : List (RFile × Nat) :=
  match x.kind with
  | .store => []
  | .atomic _ false => []
  | _ => if x.bytes = 16 then [(x.file, x.dest), (x.file, x.dest + 1)] else [(x.file, x.dest)]

/-- Its nominal latency: the scratchpad figure when no lane is elsewhere (R249). -/
def Access.latency (x : Access) (lanes : List Nat) : Nat :=
  if lanes.all (fun l => match spaceOf (x.addr l) with
    | .scratch _ => true
    | _ => false) then 16 else 400

/-- The access's operation: a park's, or a new one whose token counts it (R41, R184). -/
def Ctx.opFor (c : Ctx) (s : State) (x : Access) (lanes : List Nat) (old : Option Park) : Nat × State :=
  match old.bind (·.op) with
  | some id => (id, s)
  | none =>
    let n := s.newId
    let tok := c.e.tok != .no && decide (tokOf c.f < 6)
    let o : MemOp :=
      { id := n.1, gang := c.g.id, slice := c.aid.slice, kind := x.kind, bytes := min 8 x.bytes, ord := x.ord
        token := tok, file := x.file, dest := x.dest, elts := [], parked := true, at_ := c.tag, issued := c.now, banks := 1 }
    let s1 := n.2.addOp o
    (n.1, if tok then s1.modGang c.g.id (fun g => g.track c (tokOf c.f) (x.latency lanes) x.regs
      (if x.agent then c.g.lanes else c.exec)) else s1)

/-- The access of a replay: its lanes have the addresses with which they parked (R182, R333). -/
def Access.again (x : Access) (old : Option Park) : Access :=
  match old with
  | none => x
  | some p => { x with addr := fun l => ((p.faults.find? (fun (t : Nat × Nat × Nat) => t.1 == l)).map (fun (t : Nat × Nat × Nat) => t.2.1)).getD (x.addr l) }

/-- A per-lane access from its checks to its park, its refusal or its end; a replay is past its checks (R182, R183). -/
def Ctx.access (c : Ctx) (y : Access) (s : State) : Res :=
  let lanes := if y.agent then (if c.any then [0] else []) else lanesOf c.exec
  let mask := fun (l : List Nat) => if y.agent then (if l = [] then 0 else c.act) else maskOf l
  let old := s.parkOf c.aid
  let x := y.again old
  match if old.isSome then none else stepOne c.hdr (x.perm == 2 || x.agent) x.bytes x.bytes (lanes.map (fun l => (l, x.addr l))) with
  | some t => c.raiseAt s t.1 (mask t.2.1) t.2.2.1 t.2.2.2
  | none =>
    if lanes = [] && old.isNone then .done s
    else
      let loc := lanes.map (fun l => (l, c.locate s x l))
      let good := loc.filterMap (fun p => match p.2 with
        | .at_ q => some (p.1, q)
        | _ => none)
      let faults := loc.filterMap (fun p => match p.2 with
        | .fault => some (p.1, x.addr p.1, x.perm)
        | _ => none)
      let refusals := (match old with
        | some p => p.refusals
        | none => []) ++ loc.filterMap (fun p => match p.2 with
        | .refused aux => some (p.1, x.addr p.1, aux)
        | _ => none)
      let m := c.opFor (if x.perm = 2 ∧ good ≠ [] then c.markSe s else s) x lanes old
      let new := x.pending c.g (fun l o => s.backingBad c.g.id l o (min 8 x.bytes)) good
      let s1 := (x.cleanStack (m.2.modGang c.g.id (fun g => x.stackStores g good)) c.g.id good).modOp m.1 (fun o =>
        { o with elts := o.elts ++ new, issued := c.now, banks := bankCycles o.bytes new })
      let s2 := match old with
        | some p => s1.dropPark p.id
        | none => s1
      let refused := mask (refusals.map (·.1))
      if faults ≠ [] then
        let n := s2.newId
        let park : Park :=
          { id := n.1, gang := c.g.id, slice := c.aid.slice, pc := c.pc, unfinished := mask (faults.map (·.1))
            refused := refused, faults := faults, refusals := refusals, op := some m.1, ready := false }
        .hold { n.2 with fl := { n.2.fl with parks := n.2.fl.parks ++ [park] } } (.page n.1)
      else
        let s3 := (s2.modOp m.1 (fun o => { o with parked := false })).opDone m.1
        match refusals with
        | [] => .done s3
        | p :: t =>
          let low := t.foldl (fun (b : Nat × Nat × Nat) q => if q.1 < b.1 then q else b) p
          .trap s3 (c.mkTrap 0x0D refused low.2.1 low.2.2) refused

/-! ### LD, ST and ULD (R137, R186, R187) -/

/-- The access address of a lane: its .d element plus an offset, modulo 2^64 (R181). -/
def Ctx.addrOf (c : Ctx) (off : Int) (lane : Nat) : Nat := wrap 64 ((c.A lane).toNat + off)

def ordOf (f : Fields) : Nat := modF f 11 9
/-- The element's bytes. -/
def bytesOf (f : Fields) : Nat := 2 ^ f.w.toNat
/-- The scaled offset of LD and ST (R186). -/
def ldOff (f : Fields) : Int := sext 8 (modF f 7 0) * bytesOf f

def ldAccess (c : Ctx) : Access :=
  { kind := .load (modBit c.f 8), bytes := bytesOf c.f, ord := ordOf c.f, perm := 0, agent := false, file := .d
    dest := c.f.d.toNat, addr := c.addrOf (ldOff c.f), data := fun _ => 0, cmp := fun _ => 0 }

/-- LD (R187). -/
def execLd (f : Fields) (s : State) : StepOut :=
  issueOp 2 0x01 f { ghost := true, run := fun (c : Ctx) s => c.gated s (c.access (ldAccess c)) } s

def stAccess (c : Ctx) : Access :=
  { kind := .store, bytes := bytesOf c.f, ord := ordOf c.f, perm := 1, agent := false, file := .d, dest := 0
    addr := c.addrOf (ldOff c.f), cmp := fun _ => 0
    data := fun l => if bytesOf c.f = 16 then (c.B l).toNat + 2 ^ 64 * (c.B1 l).toNat
                     else (c.B l).toNat % 2 ^ (8 * bytesOf c.f) }

/-- ST (R187). -/
def execSt (f : Fields) (s : State) : StepOut :=
  issueOp 2 0x02 f { outward := true, ghost := true, run := fun (c : Ctx) s => c.gated s (c.access (stAccess c)) } s

/-- ULD is one relaxed load by the agent (R137). -/
def execUld (f : Fields) (s : State) : StepOut :=
  issueOp 1 0x30 f
    { ghost := true
      run := fun (c : Ctx) s => c.gated s (c.access
        { kind := .load (modBit f 11), bytes := bytesOf f, ord := 0, perm := 0, agent := true, file := .q
          dest := f.d.toNat, addr := fun _ => c.addrOf (sext 11 (modF f 10 0)) 0
          data := fun _ => 0, cmp := fun _ => 0 }) } s

/-! ### ATOM and RED (R188 to R190) -/

def atomAccess (c : Ctx) (ret : Bool) : Access :=
  { kind := .atomic (modF c.f 7 4) ret, bytes := bytesOf c.f, ord := 1 + modF c.f 10 8, perm := 2, agent := false
    file := .d, dest := c.f.d.toNat, addr := c.addrOf 0, data := fun l => (c.B l).toNat % 2 ^ (8 * bytesOf c.f)
    cmp := fun l => (c.C l).toNat % 2 ^ (8 * bytesOf c.f) }

def atomBody (ret : Bool) : Body :=
  { outward := true, ghost := true
    run := fun (c : Ctx) s => c.gated s (c.access (atomAccess c ret)) }

def execAtom (f : Fields) (s : State) : StepOut := issueOp 2 0x04 f (atomBody (modBit f 11)) s
def execRed (f : Fields) (s : State) : StepOut := issueOp 2 0x05 f (atomBody false) s

/-! ### FENCE, PREF, CCTL (R191 to R193) -/

/-- A fence begins (R191). -/
def Ctx.beginFence (c : Ctx) (s : State) (kind scope : Nat) (chkpt : Bool) : State :=
  s.newFence c.g.id c.aid.slice kind scope chkpt

/-- FENCE does not hold its agent; the operations after it wait (R191). -/
def execFence (f : Fields) (s : State) : StepOut :=
  issueOp 2 0x06 f
    { ghost := true
      run := fun (c : Ctx) s => c.gated s (fun s => .done (if c.any then c.beginFence s (modF f 1 0) (modF f 4 2) false else s)) } s

/-- One lane of PREF: the line may be brought into the wing's slice or marked (R192). -/
def Ctx.prefetch (c : Ctx) (s : State) (kind lane : Nat) : State :=
  let a := c.addrOf (sext 8 (modF c.f 7 0)) lane
  if a % 4 ≠ 0 then s
  else match spaceOf a with
    | .global v => match s.translate c.blk.part v (if kind = 1 then 1 else 0) with
      | .ok p k =>
        if s.homedAt c.wing p then s
        else
          let r := s.choose 2
          if r.1 = 0 then r.2
          else if kind = 2 then r.2.dropCopies (fun x => x.wing == c.wing && x.line == p / 256)
          else if (r.2.copyOf c.wing k p).isSome then r.2 else r.2.installCopy c.wing c.blk.part k p
      | _ => s
    | _ => s

/-- PREF changes no value (R192). -/
def execPref (f : Fields) (s : State) : StepOut :=
  issueOp 2 0x07 f
    { ghost := true
      run := fun (c : Ctx) s => c.gated s (fun s =>
        .done ((lanesOf c.exec).foldl (fun s l => c.prefetch s (modF f 9 8) l) s)) } s

/-- CCTL acts once for the agent on a range of whole lines (R193). -/
def execCctl (f : Fields) (s : State) : StepOut :=
  issueOp 2 0x08 f
    { ghost := true
      run := fun (c : Ctx) s => c.gated s (fun s =>
        if !c.any then .done s
        else
          let a := (c.A c.low).toNat
          let n := elem 32 0 (c.B c.low)
          let cause := match spaceOf a with
            | .global v => if 2 ^ 56 < v + n then 1 else 0
            | .nowhere => 1
            | _ => 3
          if cause ≠ 0 then c.raiseAt s 0x0B c.act a cause
          else
            let tok := decide (tokOf f < 6)
            let m := s.newId
            let o : CctlOp :=
              { id := m.1, gang := c.g.id, slice := c.aid.slice, tag := if tok then some c.tag else none, wing := c.wing
                inv := modF f 1 0 == 1, lo := a / 256, hi := (a + n + 255) / 256, part := c.blk.part }
            let s1 := if tok then m.2.modGang c.g.id (fun g => g.track c (tokOf f) 400 [] c.exec) else m.2
            .done { s1 with fl := { s1.fl with cctls := s1.fl.cctls ++ [o] } }) } s

/-! ### Copies (R194 to R198) -/

/-- The fields of a CPT's shape (R195). -/
structure Shape where
  dpw : Nat
  spw : Nat
  rbw : Nat
  rows : Nat

def shapeOf (x : Reg) : Shape :=
  { dpw := elem 16 3 x, spw := elem 16 2 x, rbw := elem 16 1 x, rows := elem 16 0 x }

/-- K of a re-planing copy (R195); 0 when it is no whole number. -/
def Shape.k (h : Shape) (fmt : Nat) : Nat :=
  let w := codeWidth fmt
  if 32 * h.rbw % w = 0 then 32 * h.rbw / w else 0

/-- The limits of PLN = 1 (R195). -/
def Shape.badPlaned (h : Shape) (fmt dst : Nat) : Bool :=
  (match spaceOf dst with
   | .scratch _ => false
   | _ => true) || h.dpw != 0 || h.rows % 8 != 0 ||
  h.k fmt == 0 || h.k fmt % 32 != 0 || decide (4096 < h.k fmt)

/-- A copy as its instruction gives it: bytes read and bytes written from their addresses. -/
structure CopyReq where
  dst : Nat
  src : Nat
  bytes : Nat
  rows : Nat
  rowBytes : Nat
  dpitch : Nat
  spitch : Nat
  planed : Option Nat
  dstSpan : Nat
  srcSpan : Nat

def cpaReq (c : Ctx) : CopyReq :=
  let n := elem 32 0 (c.C c.low)
  { dst := (c.A c.low).toNat, src := (c.B c.low).toNat, bytes := n, rows := 0, rowBytes := n, dpitch := 0, spitch := 0
    planed := none, dstSpan := n, srcSpan := n }

def cptReq (c : Ctx) : CopyReq :=
  let h := shapeOf (c.C c.low)
  let pl := modBit c.f 13
  let fmt := modF c.f 12 9
  let n := 4 * h.rbw * h.rows
  { dst := (c.A c.low).toNat, src := (c.B c.low).toNat, bytes := n, rows := h.rows, rowBytes := 4 * h.rbw
    dpitch := 4 * h.dpw, spitch := 4 * h.spw, planed := if pl then some fmt else none
    dstSpan := if n = 0 then 0 else if pl then h.rows / 8 * planedBytes fmt (h.k fmt)
               else 4 * h.dpw * (h.rows - 1) + 4 * h.rbw
    srcSpan := if n = 0 then 0 else 4 * h.spw * (h.rows - 1) + 4 * h.rbw }

/-- The ADDRESS cause of a copy's range. -/
def rangeCause (a n : Nat) : Nat :=
  match spaceOf a with
  | .global v => if 2 ^ 56 < v + n then 1 else 0
  | .scratch _ => 0
  | .stack _ => 3
  | .nowhere => 1

/-- The ADDRESS cause of a barrier instruction's address: 3 anywhere outside the scratchpad aperture (R244). -/
def barCause (a : Nat) : Nat :=
  match spaceOf a with
  | .scratch _ => 0
  | _ => 3

/-- That of a copy's barrier address: 1 where it lies in no space, 3 in another space (R176, R194). -/
def copyBarCause (a : Nat) : Nat :=
  match spaceOf a with
  | .nowhere => 1
  | _ => barCause a

/-- A copy's checks (R194): ADDRESS, then MISALIGNED, then SCRATCH_BOUNDS, in each the destination, the source,
the count and the barrier (log 109). -/
def Ctx.copyCheck (c : Ctx) (s : State) (r : CopyReq) (bar : Option Nat) : Option Res :=
  let trap := fun (code a aux : Nat) => some (c.raiseAt s code c.act a aux)
  let b := bar.getD 0xFFF0000000000000
  if rangeCause r.dst r.dstSpan ≠ 0 then trap 0x0B r.dst (rangeCause r.dst r.dstSpan)
  else if rangeCause r.src r.srcSpan ≠ 0 then trap 0x0B r.src (rangeCause r.src r.srcSpan)
  else if copyBarCause b ≠ 0 then trap 0x0B b (copyBarCause b)
  else if r.dst % 4 ≠ 0 then trap 0x0E r.dst 0
  else if r.src % 4 ≠ 0 then trap 0x0E r.src 0
  else if r.bytes % 4 ≠ 0 then trap 0x0E 0 0
  else if b % 16 ≠ 0 then trap 0x0E b 0
  else if r.dstSpan ≠ 0 ∧ scratchOver c.hdr r.dst r.dstSpan then trap 0x0A r.dst 0
  else if r.srcSpan ≠ 0 ∧ scratchOver c.hdr r.src r.srcSpan then trap 0x0A r.src 0
  else if bar.isSome ∧ scratchOver c.hdr b 16 then trap 0x0A b 0
  else none

/-- CPA and CPT join the open batch and the cluster's queue (R194, R197). -/
def Ctx.copy (c : Ctx) (s : State) (r : CopyReq) : Res :=
  if decide (r.planed.any (fun x => decide (12 ≤ x))) then c.raise s 0x03 8
  else if !c.any then .done s
  else
    let bar := if immOf c.f then some (c.D 0).toNat else none
    match c.copyCheck s r bar with
      | some t => t
      | none =>
        if 128 ≤ (s.fl.copies.filter (fun x => x.cluster == c.blk.cluster)).length then .hold s .copyQueue
        else
          let m := s.newId
          let o : Copy :=
            { id := m.1, gang := c.g.id, block := c.g.block, cluster := c.blk.cluster, batch := c.g.sealedN + 1
              dst := r.dst, src := r.src, bytes := r.bytes, rows := r.rows, rowBytes := r.rowBytes
              dpitch := r.dpitch, spitch := r.spitch, planed := r.planed
              barrier := bar.map (· - 0xFFF0000000000000), slice := c.aid.slice, declined := false }
          .done { m.2 with fl := { m.2.fl with copies := m.2.fl.copies ++ [o] } }

def execCpa (f : Fields) (s : State) : StepOut :=
  issueOp 2 0x10 f { outward := true, ghost := true, run := fun (c : Ctx) s => c.gated s (fun s => c.copy s (cpaReq c)) } s

def execCpt (f : Fields) (s : State) : StepOut :=
  issueOp 2 0x11 f
    { outward := true, ghost := true
      late := fun (c : Ctx) _ => c.any && modBit f 13 && decide (modF f 12 9 < 12) &&
        (shapeOf (c.C c.low)).badPlaned (modF f 12 9) (c.A c.low).toNat
      run := fun (c : Ctx) s => c.gated s (fun s => c.copy s (cptReq c)) } s

/-- The batches of a gang that have copies outstanding. -/
def State.openBatches (s : State) (gid : Nat) : List Nat :=
  ((s.fl.copies.filter (fun x => x.gang == gid)).map (·.batch)).eraseDups

/-- BSEAL would leave a seventeenth sealed incomplete batch (R197). -/
def State.sealFull (s : State) (g : Gang) : Bool :=
  decide (16 ≤ ((s.openBatches g.id).filter (· ≤ g.sealedN)).length) && (s.openBatches g.id).contains (g.sealedN + 1)

/-- BSEAL closes the open batch (R197). -/
def execBseal (f : Fields) (s : State) : StepOut :=
  issueOp 2 0x12 f
    { run := fun (c : Ctx) s => c.gated s (fun s =>
        if !c.any then .done s
        else if s.sealFull c.g then .hold s .bseal
        else .done ((c.putQ s .q f.d.toNat (BitVec.ofNat 64 (c.g.sealedN + 1))).modGang c.g.id
          (fun g => { g with sealedN := g.sealedN + 1 }))) } s

/-- A copy of a gang's batches up to `m` is outstanding. -/
def State.batchesOpen (s : State) (gid m : Nat) : Bool := (s.openBatches gid).any (· ≤ m)

/-- The hold of an instruction that has read its operands and waits for what they named (R80). -/
def Hold.waits (h : Hold) : Bool :=
  match h with
  | .bwait _ => true
  | .barwait .. => true
  | .barsync .. => true
  | .tlwait .. => true
  | _ => false

/-- BWAIT (R198); a shadow waits with its gang (R348). What it waits for is what its operand named when it came to issue. -/
def execBwait (f : Fields) (s : State) : StepOut :=
  issueOp 2 0x13 f
    { run := fun (c : Ctx) s => c.gated s (fun s =>
        let gid := match c.g.kind with
          | .shadow p => p
          | _ => c.g.id
        let m := match c.lead.hold with
          | .bwait m => m
          | _ => if modBit f 0 then c.g.sealedN else min (c.A 0).toNat c.g.sealedN
        if !c.any && !c.lead.hold.waits then .done s
        else if s.batchesOpen gid m then .hold s (.bwait m)
        else match c.g.fails.filter (fun x => decide (x.batch ≤ m) && !x.told) with
          | [] => .done s
          | x :: t =>
            let low := t.foldl (fun (b : CopyFail) y => if y.op < b.op then y else b) x
            let s1 := s.modGang c.g.id (fun g => { g with fails := mapWhere (fun x => decide (x.batch ≤ m))
                                                                     (fun x => { x with told := true }) g.fails })
            .trap s1 (c.mkTrap 0x0D c.exec low.addr low.batch) c.lim) } s

/-! ### Stream contexts (R199 to R204) -/

/-- The granted context that an instruction names (R199). -/
def State.ctxOf (s : State) (wing ctx part : Nat) : Option StreamCtx :=
  s.fl.ctxs.find? (fun x => x.wing == wing && x.ctx == ctx && x.part == part)

/-- An instruction on a context; PROTECTION when it is not granted to the block's partition (R199). -/
def Ctx.withCtx (c : Ctx) (s : State) (k : StreamCtx → Res) : Res :=
  match s.ctxOf c.wing (modF c.f 5 0) c.blk.part with
  | some x => k x
  | none => c.raise s 0x0D (modF c.f 5 0)

/-- The descriptor's address is checked as a 64-byte element: its translation may fault or be refused (R182, R200). -/
def Ctx.descriptor (c : Ctx) (s : State) (a : Nat) (k : State → Res) : Res :=
  match c.agentCheck s true 64 64 a with
  | some t => t
  | none =>
    let old := s.parkOf c.aid
    let s1 := match old with
      | some p => s.dropPark p.id
      | none => s
    if old.any (fun p => p.refused != 0) then .trap s1 (c.mkTrap 0x0D c.act a (s.declineAux c.blk.part a)) c.act
    else match spaceOf a with
    | .global v => match s1.translate c.blk.part v 0 with
      | .ok _ _ => k s1
      | .refused aux => .trap s1 (c.mkTrap 0x0D c.act a aux) c.act
      | .fault =>
        let n := s1.newId
        let park : Park :=
          { id := n.1, gang := c.g.id, slice := c.aid.slice, pc := c.pc, unfinished := c.act, refused := 0
            faults := [(0, a, 0)], refusals := [], op := none, ready := false }
        .hold { n.2 with fl := { n.2.fl with parks := n.2.fl.parks ++ [park] } } (.page n.1)
    | _ => k s1

/-- GATH and COLL submit one operation (R200). A context that is not granted comes before the descriptor's address (log 103). -/
def Ctx.submit (c : Ctx) (s : State) (coll : Bool) : Res :=
  if !c.any then .done s
  else c.withCtx s (fun x => c.descriptor s (c.A c.low).toNat (fun s =>
    if 64 ≤ (x.ops.filter (fun o => !o.done)).length then .hold s (.streamQueue x.ctx)
    else
      let m := s.newId
      let o : StreamOp :=
        { id := m.1, num := x.sub + 1, gang := c.g.id, slice := c.aid.slice, block := c.g.block, coll := coll
          desc := (c.A c.low).toNat, done := false, declined := false, result := none }
      .done ((c.markSe m.2).modCtx x.wing x.ctx (fun y => { y with sub := y.sub + 1, ops := y.ops ++ [o] }))))

def execGath (f : Fields) (s : State) : StepOut :=
  issueOp 2 0x22 f { outward := true, ghost := true, run := fun (c : Ctx) s => c.gated s (fun s => c.submit s false) } s

def execColl (f : Fields) (s : State) : StepOut :=
  issueOp 2 0x23 f { outward := true, ghost := true, run := fun (c : Ctx) s => c.gated s (fun s => c.submit s true) } s

/-- TLWAIT waits for the value fixed when it first reached the engine, then acquires (R203). -/
def execTlwait (f : Fields) (s : State) : StepOut :=
  issueOp 2 0x20 f
    { ghost := true
      run := fun (c : Ctx) s => c.gated s (fun s =>
        if !c.any && !c.lead.hold.waits then .done s
        else c.withCtx s (fun x =>
          let n := match c.lead.hold with
            | .tlwait _ m => m
            | _ => min (c.A 0).toNat x.sub
          if n ≤ x.time then .done (s.acquire c.wing x.scope) else .hold s (.tlwait x.ctx n))) } s

/-- The error record of a context (R204). -/
def StreamCtx.err (x : StreamCtx) : Nat := x.errNum * 2 ^ 16 + x.errMore * 2 ^ 8 + x.errCause

/-- TLRD (R203). -/
def execTlrd (f : Fields) (s : State) : StepOut :=
  issueOp 2 0x21 f
    { outside := true
      run := fun (c : Ctx) s => c.gated s (fun s =>
        if !c.any then .done s
        else c.withCtx s (fun x =>
          let v := match modF f 7 6 with
            | 0 => x.time
            | 1 => x.sub
            | _ => x.err
          let s1 := c.putQ s .q f.d.toNat (BitVec.ofNat 64 v)
          .done (if modBit f 8 then s1.modCtx x.wing x.ctx (fun y => { y with errNum := 0, errMore := 0, errCause := 0 })
                 else s1))) } s

end Sys2Proof.Machine
end

