-- ==== Sys2Proof/Machine/Engine.lean ====
section
/-!
DEFINITION. Machine/Engine.lean: how the engines reach memory for a block (09 R177, R178, R196, R200; 10 R206,
R219; 20 R344): byte by byte, carrying poison, through the block's own address space.
-/

namespace Sys2Proof.Machine

/-- For whom an engine works. `gang` and `id` give the operation whose gang's earlier stores it sees; a
wing's engine (`port = false`) does not see what waits at the cluster's port (R200). -/
structure Seat where
  part : Nat
  blk : Nat
  wing : Nat
  scratch : Nat
  gang : Nat
  id : Nat
  port : Bool
  /-- Which of the operation's elements is read. -/
  elem : Nat

/-- The seat as it reads element `n`. -/
def Seat.nth (e : Seat) (n : Nat) : Seat := { e with elem := n }

/-- The seat of a block's engine operation. -/
def State.seat (s : State) (blk gang id : Nat) (port : Bool) : Seat :=
  match s.block? blk with
  | none => ⟨0, blk, 0, 0, gang, id, port, 0⟩
  | some b => ⟨b.part, blk, wingOf b.cluster, match s.hdrOf b with
      | some h => h.scratch
      | none => 0, gang, id, port, 0⟩

/-- What an engine meets at an address (R177, R178, R204). -/
inductive Reach where
  | at_ (p : Place)
  /-- A translation fault, which stalls it. -/
  | fault
  /-- A refused translation, or an address that it cannot use. -/
  | bad
deriving DecidableEq, Repr

def State.reach (s : State) (e : Seat) (a kind : Nat) : Reach :=
  match spaceOf a with
  | .global v => match s.translate e.part v kind with
    | .ok p k => .at_ (.phys p k)
    | .fault => .fault
    | .refused _ => .bad
  | .scratch o => if o < e.scratch then .at_ (.scratch o) else .bad
  | _ => .bad

/-- The points of a range at which its reach can change: its start and every 64 KB boundary in it. -/
def pagePoints (a n : Nat) : List Nat :=
  (List.range ((a % 65536 + n + 65535) / 65536)).map (fun i => if i = 0 then a else a / 65536 * 65536 + 65536 * i)

/-- The first point of a range that is not reached for a kind of access, and how. -/
def State.rangeReach (s : State) (e : Seat) (a n kind : Nat) : Option (Nat × Reach) :=
  if n = 0 then none
  else ((pagePoints a n ++ [a + n - 1]).map (fun x => (x, s.reach e x kind))).find? (fun p => match p.2 with
    | .at_ _ => false
    | _ => true)

/-- The first of some runs' pages that lies on a package which has left the domain (R357). -/
def State.goneAt (s : State) (e : Seat) (runs : List (Nat × Nat)) (kind : Nat) : Option Nat :=
  if s.pkg.departed = [] ∧ !s.pkg.alone then none
  else runs.findSome? (fun r => if r.2 = 0 then none else (pagePoints r.1 r.2).find? (fun x => match s.reach e x kind with
    | .at_ (.phys p _) => s.gone p
    | _ => false))

/-- The global parts of some runs of generic addresses: address, bytes and key id, page by page. -/
def State.pieces (s : State) (e : Seat) (runs : List (Nat × Nat)) (kind : Nat) : List (Nat × Nat × Nat) :=
  runs.flatMap (fun r => if r.2 = 0 then [] else (pagePoints r.1 r.2).filterMap (fun x => match s.reach e x kind with
    | .at_ (.phys p k) => some (p, min (r.1 + r.2) (x / 65536 * 65536 + 65536) - x, k)
    | _ => none))

/-- A write under another key id to a line that the engine reads waits in its block or wing: it goes to its home first (R310). -/
def State.keyHeld (s : State) (e : Seat) (runs : List (Nat × Nat)) : Bool :=
  s.fl.writes.any (fun w => (w.block == e.blk || (w.atWing && w.wing == e.wing)) && (s.pieces e runs 0).any (fun p =>
    p.2.2 != w.key && overlaps p.1 p.2.1 (w.addr / 256 * 256) 256))

/-- A write waits in the wing's slice over bytes that the engine reads. -/
def State.sliceMeets (s : State) (e : Seat) (runs : List (Nat × Nat)) : Bool :=
  s.fl.writes.any (fun w => w.atWing && w.wing == e.wing && (s.pieces e runs 0).any (fun p => overlaps p.1 p.2.1 w.addr w.bytes))

/-- The wing's copies under another key id of the lines that the engine reads are dropped (R310). -/
def State.engFill (s : State) (e : Seat) (runs : List (Nat × Nat)) : State :=
  if s.mem.copies = [] then s
  else s.dropCopies (fun c => c.wing == e.wing && (s.pieces e runs 0).any (fun p => p.2.2 != c.key && overlaps p.1 p.2.1 (256 * c.line) 256))

/-- A byte as the engine finds it now, and whether it is poisoned; nothing where it cannot reach. A wing's engine sees neither the
gang's combiner nor the cluster's port (R200). -/
def State.engNow (s : State) (e : Seat) (a : Nat) : Option (Nat × Bool) :=
  match s.reach e a 0 with
  | .at_ (.phys p k) =>
    some (if e.port then ((s.viewByte e.gang e.id e.blk e.wing k p).toNat, s.placeBad e.gang e.id e.blk e.wing (.phys p k) 1)
      else ((s.sliceByte e.wing k p).toNat, s.readsBad (s.fl.writes.filter (fun w => w.atWing && w.wing == e.wing)) [] e.wing k p 1))
  | .at_ (.scratch o) =>
    some (if e.port then (s.bankView e.gang e.id e.blk o, s.placeBad e.gang e.id e.blk e.wing (.scratch o) 1)
      else (s.scratchByte e.blk o, s.scratchBad e.blk o 1))
  | _ => none

/-- What an operation saw when it read an element: one of its earlier sights, or none for what stands there now. Which of them
is free, by element (R143, R196, R200; log 36). -/
def State.sightOf (s : State) (e : Seat) : Option Sight :=
  let l := s.fl.sights.filter (fun x => x.op == e.id)
  l[Config.sight s.choice e.id e.elem % (l.length + 1)]?

/-- A byte of the seat's element as the operation reads it, and whether it is poisoned. -/
def State.engGet (s : State) (e : Seat) (a : Nat) : Option (Nat × Bool) :=
  match (s.sightOf e).bind (fun x => x.bytes.find? (fun b => b.1 == a)) with
  | some b => some b.2
  | none => s.engNow e a

/-- A sight of some runs of bytes is kept for an operation. -/
def State.see (s : State) (e : Seat) (runs : List (Nat × Nat)) : State :=
  let cells := runs.flatMap (fun r => (List.range r.2).filterMap (fun i => (s.engNow e (r.1 + i)).map (fun v => (r.1 + i, v))))
  { s with fl := { s.fl with sights := s.fl.sights ++ [⟨e.id, cells⟩] } }

/-- A byte, zero where it cannot be reached. -/
def State.engByte (s : State) (e : Seat) (a : Nat) : Nat := ((s.engGet e a).map (·.1)).getD 0
def State.engBad (s : State) (e : Seat) (a : Nat) : Bool := ((s.engGet e a).map (·.2)).getD false
/-- Nothing that an engine reads is poisoned. -/
def State.allClean (s : State) : Bool :=
  s.errs.poison == [] && s.fl.sights == [] && s.mem.copies == [] && !s.fl.writes.any (·.bad) && !s.fl.ops.any (·.row == some true)
/-- A range holds a poisoned byte. -/
def State.engRangeBad (s : State) (e : Seat) (a n : Nat) : Bool :=
  !s.allClean && (List.range n).any (fun i => s.engBad e (a + i))

/-- A byte is written, when it can be reached. -/
def State.engSet (s : State) (e : Seat) (a v : Nat) : State :=
  match s.reach e a 1 with
  | .at_ (.phys p k) => s.homeWrite e.wing k p 1 v
  | .at_ (.scratch o) => s.scratchWrite e.blk o 1 v
  | _ => s

/-- The grains that a run of `n` bytes from `a` covers whole lose their poison (R344). -/
def State.engClean (s : State) (e : Seat) (a n : Nat) : State :=
  if s.errs.poison = [] ∧ s.mem.copies = [] then s
  else (List.range n).foldl (fun s i =>
    let x := a + i
    let m := if x % 256 = 0 ∧ x + 256 ≤ a + n then 256 else if x % 64 = 0 ∧ x + 64 ≤ a + n then 64
             else if x % 8 = 0 ∧ x + 8 ≤ a + n then 8 else 0
    if m = 0 then s
    else match s.reach e x 1 with
      | .at_ (.phys p _) => s.cleanHome e.wing p m
      | .at_ (.scratch o) => s.clearPoison (coversScratch e.blk o m)
      | _ => s) s

/-- The grain of a byte becomes poisoned (R344). -/
def State.engPoison (s : State) (e : Seat) (a : Nat) : State :=
  match s.reach e a 1 with
  | .at_ (.phys p _) => s.poisonHome e.wing p [.l2 e.wing (p / 8) false]
  | .at_ (.scratch o) => s.addPoison (.scratch e.blk (o / 8))
  | _ => s

/-- A run of bytes is written, each with its poison. -/
def State.engRun (s : State) (e : Seat) (a : Nat) (l : List (Nat × Bool)) : State :=
  let s1 := ((List.range l.length).zip l).foldl (fun s p => s.engSet e (a + p.1) p.2.1) s
  let s2 := s1.engClean e a l.length
  ((List.range l.length).zip l).foldl (fun s p => if p.2.2 then s.engPoison e (a + p.1) else s) s2

/-- Writes on their way through the engine's block or wing over a range reach their home first (R208), and so do those to its lines
under another key id (R310). -/
def State.engSettle (s : State) (e : Seat) (a n : Nat) : State :=
  s.drain (fun w => (w.block == e.blk || (w.atWing && w.wing == e.wing)) && (s.pieces e [(a, n)] 1).any (fun p =>
    overlaps p.1 p.2.1 w.addr w.bytes || (p.2.2 != w.key && overlaps p.1 p.2.1 (w.addr / 256 * 256) 256)))

/-- A byte that is an element of its own, as a copy reads it (R196). -/
def State.engOne (s : State) (e : Seat) (a : Nat) : EngByte := s.engGet (e.nth a) a

/-- A run of bytes as the engine reads it, each an element of its own. -/
def State.engRead (s : State) (e : Seat) (a n : Nat) : List EngByte := (List.range n).map (fun i => s.engOne e (a + i))

/-- A run of bytes that have all been read is written, with what waits on its way there before it (R208). -/
def State.engPut (s : State) (e : Seat) (r : Nat × List EngByte) : State :=
  (s.engSettle e r.1 r.2.length).engRun e r.1 (r.2.filterMap id)

/-- What a matrix operation reads in memory, as runs of generic addresses. -/
def MxJob.reads (j : MxJob) : List (Nat × Nat) :=
  let fb := fblockOf j.fb
  match j.op with
  | .mma a b kn =>
    let k := termsOf kn
    (a, planedBytes fb.af k) :: (b, bBytes fb k) ::
      ((j.claims.flatMap (fun p => aScaleRuns fb k p.2)) ++ bScaleRuns fb k)
  | .acld a pitch mf _ => rowRuns a pitch mf
  | .plane _ src kn fmt => [(src, termsOf kn * codeWidth fmt)]
  | _ => []

end Sys2Proof.Machine
end

