-- ==== Sys2Proof/Machine/ViewOps.lean ====
section
/-!
DEFINITION. Machine/ViewOps.lean: how the sketch unit reads a view's records, traces its rays and forms its tile
and status (12 R268 to R295).
-/

namespace Sys2Proof.Machine

/-! ### Records (R268, R269, R271, R279, R289) -/

/-- The seat from which a view's records are read: through its wing. -/
def State.viewSeat (s : State) (v : View) : Seat := s.seat v.block v.gang v.id false

/-- A record of the view can be read; none while a page is missing (R268). A poisoned one is unreadable (R344), and so is one of a
package that has left the domain (R357; log 89). -/
def State.recordOk (s : State) (v : View) (a n : Nat) : Option Bool :=
  match s.rangeReach (s.viewSeat v) a n 0 with
  | some (_, .fault) => none
  | some _ => some false
  | none => some (!s.engRangeBad (s.viewSeat v) a n && (s.goneAt (s.viewSeat v) [(a, n)] 0).isNone)

def State.viewRead (s : State) (v : View) (a : Nat) : Nat := s.engByte (s.viewSeat v) a

/-- A source's camera: it and whether it is bad; none while it stalls. A refused view reads none (R294). -/
def State.loadCam (s : State) (v : View) (x : ViewSrc) : Option (Option Camera × Bool) :=
  if v.refused || x.camBad then some (none, x.camBad)
  else (s.recordOk v x.camAddr 128).map (fun ok =>
    if ok then (let c := cameraAt (s.viewRead v) x.camAddr; (some c, c.bad)) else (none, true))

/-- The header of a SHADE view's kernel, when it may shade (R271, R289); none while it stalls. -/
def State.loadShade (s : State) (v : View) (c : Cut) : Option (Option LaunchHdr) :=
  if v.kind ≠ 3 then some none
  else if c.shLaunch = 0 ∨ c.shLaunch % 128 ≠ 0 ∨ 2 ^ 56 ≤ c.shLaunch then some none
  else (s.recordOk v c.shLaunch 128).map (fun ok =>
    if ok && !shadeBad (s.viewRead v) c.shLaunch then some (launchAt (s.viewRead v) c.shLaunch) else none)

/-- A source's cut and the kernel's header, and whether the cut is bad; none while it stalls. -/
def State.loadCut (s : State) (v : View) (x : ViewSrc) : Option (Option Cut × Option LaunchHdr × Bool) :=
  if x.cutBad then some (none, none, true)
  else (s.recordOk v x.cutAddr 256).bind (fun ok =>
    if !ok then some (none, none, true)
    else
      let c := cutAt (s.viewRead v) x.cutAddr
      (s.loadShade v c).map (fun h => (some c, h, c.bad || (v.kind == 3 && h.isNone))))

/-- Every source loaded, and the shading header; none while one stalls. -/
def State.loadSrcs (s : State) (v : View) : List ViewSrc → Option (List ViewSrc × Option LaunchHdr)
  | [] => some ([], none)
  | x :: t =>
    match s.loadCam v x, s.loadCut v x, s.loadSrcs v t with
    | some m, some c, some r =>
      some ({ x with cam := m.1, cut := c.1, camBad := m.2, cutBad := c.2.2, loaded := true } :: r.1,
            c.2.1.orElse (fun _ => r.2))
    | _, _, _ => none

/-! ### Rays (R270, R278) -/

/-- The rays of a source whose camera and cut are good (R270, R279). -/
def viewRays (v : View) (x : ViewSrc) : List Ray :=
  match x.cam, x.cut with
  | some m, some c =>
    if x.camBad || x.cutBad then []
    else (List.range (tilePixels v.res)).map (fun p =>
      let od := rayOf m v.res (p % 2 ^ v.res) (p / 2 ^ v.res)
      let r : Ray := { lane := x.lane, pixel := p, o := od.1, d := od.2, tmax := m.far, hit := none, visits := 0
                       stack := [(c.rootW, c.rootAux, m.near)], leaf := [], status := .running }
      if rayDegenerate od.1 od.2 then { r with status := .ended, stack := [] } else r.settle)
  | _, _ => []

def View.src? (v : View) (lane : Nat) : Option ViewSrc := v.srcs.find? (fun x => x.lane == lane)

/-- The next unfinished ray of the slot, in ascending order (R268). -/
def View.nextRay (v : View) : Option Ray := v.rays.find? (fun r => r.status == .running)

/-- The ray of its lane and pixel is replaced. -/
def View.putRay (v : View) (q : Ray) : View :=
  { v with rays := v.rays.map (fun (x : Ray) => if x.lane = q.lane ∧ x.pixel = q.pixel then q else x) }

/-- A view with its rays at an end has its SHADE hits packed, 32 to a shading gang (R290). -/
def packHits : Nat → List Ray → List (List Ray)
  | 0, _ => []
  | n + 1, l => if l = [] then [] else l.take 32 :: packHits n (l.drop 32)

def View.pack (v : View) : View :=
  if v.nextRay.isSome then v
  else
    let hits := v.rays.filter (fun r => r.status == .ended && r.hit.isSome)
    { v with toStart := if v.kind = 3 then packHits hits.length hits else [] }

/-- One turn of a ray: a triangle test or a fetch (R268, R278); none while its record's page is missing. -/
def State.rayTurn (s : State) (v : View) (r : Ray) : Option Ray :=
  match (v.src? r.lane).bind (fun x => x.cam.bind (fun m => x.cut.map (fun c => (m, c)))) with
  | none => some r.malform
  | some mc =>
    if r.leaf ≠ [] then some (r.test mc.2 mc.1).settle
    else match r.nextFetch mc.2 with
      | none => some { r with status := .ended, stack := [] }
      | some (w, x, _, a, n) =>
        if fetchBad mc.2 r w x then some r.malform
        else match s.rangeReach (s.viewSeat v) a n 0 with
          | some (_, .fault) => none
          | some _ => some { r with status := .xlate, stack := [] }
          | none => if (s.goneAt (s.viewSeat v) [(a, n)] 0).isSome then some { r with status := .xlate, stack := [] }
                    else if s.engRangeBad (s.viewSeat v) a n then some r.malform
                    else some (r.fetch mc.2 mc.1 (s.viewRead v)).settle

/-- One turn of a slot: its records, or its next ray; none while it stalls. -/
def State.viewTurn (s : State) (v : View) : Option View :=
  if !v.prepared then
    (s.loadSrcs v v.srcs).map (fun r =>
      let v1 := { v with srcs := r.1, shade := r.2, prepared := true }
      { v1 with rays := r.1.flatMap (viewRays v1) }.pack)
  else v.nextRay.bind (fun r => (s.rayTurn v r).map (fun q =>
    (v.putRay q).pack))

/-- The runs that the view's turn would read. -/
def State.viewRuns (s : State) (v : View) : List (Nat × Nat) :=
  if !v.prepared then
    v.srcs.flatMap (fun x => [(x.camAddr, 128), (x.cutAddr, 256)] ++
      (if v.kind = 3 then [((cutAt (s.viewRead v) x.cutAddr).shLaunch, 128)] else []))
  else (v.nextRay.bind (fun r => if r.leaf ≠ [] then none
    else ((v.src? r.lane).bind (·.cut)).bind (fun c => (r.nextFetch c).bind (fun f =>
      if fetchBad c r f.1 f.2.1 then none else some (f.2.2.2.1, f.2.2.2.2))))).toList

/-- What the view's turn would read lies on a package that has left the domain: its address (R357). -/
def State.viewGone (s : State) (v : View) : Option Nat := s.goneAt (s.viewSeat v) (s.viewRuns v) 0

/-- A line that the view's turn would read waits under another key id (R310). -/
def State.viewHeld (s : State) (v : View) : Bool := s.keyHeld (s.viewSeat v) (s.viewRuns v)

/-- The view's agent is told of a read that a departed package did not answer. -/
def State.viewLost (s : State) (v : View) (at_ : Option Nat) : State :=
  at_.elim s (fun a => s.engLost v.gang v.id v.slice (some v.lanes) a)

/-! ### A declined fault (R268, R279) -/

/-- The first source with a record whose page is missing is marked. -/
def State.markSrc (s : State) (v : View) : List ViewSrc → List ViewSrc
  | [] => []
  | x :: t =>
    if (s.loadCam v x).isNone then { x with camBad := true } :: t
    else if (s.loadCut v x).isNone then { x with cutBad := true } :: t
    else x :: s.markSrc v t

/-- The supervisor declines the fault at which a view stalls. -/
def State.declineView (s : State) (v : View) : State :=
  s.modView v.id (fun w =>
    if !w.prepared then { w with srcs := s.markSrc v w.srcs }
    else match w.nextRay with
      | none => w
      | some r => if (s.rayTurn v r).isSome then w
                  else (w.putRay { r with status := .xlate, stack := [] }).pack)

/-! ### The release of the issue (R221) -/

/-- The issuing gang's writes before the view are performed at .s, and those that it has observed. -/
def State.viewReleased (s : State) (v : View) : Bool :=
  match s.block? v.block with
  | none => true
  | some b => !(s.older v.gang v.id).any (fun o => o.open_ && !o.isRead) &&
      s.writesDone b.id (wingOf b.cluster) 3 && s.engineWritesDone v.gang v.id none

/-- The writes of a view's shading gangs, and those that they may have observed in their wing, are performed at .s (R214, R219,
R221; log 30). -/
def State.shadeWritesDone (s : State) (v : View) : Bool :=
  let mine := (s.gangs.filter (fun g => match g.kind with
    | .shading i _ _ => i == v.id
    | _ => false)).map (·.id)
  !s.fl.ops.any (fun o => mine.contains o.gang && o.open_ && !o.isRead) &&
  !s.fl.writes.any (fun w => mine.contains w.gang || (mine != [] && w.atWing && w.wing == v.wing))

/-! ### Tile and status (R280 to R282, R287) -/

/-- One pixel of a source (R279 to R281); a bad cut's null fallback comes before a bad camera's (log 113). -/
def View.pixelOf (v : View) (x : ViewSrc) (p : Nat) : Nat :=
  match x.cut with
  | none => 0
  | some c =>
    if x.cutBad then 0
    else if v.refused || x.camBad then fallback v.kind c
    else match x.cam, v.rays.find? (fun r => r.lane == x.lane && r.pixel == p) with
      | some m, some r =>
        if r.status ≠ .ended then fallback v.kind c
        else if v.kind = 3 ∧ r.hit.isSome then
          ((v.pixels.find? (fun y => y.lane == x.lane && y.pixel == p)).map (·.val)).getD c.fbRad
        else rayPixel v.kind c m r
      | _, _ => fallback v.kind c

/-- The register, lane and value of every pixel of the tile (R282). -/
def View.tile (v : View) : List (Nat × Nat × Nat) :=
  v.srcs.flatMap (fun x => (List.range (tilePixels v.res)).map (fun p =>
    if v.perLane then (v.dest + p, x.lane, v.pixelOf x p) else (v.dest + p / 32, p % 32, v.pixelOf x p)))

def View.marked (v : View) (e : RayEnd) : Nat := (v.rays.filter (fun r => r.status == e)).length

/-- The flags of a view (R287). -/
def View.flags (v : View) : Nat :=
  v.refused.toNat + 2 * (decide (v.marked .malformed ≠ 0)).toNat + 4 * (v.srcs.any (·.cutBad)).toNat +
  8 * (v.srcs.any (·.camBad)).toNat + 16 * (decide (v.marked .xlate ≠ 0)).toNat + 32 * v.shadeFail.toNat +
  64 * (v.rays.any (fun r => r.status == .ended && r.hit.isSome)).toNat

/-- A status word after a delivery (R287). -/
def viewStatus (v : View) (old : Reg) : Reg :=
  let n := old.toNat
  let views := min 65535 (n / 2 ^ 32 % 65536 + 1)
  let mal := min 65535 (v.marked .malformed + v.marked .xlate)
  BitVec.ofNat 64 (mal * 2 ^ 48 + views * 2 ^ 32 + (n / 2 ^ 16 % 65536 ||| v.flags) * 2 ^ 16 + v.flags)

/-! ### Slots (R292 to R295) -/

/-- The launch for which a gang issues views (R300). -/
def State.rootLaunch (s : State) (g : Gang) : Nat :=
  match g.kind with
  | .shading v _ _ => ((s.view? v).map (·.launch)).getD 0
  | _ => ((s.block? g.block).map (·.launch)).getD 0

/-- Slots of a level that views of the launch hold on a wing. -/
def State.slotsHeld (s : State) (launch level wing : Nat) : Nat :=
  (s.fl.views.filter (fun v => v.launch == launch && v.level == level && v.wing == wing && v.admitted.isSome)).length

/-- The slots of a level that a launch has on a wing: its reservation; after the save of its last block there, those that views
hold, and at least one of a level whose views its admitted views may wait for (R292, R296, R339; log 90). -/
def State.slotsOn (s : State) (l : Launch) (level wing : Nat) : Nat :=
  let held := s.slotsHeld l.id level wing
  if s.nestOnWing l wing then (l.hdr.level level).2
  else if s.needsLevel l wing (level - 1) then max held (min 1 (l.hdr.level level).2) else held

/-- A slot of the level is free (R293, R295). -/
def State.slotFree (s : State) (launch level wing : Nat) : Bool :=
  match s.launch? launch with
  | none => false
  | some l => decide (s.slotsHeld launch level wing < s.slotsOn l level wing)

/-- A view takes a slot. -/
def State.letIn (s : State) (id : Nat) : State :=
  let n := s.newId
  n.2.modView id (fun v => { v with admitted := some n.1 })

/-- A freed slot admits the oldest parked view of its launch, wing and level (R295). -/
def State.seatNext (s : State) (launch level wing : Nat) : State :=
  if !s.slotFree launch level wing then s
  else match s.fl.views.find? (fun v => v.launch == launch && v.level == level && v.wing == wing &&
      !v.refused && v.admitted.isNone) with
    | some v => s.letIn v.id
    | none => s

end Sys2Proof.Machine
end

