-- ==== Sys2Proof/Machine/EvMem.lean ====
section
/-!
DEFINITION. Machine/EvMem.lean: the events of the memory system (95; 04 R67, R80; 06 R120; 09 R184 to R204; 18
R333). An event that the state does not enable does not happen: it faults as notEnabled.
-/

namespace Sys2Proof.Machine

/-- An event that may not be enabled. -/
def event (o : Option State) : StepOut :=
  match o with
  | some s => .next s
  | none => .fault .notEnabled

/-- The package has power and has not halted in its start-up: more of it than the management interface is active (R22, R24). -/
def Package.live (p : Package) : Bool := p.powered && !p.halted

/-- An event of the package's own parts or of a client, while the package has power and has not halted (R22, R24). -/
def alive (s : State) (o : Option State) : StepOut := if s.pkg.live then event o else .fault .notEnabled

/-- An event of the supervisor OS, whose cores step 5 of the start-up starts (R24). -/
def running (s : State) (o : Option State) : StepOut :=
  if s.pkg.live && decide (5 ≤ s.pkg.boot) then event o else .fault .notEnabled

/-- The block and wing that a gang's accesses go through. -/
def State.wayOf (s : State) (gid : Nat) : Option (Nat × Nat) :=
  (s.gang? gid).bind (fun g => (s.block? g.block).map (fun b => (b.id, wingOf b.cluster)))

/-- An operation's first element in a lane: of a .q element the low half before the high half (log 108). -/
def MemOp.lane? (o : MemOp) (lane : Nat) : Option Elt := o.elts.find? (fun e => e.lane == lane)

/-! ### Per-lane accesses (R184, R187, R190) -/

/-- A load's sector reaches its lanes (R184). -/
def State.loadArrives (s : State) (op lane : Nat) : Option State :=
  (s.op? op).bind (fun o => match o.kind with
    | .load sx => (o.lane? lane).bind (fun e => (s.wayOf o.gang).bind (fun w =>
        if !s.loadReady o e w.1 w.2 || s.dieOff w.2 || e.phys?.any (s.fabricHeld op) then none
        else if e.phys?.any s.gone then some (s.loseElts o [e] 8 (fun s _ => s))
        else some (s.loadIn o e sx w.1 w.2)))
    | _ => none)

def execLoadSectorArrival (op lane : Nat) (s : State) : StepOut := event (s.loadArrives op lane)

/-- A write reaches a package that has left the domain: it is performed or not, freely (R357); the matrix engine's raises nothing
(R160). -/
def State.loseWrite (s : State) (w : Write) : State :=
  let n := s.choose 2
  let s1 := if n.1 = 0 then { n.2 with fl := { n.2.fl with writes := n.2.fl.writes.erase w } } else n.2.writeOut w
  let e : Elt := { lane := w.lane, hi := false, addr := w.vaddr, place := .phys w.addr w.key, data := w.data, cmp := 0 }
  if w.mute then s1 else s1.fabricLost w.gang w.id w.slice false [e] 8

/-- A store's element, or a write on its way, goes one point further (R187, R207). -/
def State.storeMoves (s : State) (op lane : Nat) : Option State :=
  match (s.op? op).bind (fun o => if o.isStore then (o.lane? lane).map (fun e => (o, e)) else none) with
  | some p => (s.wayOf p.1.gang).bind (fun w =>
      let far := decide (4 ≤ p.1.ord)
      if !s.storeReady p.1 p.2 w.1 w.2 || s.dieOff w.2 || (far && p.2.phys?.any (s.fabricHeld op)) then none
      else if far && p.2.phys?.any s.gone then some (s.loseElts p.1 [p.2] 8 (fun s e => s.storeOut p.1 e w.1 w.2))
      else some ((s.storeOut p.1 p.2 w.1 w.2).opDone op))
  | none => (s.fl.writes.find? (fun w => w.id == op && w.lane == lane)).bind (fun w =>
      if !s.writeReady w || s.dieOff w.wing || (w.atWing && s.fabricHeld op w.addr) then none
      else if w.atWing && s.gone w.addr then some (s.loseWrite w)
      else some (s.writeOut w))

def execStorePerformed (op lane : Nat) (s : State) : StepOut := event (s.storeMoves op lane)

/-- The arbiter performs an atomic's element (R190). An atomic lost on a dead plane is performed no more. -/
def State.atomPerforms (s : State) (op lane : Nat) : Option State :=
  (s.op? op).bind (fun o => match o.kind with
    | .atomic aop ret => (o.lane? lane).bind (fun e => (s.wayOf o.gang).bind (fun w =>
        if !s.atomReady o e w.1 w.2 || s.dieOff w.2 || e.phys?.any (s.fabricHeld op) then none
        else if e.phys?.any s.gone then some (s.loseElts o [e] 8 (fun s e => s.atomOne o aop false w.1 w.2 e))
        else some (s.atomAll o e aop ret w.1 w.2)))
    | _ => none)

def execAtomicPerform (op lane : Nat) (s : State) : StepOut := event (s.atomPerforms op lane)

/-! ### Register results (R80, R120) -/

/-- Results whose latency has passed have landed (R80). -/
def execResultWriteback (gang : Nat) (s : State) : StepOut :=
  event ((s.gang? gang).bind (fun g =>
    if g.olds.any (fun o => decide (o.lands ≤ s.pkg.clock)) then
      some (s.modGang gang (fun g => { g with olds := g.olds.filter (fun o => decide (s.pkg.clock < o.lands)) }))
    else none))

/-- One lane of a special function is written, any of those left; with the last its token counts it off (R120). -/
def execSpecialFunctionDelivery (op : Nat) (s : State) : StepOut :=
  event ((s.fl.specials.find? (fun o => o.id == op)).bind (fun o =>
    if !s.twinReady o.gang o.at_ || (s.wayOf o.gang).any (fun w => s.dieOff w.2) then none
    else
      let n := s.choose (max 1 o.vals.length)
      let one := (o.vals.drop n.1).take 1
      let left := o.vals.eraseIdx n.1
      let s1 := one.foldl (fun s p => s.deliver o.gang o.at_ 64 .d o.dest p.1 p.2) n.2
      some (if left = [] then
          ({ s1 with fl := { s1.fl with specials := s1.fl.specials.filter (fun x => x.id != op) } }).endToken o.gang o.at_
        else { s1 with fl := { s1.fl with specials := mapWhere (fun x => x.id == op) (fun x => { x with vals := left }) s1.fl.specials } })))

/-! ### Fences and cache control (R191, R193, R216, R331) -/

/-- A fence's conditions are met: at .d one that was issued during a rehash waits for its end, whatever its kind (R191, R216). -/
def State.fenceReady (s : State) (f : FenceOp) : Bool :=
  match s.wayOf f.gang with
  | none => true
  | some w =>
    (if f.kind = 1 then true else s.readsDone f.gang f.id f.slice) &&
    (decide (f.scope < 4) || s.pkg.rehash.all (fun r => decide (f.id < r.since))) &&
    (if f.kind = 0 then true else s.released f.gang f.id f.slice w.1 w.2 f.scope && s.enginesDone f.gang f.id f.slice)

/-- A fence completes; CHKPT's clears SE in the same event (R331). -/
def execFenceComplete (op : Nat) (s : State) : StepOut :=
  event ((s.fl.fences.find? (fun f => f.id == op)).bind (fun f =>
    if !s.fenceReady f then none
    else
      let s1 := { s with fl := { s.fl with fences := s.fl.fences.filter (fun x => x.id != op) } }
      let s2 := if f.kind = 1 then s1 else match s.wayOf f.gang with
        | some w => s1.acquire w.2 f.scope
        | none => s1
      some (if f.chkpt then s2.modGang f.gang (fun g => { g with se := false }) else s2)))

/-- A physical line that a partition's pages map into lines `lo` to `hi - 1` of the window. -/
def State.lineIn (s : State) (part lo hi a : Nat) : Bool :=
  s.mem.pages.any (fun p => p.part == part && decide (p.spec.pbase ≤ a) && decide (a < p.spec.pbase + p.spec.size) &&
    decide (256 * lo ≤ p.spec.vbase + (a - p.spec.pbase)) && decide (p.spec.vbase + (a - p.spec.pbase) < 256 * hi))

/-- Every line of a CCTL's range has been treated (R193). -/
def execCctlComplete (op : Nat) (s : State) : StepOut :=
  event ((s.fl.cctls.find? (fun o => o.id == op)).bind (fun o =>
    if o.tag.any (fun t => !s.twinReady o.gang t) || s.dieOff o.wing ||
      s.fl.writes.any (fun w => w.wing == o.wing && s.fabricHeld w.id w.addr) then none
    else
      let s1 := s.drain (fun w => w.atWing && w.wing == o.wing && s.lineIn o.part o.lo o.hi w.addr)
      let s2 := if o.inv then s1.dropCopies (fun c => c.wing == o.wing && s.lineIn o.part o.lo o.hi (256 * c.line)) else s1
      let s3 := { s2 with fl := { s2.fl with cctls := s2.fl.cctls.filter (fun x => x.id != op) } }
      some (match o.tag with
        | some t => s3.endToken o.gang t
        | none => s3)))

/-! ### Copies (R196) -/

/-- The rows of a copy: destination, source and length; a linear copy is one row. -/
def Copy.runs (c : Copy) : List (Nat × Nat × Nat) :=
  if c.rows = 0 then [(c.dst, c.src, c.bytes)]
  else (List.range c.rows).map (fun i => (c.dst + c.dpitch * i, c.src + c.spitch * i, c.rowBytes))

/-- K and bytes of a re-planed fragment. -/
def Copy.planedK (c : Copy) (fmt : Nat) : Nat := 8 * c.rowBytes / codeWidth fmt

/-- The destination runs of a re-planing copy: fragments of eight rows (R195). -/
def Copy.fragments (c : Copy) (fmt : Nat) : List (Nat × Nat) :=
  let n := planedBytes fmt (c.planedK fmt)
  (List.range (c.rows / 8)).map (fun f => (c.dst + f * n, n))

/-- Where the byte that a copy writes at an address comes from, when it writes there: its last row that does (R195). -/
def Copy.source (c : Copy) (a : Nat) : Option Nat :=
  (c.runs.reverse.find? (fun r => decide (r.1 ≤ a) && decide (a < r.1 + r.2.2))).map (fun r => r.2.1 + (a - r.1))

/-- The byte read at a source: the original, or, where the destination overlaps it, one that the copy itself wrote there, freely
(R196). -/
def State.copyByte (s : State) (e : Seat) (c : Copy) : Nat → Nat → EngByte
  | 0, a => s.engOne e a
  | n + 1, a => match c.source a with
    | some b => if (Config.mixMask s.choice c.id a).getLsbD 0 then s.copyByte e c n b else s.engOne e a
    | none => s.engOne e a

/-- The bytes that a copy writes, by run; one of a fragment whose sources cannot all be read is none. -/
def State.copyData (s : State) (e : Seat) (c : Copy) : List (Nat × List EngByte) :=
  match c.planed with
  | none => c.runs.map (fun r => (r.1, (List.range r.2.2).map (fun i => s.copyByte e c c.bytes (r.2.1 + i))))
  | some fmt =>
    let w := codeWidth fmt
    (List.range (c.rows / 8)).map (fun f =>
      let row := fun (i : Nat) => c.src + c.spitch * (8 * f + i)
      let get := fun (i j : Nat) => runBits (fun a => ((s.engOne e a).map (·.1)).getD 0) (row i) (w * j) w
      let from_ := fun (o : Nat) => (planedDeps fmt o).flatMap (fun d =>
        s.engRead e (row d.1 + w * d.2 / 8) ((w * d.2 % 8 + w + 7) / 8))
      let n := planedBytes fmt (c.planedK fmt)
      (c.dst + f * n, (List.range n).map (fun o =>
        if (from_ o).any (·.isNone) then none else some (planedByte fmt get o, (from_ o).any (·.any (·.2))))))

/-- The first address of a copy that the engine cannot reach, sources first. -/
def State.copyReach (s : State) (e : Seat) (c : Copy) : Option (Nat × Reach) :=
  if c.bytes = 0 then none
  else
    let dsts : List (Nat × Nat) := match c.planed with
      | none => c.runs.map (fun r => (r.1, r.2.2))
      | some fmt => c.fragments fmt
    ((c.runs.filterMap (fun r => s.rangeReach e r.2.1 r.2.2 0)) ++
     (dsts.filterMap (fun r => s.rangeReach e r.1 r.2 1))).head?

/-- The destination bytes of a failed operation hold the old or the new value, freely, a poisoned one with its poison, and the old
one where the new could not be read (R196, R204, R344). -/
def State.copyTorn (s : State) (e : Seat) (data : List (Nat × List EngByte)) : State :=
  let m := Config.mixMask s.choice 0
  let put := fun (s : State) (a : Nat) (v : EngByte) => if (m a).getLsbD 0 then s.engRun e a v.toList else s
  let s1 := data.foldl (fun s r => ((List.range r.2.length).zip r.2).foldl (fun s p => put s (r.1 + p.1) p.2) s) s
  { s1 with choice := s1.choice + 1 }

/-- The gang's arrival at the barrier that a copy names is still to take effect: the subtraction follows it (R298). -/
def State.copyAwaits (s : State) (c : Copy) : Bool :=
  c.barrier.any (fun o => (s.gang? c.gang).any (fun g => g.recordDue o))

/-- A copy completes: its writes are made, each byte of one that meets a departed package or not (R357; log 89), its barrier loses
its bytes, a failure is kept for BWAIT (R196, R198). -/
def State.copyEnds (s : State) (c : Copy) : Option State :=
  let e := s.seat c.block c.gang c.id true
  let srcs := c.runs.map (fun r => (r.2.1, r.2.2))
  if (s.older c.gang c.id).any (fun o => o.open_ && !o.isRead) || s.errs.deadCopy.contains c.cluster ||
      s.dieOff (wingOf c.cluster) || s.fabricWaits e.part || s.keyHeld e srcs || s.copyAwaits c then none
  else
    let end_ := fun (s : State) =>
      let s1 := { s with fl := { s.fl with copies := s.fl.copies.filter (fun x => x.id != c.id) } }
      match c.barrier with
      | some o => s1.barEvent c.block o (fun b => b.subBytes c.bytes)
      | none => s1
    let fails := fun (a : Nat) =>
      let t := s.copyTorn e (s.copyData e c)
      match s.gang? c.gang with
      | some g => { t with gangs := mapWhere (twinOf c.gang g) (fun h => { h with fails := h.fails ++ [⟨c.batch, c.id, a, false⟩] }) t.gangs }
      | none => t
    match s.copyReach e c with
    | some (a, .fault) => if c.declined then some (end_ (fails a)) else none
    | some (a, _) => some (end_ (fails a))
    | none =>
      let data := if c.bytes = 0 then [] else s.copyData e c
      match (s.goneAt e srcs 0).orElse
          (fun _ => s.goneAt e (data.map (fun r => (r.1, r.2.length))) 1) with
      | some a => some ((end_ (s.copyTorn e data)).engLost c.gang c.id c.slice none a)
      | none =>
      some (end_ (data.foldl (fun s r => s.engPut e r) (s.engFill e srcs)))

def execCopyComplete (op : Nat) (s : State) : StepOut :=
  event ((s.fl.copies.find? (fun c => c.id == op)).bind s.copyEnds)

/-! ### Stream operations (R200 to R204) -/

/-- A failure or flag recorded in a context (R204). -/
def StreamCtx.fail (x : StreamCtx) (num cause : Nat) : StreamCtx :=
  if x.errCause = 0 then { x with errNum := num, errCause := cause }
  else { x with errMore := min 255 (x.errMore + 1) }

/-- The timeline passes every operation that is complete with all before it (R200). -/
def advance : Nat → StreamCtx → StreamCtx
  | 0, x => x
  | n + 1, x =>
    match x.ops.find? (fun o => o.num == x.time + 1) with
    | some o => if o.done then advance n { x with time := x.time + 1, ops := x.ops.filter (fun p => p.num != o.num) } else x
    | none => x

/-- An operation is complete (R200). -/
def StreamCtx.finish (x : StreamCtx) (num : Nat) : StreamCtx :=
  advance x.ops.length { x with ops := mapWhere (fun (o : StreamOp) => o.num == num) (fun o => { o with done := true }) x.ops }

/-- An engine's outcome: done, with the state after it and the cause recorded (0: none); or stalled. -/
inductive EngineEnd where
  | stalled
  /-- An address on a package that has left the domain (R357). -/
  | lost (s : State) (a : Nat)
  | ended (s : State) (cause : Nat)

/-- The cause of a range: misaligned 6, unreachable 1 or 2; none when good; stalled is 255. -/
def State.rangeFail (s : State) (e : Seat) (a n kind align : Nat) : Nat :=
  if a % align ≠ 0 then 6
  else match s.rangeReach e a n kind with
    | none => 0
    | some (_, .fault) => 255
    | some (x, _) => match spaceOf x with
      | .global _ => 2
      | _ => 1

/-- A descriptor's 64-bit field, read whole (R200). -/
def State.descWord (s : State) (e : Seat) (desc o : Nat) : Nat := leGet (s.engByte (e.nth o)) (desc + o) 8

/-- A gather or scatter (R201). DATA is aligned as its rows are (log 102); one that fails with cause 1 or at INDEX writes nothing
(log 104). TABLE and DATA are judged by the rows that are moved, INDEX always (log 111). -/
def State.gather (s : State) (e : Seat) (desc : Nat) (declined : Bool) : EngineEnd :=
  let q := fun (o : Nat) => s.descWord e desc o
  let table := q 0
  let index := q 8
  let data := q 16
  let count := q 24 / 2 ^ 32
  let rowb := q 24 % 2 ^ 32
  let bound := q 32
  let op := q 40 % 256
  let torn := fun (l : List (Nat × List EngByte)) => s.copyTorn e l
  if q 40 / 256 ≠ 0 ∨ 1 < op ∨ q 48 ≠ 0 ∨ q 56 ≠ 0 ∨ rowb % 4 ≠ 0 ∨ rowb = 0 ∨ 65536 < rowb then .ended s 1
  else
    let idx := s.rangeFail e index (4 * count) 0 4
    if idx = 255 then (if declined then .ended s 2 else .stalled)
    else if idx ≠ 0 then .ended s idx
    else
      let at_ := fun (i : Nat) => leGet (s.engByte (e.nth (64 + i))) (index + 4 * i) 4
      let move := fun (i : Nat) =>
        if op = 0 then (table + at_ i * rowb, data + i * rowb) else (data + i * rowb, table + at_ i * rowb)
      let inb := fun (i : Nat) => decide (at_ i < bound)
      let used := (List.range count).filter (fun i => inb i || op == 0)
      let causes := used.map (fun i => max
        (if inb i then s.rangeFail e (move i).1 rowb 0 4 else 0) (s.rangeFail e (move i).2 rowb 1 4))
      let rows := used.map (fun i =>
        ((move i).2, if inb i then s.engRead e (move i).1 rowb else (List.range rowb).map (fun _ => some (0, false))))
      if causes.contains 255 && !declined then .stalled
      else match causes.filter (· ≠ 0) with
        | k :: _ => .ended (torn rows) (if k = 255 then 2 else k)
        | [] =>
          match (s.goneAt e ((index, 4 * count) :: used.map (fun i => ((move i).1, rowb))) 0).orElse
              (fun _ => s.goneAt e (rows.map (fun r => (r.1, r.2.length))) 1) with
          | some a => .lost (torn rows) a
          | none =>
          let s1 := rows.foldl (fun s r => s.engPut e r) s
          .ended s1 (if (List.range count).any (fun i => !inb i) then 3 else 0)

/-- A member of a collective: its context and its descriptor (R202). -/
structure Member where
  ctx : StreamCtx
  op : StreamOp
  seat : Seat

/-- Combine of R202 at one element of width `w`. -/
def collOp (op w : Nat) (flt : Bool) (a b : Nat) : Nat :=
  if flt then
    (match op with
     | 4 => fltOp .max w .rne a b 0
     | 5 => fltOp .min w .rne a b 0
     | _ => fltOp .add w .rne a b 0)
  else
    (match op with
     | 4 => intOp .max w false false a b 0
     | 5 => intOp .min w false false a b 0
     | _ => (a + b) % 2 ^ w)

/-- Combine at an element of a conversion type: FP64, FP32, BF16, FP16, s32 or s64 (R202). -/
def collVal (ty op : Nat) (xs : List Nat) : Nat :=
  match xs with
  | [] => 0
  | x :: rest =>
    if ty = 2 then
      rest.foldl (fun acc y => match op with
        | 4 => bf16.ne ((bf16.decode acc).maxNum (bf16.decode y))
        | 5 => bf16.ne ((bf16.decode acc).minNum (bf16.decode y))
        | _ => bf16.ne ((bf16.decode acc).add .rne (bf16.decode y))) x
    else rest.foldl (collOp op (codeWidth ty) (decide (ty < 4))) x

/-- A collective descriptor's 64-bit field. -/
def State.descField (s : State) (m : Member) (o : Nat) : Nat := s.descWord m.seat m.op.desc o

/-- The operation of a partition's context that joins a collective by its KEY. One of another partition joins none (R302; log 95). -/
def State.joinOf (s : State) (part wing ctx key : Nat) : Option Member :=
  (s.fl.ctxs.find? (fun c => c.wing == wing && c.ctx == ctx && c.part == part)).bind (fun c =>
    ((c.ops.filter (fun o => o.coll && !o.done && o.result.isNone)).map
      (fun o => ⟨c, o, s.seat o.block o.gang o.id false⟩ : StreamOp → Member)).find?
      (fun m => (s.rangeReach m.seat m.op.desc 64 0).isNone && s.descField m 0x28 == key))

/-- The 64-bit entries of a member's group table (R202). -/
def State.groupWords (s : State) (m : Member) : List Nat :=
  (List.range (s.descField m 0x20 % 2 ^ 16)).map (fun i =>
    leGet (s.engByte (m.seat.nth (64 + i))) (s.descField m 0x18 + 8 * i) 8)

/-- Its entries: context, package, wing. -/
def State.groupOf (s : State) (m : Member) : List (Nat × Nat × Nat) :=
  (s.groupWords m).map (fun x => (x / 2 ^ 16 % 256, x / 2 ^ 8 % 256, x % 256))

/-- The KEY-matched fields of a member: COUNT, TYPE, OP, ROOT, MEMBERS and the group. -/
def State.collKey (s : State) (m : Member) : List Nat × List (Nat × Nat × Nat) :=
  ([s.descField m 0x10, s.descField m 0x20 % 2 ^ 16], s.groupOf m)

/-- A collective's own fields are legal (R202). -/
def State.collBad (s : State) (m : Member) : Bool :=
  let x := s.descField m 0x10
  let y := s.descField m 0x20
  let ty := x / 2 ^ 24 % 32
  let n := y % 2 ^ 16
  x / 2 ^ 32 == 0 || x / 2 ^ 29 % 8 != 0 || x / 2 ^ 20 % 16 != 0 || x % 256 != 0 ||
  !(decide (ty < 4) || ty == 18 || ty == 19) || decide (5 < x / 2 ^ 16 % 16) ||
  decide (n < 2) || decide (256 < n) || decide (n ≤ y / 2 ^ 16 % 2 ^ 16) || y / 2 ^ 32 != 0 ||
  s.descField m 0x30 != 0 || s.descField m 0x38 != 0 || (x / 2 ^ 16 % 16 == 3 && decide (n ≤ x / 2 ^ 8 % 256))

/-- An entry of the group table is illegal (R202). -/
def State.groupBad (s : State) (m : Member) : Bool :=
  (s.groupWords m).any (fun x => decide (48 ≤ x % 256) || decide (64 ≤ x / 2 ^ 16 % 256) || decide (2 ^ 24 ≤ x))

/-- What a member's SRC and DST span in elements (R202). -/
def collSpans (op count n : Nat) (root : Bool) : Nat × Nat :=
  match op with
  | 1 => (count, n * count)
  | 2 => (n * count, count)
  | 3 => (if root then count else 0, count)
  | _ => (count, count)

/-- An element of a member's source, and whether it is poisoned; none where it cannot be read. -/
def State.collElem (s : State) (ty : Nat) (m : Member) (i : Nat) : EngByte :=
  let w := codeWidth ty
  let e := m.seat.nth (1024 + i)
  let a := s.descField m 0
  if (List.range (w / 8)).any (fun k => (s.engGet e (a + w / 8 * i + k)).isNone) then none
  else some (runBits (s.engByte e) a (w * i) w, s.engRangeBad e (a + w / 8 * i) (w / 8))

/-- The elements that member `m` of a collective receives, each with the poison of what it comes from (R202, R344). -/
def State.collOut (s : State) (ms : List Member) (count ty op root : Nat) (m : Member) : List EngByte :=
  let self := s.descField m 0x20 / 2 ^ 16 % 2 ^ 16
  let all := fun (i : Nat) =>
    let xs := ms.map (fun x => s.collElem ty x i)
    if xs.any (·.isNone) then none else some (collVal ty op (xs.filterMap (·.map (·.1))), xs.any (·.any (·.2)))
  (List.range (collSpans op count ms.length true).2).map (fun i =>
    match op with
    | 1 => ms[i / count]?.bind (fun x => s.collElem ty x (i % count))
    | 2 => all (self * count + i)
    | 3 => ms[root]?.bind (fun x => s.collElem ty x i)
    | _ => all i)

/-- Elements of width `w` as bytes. -/
def elemBytes (w : Nat) (l : List EngByte) : List EngByte :=
  l.flatMap (fun x => (List.range (w / 8)).map (fun i => x.map (fun v => (v.1 / 2 ^ (8 * i) % 256, v.2))))

/-- A group entry names another partition's context while a sealed partition is enabled (R315). -/
def State.sealedOff (s : State) (part : Nat) (p : Nat × Nat × Nat) : Bool :=
  s.sealedLive && p.2.1 == s.pkg.pkgid && s.fl.ctxs.any (fun c => c.wing == p.2.2 && c.ctx == p.1 && c.part != part)

/-- What a member receives of a collective: the cause to record, where its bytes go, and they (R202, R204). -/
structure CollEnd where
  member : Member
  cause : Nat
  dst : Nat
  data : List EngByte

/-- A member's end without the others' data: the new values of its destination are free (R204; log 86). -/
def State.collLost (s : State) (m : Member) (cause : Nat) : CollEnd :=
  let x := s.descField m 0x10
  let n := (collSpans (x / 2 ^ 16 % 16) (x / 2 ^ 32) (s.descField m 0x20 % 2 ^ 16) true).2 * (codeWidth (x / 2 ^ 24 % 32) / 8)
  let dst := s.descField m 8
  ⟨m, cause, dst, (List.range n).map (fun i => some (Config.lostByte s.choice (dst + i) % 256, false))⟩

/-- The cause of a range that a stream operation uses; 255 while it stalls at a missing page. -/
def State.streamFail (s : State) (m : Member) (a n kind align : Nat) : Nat :=
  let k := s.rangeFail m.seat a n kind align
  if k = 255 ∧ m.op.declined then 2 else k

/-- The cause of a member's group table. -/
def State.groupFail (s : State) (m : Member) : Nat := s.streamFail m (s.descField m 0x18) (8 * (s.descField m 0x20 % 2 ^ 16)) 0 8

/-- What a stream operation reads: its descriptor, and the tables and rows that the descriptor names now. -/
def State.streamRuns (s : State) (x : StreamCtx) (o : StreamOp) : List (Nat × Nat) :=
  let e := s.seat o.block o.gang o.id false
  let q := fun (k : Nat) => s.descWord e o.desc k
  let runs : List (Nat × Nat) :=
    if o.coll then
      let m : Member := ⟨x, o, e⟩
      let h := s.descField m 0x10
      [(q 0x18, 8 * (q 0x20 % 2 ^ 16)),
       (q 0, codeWidth (h / 2 ^ 24 % 32) / 8 * (collSpans (h / 2 ^ 16 % 16) (h / 2 ^ 32) (q 0x20 % 2 ^ 16) true).1)]
    else
      let count := q 24 / 2 ^ 32
      let rowb := q 24 % 2 ^ 32
      (q 8, 4 * count) :: (if q 40 % 256 = 1 then [(q 16, count * rowb)]
        else (List.range count).map (fun i => (q 0 + leGet (s.engByte (e.nth (64 + i))) (q 8 + 4 * i) 4 * rowb, rowb)))
  (o.desc, 64) :: runs

/-- What a stream operation reads is not to be had yet: a write to its lines waits under another key id (R310), or, where the advance
of a timeline releases what the operation has seen to all wings, a write over its bytes waits in the wing (R200, R219). -/
def State.streamWaits (s : State) (x : StreamCtx) (o : StreamOp) (wide : Bool) : Bool :=
  let e := s.seat o.block o.gang o.id false
  s.keyHeld e (s.streamRuns x o) || (wide && s.sliceMeets e (s.streamRuns x o))

/-- The context's scope is wider than its wing (R199). -/
def StreamCtx.wide (x : StreamCtx) : Bool := decide (3 ≤ x.scope)

/-- A collective is read when every member has submitted it: what each receives; none while one is missing or stalls (R202, R204).
A member whose group table cannot be used fails by itself, and the others wait (log 95). What is a misaligned buffer: log 110. -/
def State.collEnds (s : State) (m : Member) : Option (List CollEnd) :=
  if s.collBad m then some [⟨m, 1, 0, []⟩]
  else
    let x := s.descField m 0x10
    match s.groupFail m with
    | 255 => none
    | k + 1 => some [s.collLost m (k + 1)]
    | 0 =>
      let g := s.groupOf m
      if s.groupBad m then some [⟨m, 1, 0, []⟩]
      else if g.any (fun p => s.goneTo p.2.1 || s.sealedOff m.ctx.part p) then some [s.collLost m 5]
      else
        let ms := g.filterMap (fun p => if p.2.1 = s.pkg.pkgid then s.joinOf m.ctx.part p.2.2 p.1 (s.descField m 0x28) else none)
        if ms.length ≠ g.length ∨ ms.any (fun p => s.groupFail p != 0) ∨
            ms.any (fun p => s.streamWaits p.ctx p.op (ms.any (·.ctx.wide))) then none
        else if ms.any (fun p => s.collBad p || s.groupBad p) then some (ms.map (fun p => ⟨p, 1, 0, []⟩))
        else if ms.any (fun p => s.collKey p != s.collKey m) then some (ms.map (fun p => s.collLost p 4))
        else
          let n := ms.length
          let op := x / 2 ^ 16 % 16
          let ty := x / 2 ^ 24 % 32
          let count := x / 2 ^ 32
          let root := x / 2 ^ 8 % 256
          let wb := codeWidth ty / 8
          let causes := ((List.range n).zip ms).map (fun p =>
            let sp := collSpans op count n (p.1 == root)
            let a := s.streamFail p.2 (s.descField p.2 0) (wb * sp.1) 0 wb
            let k := if a = 0 then s.streamFail p.2 (s.descField p.2 8) (wb * sp.2) 1 wb else a
            if k = 0 ∧ ((s.goneAt p.2.seat [(s.descField p.2 0, wb * sp.1)] 0).isSome ||
                (s.goneAt p.2.seat [(s.descField p.2 8, wb * sp.2)] 1).isSome) then 5 else k)
          if causes.contains 255 then none
          else
            let k := (causes.filter (· ≠ 0)).headD 0
            some (ms.map (fun p => ⟨p, k, s.descField p 8, elemBytes (8 * wb) (s.collOut ms count ty op root p)⟩))

/-- The operation of a context is complete, with its cause. -/
def State.streamDone (s : State) (x : StreamCtx) (num cause : Nat) : State :=
  s.modCtx x.wing x.ctx (fun y => (if cause = 0 then y else y.fail num cause).finish num)

/-- What a collective gave a member stays with its operation until it is written. -/
def State.keepEnd (s : State) (r : CollEnd) : State :=
  let keep := fun (o : StreamOp) => { o with result := some (r.cause, r.dst, r.data) }
  s.modCtx r.member.ctx.wing r.member.ctx.ctx (fun y =>
    { y with ops := mapWhere (fun (o : StreamOp) => o.num == r.member.op.num) keep y.ops })

/-- A member's destination is written and its operation complete; none while its pages are missing (R202, R204). -/
def State.collWritten (s : State) (x : StreamCtx) (o : StreamOp) (r : Nat × Nat × List EngByte) : Option State :=
  let e := s.seat o.block o.gang o.id false
  let data := [(r.2.1, r.2.2)]
  if r.1 ≠ 0 then some ((s.copyTorn e data).streamDone x o.num r.1)
  else match s.rangeReach e r.2.1 r.2.2.length 1 with
    | some (_, .fault) => if o.declined then some ((s.copyTorn e data).streamDone x o.num 2) else none
    | some (_, _) => some ((s.copyTorn e data).streamDone x o.num 2)
    | none => some ((s.engPut e r.2).streamDone x o.num 0)

/-- A stream operation completes (R200); the first member of a collective to do so reads every member's source. -/
def State.streamEnds (s : State) (x : StreamCtx) (o : StreamOp) : Option State :=
  let e := s.seat o.block o.gang o.id false
  if o.done || s.errs.deadStream.contains x.wing || s.dieOff x.wing || s.fabricWaits x.part then none
  else match o.result with
    | some r => s.collWritten x o r
    | none =>
      if s.streamWaits x o x.wide then none
      else
      let s := s.engFill e (s.streamRuns x o)
      match s.rangeReach e o.desc 64 0 with
      | some (_, .fault) => if o.declined then some (s.streamDone x o.num 2) else none
      | some (_, _) => some (s.streamDone x o.num 2)
      | none =>
        if o.coll then (s.collEnds ⟨x, o, e⟩).bind (fun l =>
          let read := fun (t : State) (r : CollEnd) =>
            (t.engFill r.member.seat (s.streamRuns r.member.ctx r.member.op)).keepEnd r
          let t := l.foldl read { s with choice := s.choice + 1 }
          match l.find? (fun r => r.member.op.id == o.id) with
          | some r => some ((t.collWritten x o (r.cause, r.dst, r.data)).getD t)
          | none => none)
        else match s.gather e o.desc o.declined with
          | .stalled => none
          | .lost t a => some ((t.streamDone x o.num 0).engLost o.gang o.id o.slice none a)
          | .ended t k => some (t.streamDone x o.num k)

def execStreamOpComplete (wing ctx num : Nat) (s : State) : StepOut :=
  event ((s.fl.ctxs.find? (fun x => x.wing == wing && x.ctx == ctx)).bind (fun x =>
    (x.ops.find? (fun o => o.num == num)).bind (s.streamEnds x)))

/-! ### Code (R67, R346) -/

/-- A fetched code word arrives; a poisoned one raises SOFT at that word (R346), or in a twin's one copy alone TWIN_MISMATCH in both
(R349). -/
def execCodeFetchArrival (gang : Nat) (slice : Option Nat) (poisoned : Bool) (s : State) : StepOut :=
  event ((s.gang? gang).bind (fun g => (g.lead slice).map (fun x =>
    if poisoned || s.poisoned (.code gang slice) then
      (s.clearPoison (fun e => e == .code gang slice || (s.otherCopy g).any (fun o => e == .code o.id slice))).trapAtNext
        ⟨gang, slice⟩ ⟨0x15, x.point.pc, g.activeOf slice, 0, 7⟩ (fun o => s.poisoned (.code o.id slice))
    else s)))

/-! ### Parks (R182, R333) -/

/-- Pages installed for a partition in place of those that they overlap (R177). -/
def State.mapPages (s : State) (part : Nat) (pages : List PageSpec) : State :=
  pages.foldl (fun s p => { s with mem := { s.mem with pages := ⟨part, p, none⟩ :: s.mem.pages.filter (fun q =>
    !(q.part == part && overlaps q.spec.vbase q.spec.size p.vbase p.size)) } }) s

/-- The partition for which a fault stands: of a park, a copy or a stream operation. -/
def State.faultPart (s : State) (id : Nat) : Option Nat :=
  let blk : Option Nat := match s.park? id with
    | some p => (s.gang? p.gang).map (·.block)
    | none => match s.fl.copies.find? (fun c => c.id == id) with
      | some c => some c.block
      | none => match s.view? id with
        | some v => some v.block
        | none => (s.fl.ctxs.findSome? (fun (x : StreamCtx) => x.ops.find? (fun o => o.id == id))).map (fun o => o.block)
  (blk.bind s.block?).map (fun b => b.part)

/-- The supervisor resolves a fault (R182): its pages are installed and the park may replay. -/
def execFaultResolve (park : Nat) (pages : List PageSpec) (s : State) : StepOut :=
  event ((s.faultPart park).map (fun part => (s.mapPages part pages).modPark park (fun p => { p with ready := true })))

/-- A resolved park replays for its unfinished lanes (R333): the easel issues the instruction again. -/
def State.replayPark (s : State) (p : Park) : State :=
  s.modGang p.gang (fun g => g.modAgent p.slice (fun x =>
    if x.hold = .page p.id then
      { x with hold := .none, earliest := max x.earliest (s.pkg.clock + 1)
               replay := some (match x.replay with
                 | some m => m &&& p.unfinished
                 | none => p.unfinished) }
    else x))

/-- The park waits at its instruction. -/
def State.parkHeld (s : State) (p : Park) : Bool :=
  match s.gang? p.gang with
  | some g => (g.members p.slice).any (fun i => match g.slice? i with
    | some x => x.hold == .page p.id
    | none => false)
  | none => false

/-- Enabled once the fault is resolved, or when none of the lanes it stands for is left. -/
def execParkReplay (park : Nat) (s : State) : StepOut :=
  event ((s.park? park).bind (fun p =>
    let left := match s.gang? p.gang with
      | some g => g.live &&& p.unfinished
      | none => 0
    if (p.ready || decide (left = 0)) && s.parkHeld p then some ((s.modPark park (fun p => { p with ready := true })).replayPark p)
    else none))

/-- The supervisor declines a fault (R333): a park's lanes join the refused mask and the instruction, issued again
for no lane, raises PROTECTION; a copy or stream operation fails. -/
def State.decline (s : State) (id : Nat) : State :=
  match s.park? id with
  | some p =>
    let s1 := s.modPark id (fun p =>
      { p with unfinished := 0, refused := p.refused ||| p.unfinished, faults := [], ready := true
               refusals := p.refusals ++ p.faults.map (fun f => (f.1, f.2.1, s.declineAux ((s.faultPart id).getD 0) f.2.1)) })
    let s2 := s1.modGang p.gang (fun g => g.modAgent p.slice (fun x =>
      if x.hold = .page id then { x with hold := .none, earliest := max x.earliest (s.pkg.clock + 1)
                                         replay := if p.op.isSome then some 0 else x.replay }
      else x))
    match p.op with
    | some o => (s2.modOp o (fun o => { o with parked := false })).opDone o
    | none => s2
  | none => match s.view? id with
  | some v => s.declineView v
  | none =>
    let copies := mapWhere (fun (c : Copy) => c.id == id) (fun c => { c with declined := true }) s.fl.copies
    let ops := fun (x : StreamCtx) => mapWhere (fun (o : StreamOp) => o.id == id) (fun o => { o with declined := true }) x.ops
    { s with fl := { s.fl with copies := copies, ctxs := s.fl.ctxs.map (fun x => { x with ops := ops x }) } }

def execFaultDecline (park : Nat) (s : State) : StepOut := event ((s.faultPart park).map (fun _ => s.decline park))

end Sys2Proof.Machine
end

