-- ==== Sys2Proof/Machine/Mtx.lean ====
section
/-!
DEFINITION. Machine/Mtx.lean: the MTX instructions: their checks and what they hand to the matrix engine
(07 R139 to R160, 08 R161 to R175). What the engine then does is in EvEngine.lean.
-/

namespace Sys2Proof.Machine

/-! ### The checks of every MTX instruction (R140, R158 to R160, R175) -/

/-- The matrix engine is absent: TRAPAUX of MATRIX_ABSENT (R158, R159). -/
def Ctx.absent (c : Ctx) : Option Nat :=
  if c.hdr.nomatrix then some 0 else if c.blk.engineLost then some 2 else none

/-- MATRIX_ABSENT, then ILLEGAL_FORMAT with a cause that is not 0, then the instruction's own part (R160). -/
def Ctx.mtx (c : Ctx) (s : State) (cause : Nat) (k : State → Res) : Res :=
  match c.absent with
  | some aux => c.raise s 0x17 aux
  | none => if cause ≠ 0 then c.raise s 0x03 cause else k s

/-- The format block as read at issue (R139). -/
def Ctx.fb (c : Ctx) : FBlock := fblockOf (c.C 0)

/-- The format cause of an instruction with a format block and a format code of its own (R140, cause 8). -/
def Ctx.fmtCause (c : Ctx) (code : Nat) : Nat :=
  if fblockCause c.fb ≠ 0 then fblockCause c.fb else if 12 ≤ code ∧ code ≤ 14 then 8 else 0

/-- The format cause of an MMA (R140, cause 7). -/
def Ctx.mmaCause (c : Ctx) : Nat :=
  if fblockCause c.fb ≠ 0 then fblockCause c.fb
  else if scaleLen c.fb.sbl ≠ 0 ∧ termsOf (modF c.f 6 0) % scaleLen c.fb.sbl ≠ 0 then 7 else 0

/-- The format cause on the feedback path (R175). -/
def Ctx.loopCause (c : Ctx) : Nat :=
  if fblockCause c.fb ≠ 0 then fblockCause c.fb else if isWide c.fb.af then 0 else 9

/-! ### Bands and their operands (R144) -/

/-- The bands acted on, each with its supplying lane (R144). -/
def Ctx.bands (c : Ctx) (all : Bool) : List (Nat × Nat) :=
  if !c.any then []
  else if all then (List.range 4).map (fun q => (q, c.low))
  else (List.range 4).filterMap (fun q =>
    if c.exec &&& quarterLanes q = 0 then none else some (q, lowLane (c.exec &&& quarterLanes q)))

/-- An address operand of a band: offset when it is a q register or ALL is set (R144). -/
def bandAddr (base : Reg) (qbit all : Bool) (q step : Nat) : Nat :=
  (base.toNat + if qbit || all then q * step else 0) % 2 ^ 64

/-- An operand of a band in memory: runs of bytes, and what R144 asks of them. -/
structure Span where
  lane : Nat
  qreg : Bool
  /-- Only the scratchpad aperture will do. -/
  only : Bool
  align : Nat
  /-- 0 read, 1 write. -/
  kind : Nat
  runs : List (Nat × Nat)

/-- The ADDRESS cause of a run (R144, R176). -/
def Span.addrCause (x : Span) (a n : Nat) : Nat :=
  match spaceOf a with
  | .nowhere => 1
  | .stack _ => 3
  | .scratch _ => 0
  | .global v => if x.only then 3 else if 2 ^ 56 < v + n then 1 else 0

/-- The first address of a run that fails: past the global window or the scratchpad allocation where the run starts inside. -/
def firstOver (h : LaunchHdr) (a : Nat) : Nat :=
  match spaceOf a with
  | .scratch o => scratchBase + max o h.scratch
  | _ => a

/-- The first faulting address of a span under a check, with TRAPAUX (R144, steps 1 to 3). -/
def Span.fails (x : Span) (h : LaunchHdr) (step : Nat) : Option (Nat × Nat) :=
  (x.runs.find? (fun r => match step with
    | 0 => x.addrCause r.1 r.2 != 0
    | 1 => r.1 % x.align != 0
    | _ => scratchOver h r.1 r.2)).map (fun r => match step with
      | 0 => (if x.addrCause r.1 0 = 0 then 2 ^ 56 else r.1, x.addrCause r.1 r.2)
      | 1 => (r.1, 0)
      | _ => (firstOver h r.1, 0))

/-- The lanes that a failing operand puts into TRAPLANES (R144). -/
def Ctx.spanLanes (c : Ctx) (l : List Span) : Mask :=
  l.foldl (fun m x => m ||| (if x.qreg then c.exec else laneBit x.lane)) 0

/-- ADDRESS, MISALIGNED and SCRATCH_BOUNDS over every band (R144). Of operands that fail alike in one band the first is reported: A, B,
scale tables (log 98). -/
def Ctx.spanCheck (c : Ctx) (s : State) (l : List Span) : Option Res :=
  ([(0, 0x0B), (1, 0x0E), (2, 0x0A)] : List (Nat × Nat)).findSome? (fun p =>
    ((l.findSome? (fun x => x.fails c.hdr p.1))).map (fun r =>
      c.raiseAt s p.2 (c.spanLanes (l.filter (fun x => (x.fails c.hdr p.1).isSome))) r.1 r.2))

/-- The first point of a span that does not translate: its address and how (R145). -/
def Ctx.spanXlat (c : Ctx) (s : State) (x : Span) : Option (Nat × Xlat) :=
  x.runs.findSome? (fun r => match spaceOf r.1 with
    | .global v => (pagePoints v r.2).findSome? (fun a => match s.translate c.blk.part a x.kind with
      | .ok _ _ => none
      | t => some (a, t))
    | _ => none)

/-- The agent parks with every executing lane unfinished and nothing done (R145). -/
def Ctx.parkWhole (c : Ctx) (s : State) (faults : List (Nat × Nat × Nat)) : Res :=
  let n := s.newId
  let park : Park :=
    { id := n.1, gang := c.g.id, slice := c.aid.slice, pc := c.pc, unfinished := c.exec, refused := 0
      faults := faults, refusals := [], op := none, ready := false }
  .hold { n.2 with fl := { n.2.fl with parks := n.2.fl.parks ++ [park] } } (.page n.1)

/-- Every span translates; a missing page parks, a refused one raises PROTECTION (R144, R145). -/
def Ctx.translated (c : Ctx) (s : State) (l : List Span) (k : State → Res) : Res :=
  let bad := l.filterMap (fun x => (c.spanXlat s x).map (fun t => (x, t)))
  let faults := bad.filterMap (fun p => match p.2.2 with
    | .fault => some (p.1.lane, p.2.1, p.1.kind)
    | _ => none)
  if faults ≠ [] then c.parkWhole s faults
  else match bad with
    | [] => k s
    | p :: _ => .trap s (c.mkTrap 0x0D (c.spanLanes (bad.map (·.1))) p.2.1 (match p.2.2 with
        | .refused aux => aux
        | _ => 0)) c.lim

/-- The instruction's pages are translated before anything is accepted (R145); a declined park raises PROTECTION. -/
def Ctx.pages (c : Ctx) (s : State) (l : List Span) (k : State → Res) : Res :=
  match s.parkOf c.aid with
  | none => c.translated s l k
  | some p =>
    if p.refused ≠ 0 then
      .trap (s.dropPark p.id) (c.mkTrap 0x0D (p.refused &&& c.act) ((p.refusals.map (fun r => r.2.1)).headD 0)
        ((p.refusals.map (fun r => r.2.2)).headD 0)) c.lim
    else c.translated (s.dropPark p.id) l k

/-! ### The queue (R142) -/

/-- An MNORM whose result is known has left the queue (R172). -/
def MxJob.finished (j : MxJob) : Bool :=
  match j.op with
  | .mnorm _ _ d => d.isSome
  | _ => false

def MxJob.isMiter (j : MxJob) : Bool :=
  match j.op with
  | .miter .. => true
  | _ => false

/-- The entries a job holds: one for each band it names, one where it names none (PLANE). -/
def MxJob.entries (j : MxJob) : Nat := if j.finished then 0 else max 1 j.claims.length

/-- The engine of a cluster has room for `n` entries more (R142). -/
def State.mxRoom (s : State) (cluster n : Nat) : Bool :=
  decide (((s.fl.jobs.filter (fun j => j.cluster == cluster)).foldl (fun m j => m + j.entries) 0) + n ≤ 64)

/-- The four bands of a tile. -/
def tileBands (t : Nat) : List (Nat × Nat) := (List.range 4).map (fun q => (t, q))

/-- An accepted operation of this instruction. -/
def Ctx.job (c : Ctx) (id tile : Nat) (claims : List (Nat × Nat)) (op : MxOp) : MxJob :=
  { id := id, gang := c.g.id, slice := c.aid.slice, block := c.g.block, cluster := c.blk.cluster, lanes := c.exec
    tile := tile, fb := c.C 0, claims := claims, op := op, pc := c.pc, at_ := c.tag }

/-- The numbers kept for the stores of one row: a store for each grain that its bytes touch. -/
def rowIds : Nat := 64

/-- The numbers that a job takes: its own, and those for the stores of its tile's rows. -/
def jobIds : Nat := 1 + 32 * rowIds

/-- All entries of an instruction are accepted together, or it holds (R142). The numbers after a job's own are for the stores of its
rows, which stand by them among the gang's operations in the place of the job's issue (R143). -/
def Ctx.accept (c : Ctx) (s : State) (l : List (Nat × List (Nat × Nat) × MxOp)) (k : State → Res) : Res :=
  let n := l.foldl (fun m x => m + max 1 x.2.1.length) 0
  if !s.mxRoom c.blk.cluster n then .hold s (.mxQueue n)
  else k (l.foldl (fun s x =>
    let m := s.newId
    { m.2 with fresh := m.1 + jobIds, fl := { m.2.fl with jobs := m.2.fl.jobs ++ [c.job m.1 x.1 x.2.1 x.2.2] } }) s)

/-- A quarter-issued instruction: its operands' checks, its pages, then one job for each band (R144, R145). -/
def Ctx.quarters (c : Ctx) (s : State) (spans : List Span) (jobs : List (Nat × List (Nat × Nat) × MxOp)) : Res :=
  if !c.any then .done s
  else match c.spanCheck s spans with
    | some t => t
    | none => c.pages s spans (fun s => c.accept s jobs .done)

/-! ### MMA (R146, R147) -/

/-- The elements' alignment of a format: at least `m`, and the element size from 8 bits (R146, R152). -/
def elemAlign (m w : Nat) : Nat := if 8 ≤ w then max m (w / 8) else m

/-- MMA's addresses in a band. -/
def Ctx.mmaA (c : Ctx) (q lane : Nat) : Nat :=
  bandAddr (c.A lane) c.f.aq false q (planedBytes c.fb.af (termsOf (modF c.f 6 0)))

def Ctx.mmaSpans (c : Ctx) : List Span :=
  let k := termsOf (modF c.f 6 0)
  (c.bands false).flatMap (fun p =>
    [Span.mk p.2 c.f.aq true 32 0 [(c.mmaA p.1 p.2, planedBytes c.fb.af k)],
     Span.mk p.2 c.f.bq false (elemAlign 4 (codeWidth c.fb.bf)) 0 [((c.B p.2).toNat, bBytes c.fb k)],
     Span.mk p.2 true true 1 0 (aScaleRuns c.fb k p.1 ++ bScaleRuns c.fb k)])

/-- MMA hands one entry for each band to the engine (R147). -/
def execMma (f : Fields) (s : State) : StepOut :=
  issueOp 3 0x01 f
    { ghost := true
      run := fun (c : Ctx) s => c.mtx s c.mmaCause (fun s =>
        c.quarters s c.mmaSpans ((c.bands false).map (fun p =>
          (f.d.toNat, [(f.d.toNat, p.1)], .mma (c.mmaA p.1 p.2) (c.B p.2).toNat (modF f 6 0))))) } s

/-! ### MZERO, ACLD, ACST (R151, R152) -/

def execMzero (f : Fields) (s : State) : StepOut :=
  issueOp 3 0x02 f
    { ghost := true
      run := fun (c : Ctx) s => c.mtx s 0 (fun s =>
        c.quarters s [] ((c.bands (modBit f 0)).map (fun p => (f.d.toNat, [(f.d.toNat, p.1)], .mzero)))) } s

/-- The pitch and the address of a band's first row (R144, R152). -/
def Ctx.rowPitch (c : Ctx) (lane : Nat) : Nat := elem 32 0 (c.B lane)
def Ctx.rowBase (c : Ctx) (q lane : Nat) : Nat :=
  bandAddr (c.A lane) c.f.aq (modBit c.f 13) q (8 * c.rowPitch lane)

def Ctx.rowSpans (c : Ctx) (kind : Nat) : List Span :=
  let mf := modF c.f 3 0
  (c.bands (modBit c.f 13)).map (fun p =>
    Span.mk p.2 c.f.aq false (elemAlign 4 (rowWidth mf)) kind (rowRuns (c.rowBase p.1 p.2) (c.rowPitch p.2) mf))

/-- SE (R152). -/
def scaleExpOf (f : Fields) : Int := sext 8 (modF f 11 4)

def execAcld (f : Fields) (s : State) : StepOut :=
  issueOp 3 0x03 f
    { ghost := true
      run := fun (c : Ctx) s => c.mtx s (c.fmtCause (modF f 3 0)) (fun s =>
        c.quarters s (c.rowSpans 0) ((c.bands (modBit f 13)).map (fun p =>
          (f.d.toNat, [(f.d.toNat, p.1)], .acld (c.rowBase p.1 p.2) (c.rowPitch p.2) (modF f 3 0) (scaleExpOf f))))) } s

def execAcst (f : Fields) (s : State) : StepOut :=
  issueOp 3 0x04 f
    { outward := true, ghost := true
      run := fun (c : Ctx) s => c.mtx s (c.fmtCause (modF f 3 0)) (fun s => c.gated s (fun s =>
        c.quarters s (c.rowSpans 1) ((c.bands (modBit f 13)).map (fun p =>
          (f.d.toNat, [(f.d.toNat, p.1)],
           .acst (c.rowBase p.1 p.2) (c.rowPitch p.2) (modF f 3 0) (scaleExpOf f) f.sat))))) } s

/-! ### ACRD, ACWR (R155, R156) -/

/-- The registers that an ACRD awaits; p7 discards (R155). -/
def acrdRegs (f : Fields) : List (RFile × Nat) :=
  (.d, f.d.toNat) :: (if f.b.toNat = 7 then [] else [(.p, f.b.toNat)])

def execAcrd (f : Fields) (s : State) : StepOut :=
  issueOp 3 0x05 f
    { ghost := true
      run := fun (c : Ctx) s => c.mtx s (c.fmtCause (modF f 11 8)) (fun s =>
        if !c.any then .done s
        else c.accept s [(f.a.toNat, [(f.a.toNat, modF f 7 3 / 8)],
            .acrd f.d.toNat f.b.toNat (modF f 7 3) (modF f 11 8) f.sat (tokOf f))] (fun s =>
          .done (s.modGang c.g.id (fun g => g.track c (tokOf f) 32 (acrdRegs f) c.exec)))) } s

def execAcwr (f : Fields) (s : State) : StepOut :=
  issueOp 3 0x06 f
    { ghost := true
      run := fun (c : Ctx) s => c.mtx s (c.fmtCause (modF f 3 0)) (fun s =>
        if !c.any then .done s
        else c.accept s [(f.d.toNat, [(f.d.toNat, modF f 8 4 / 8)],
            .acwr (modF f 8 4) (modF f 3 0) ((lanesOf c.exec).map (fun l => (l, c.A l))))] .done) } s

/-! ### PLANE (R157) -/

def Ctx.planeJobs (c : Ctx) : List (Nat × Nat × Nat) :=
  let fmt := modF c.f 3 0
  let k := termsOf (modF c.f 10 4)
  (c.bands false).map (fun p =>
    (p.2, bandAddr (c.A p.2) c.f.aq false p.1 (planedBytes fmt k), bandAddr (c.B p.2) c.f.bq false p.1 (k * codeWidth fmt)))

def Ctx.planeSpans (c : Ctx) : List Span :=
  let fmt := modF c.f 3 0
  let k := termsOf (modF c.f 10 4)
  c.planeJobs.flatMap (fun p =>
    [Span.mk p.1 c.f.aq true 32 1 [(p.2.1, planedBytes fmt k)],
     Span.mk p.1 c.f.bq true (elemAlign 4 (codeWidth fmt)) 0 [(p.2.2, k * codeWidth fmt)]])

def execPlane (f : Fields) (s : State) : StepOut :=
  issueOp 3 0x07 f
    { outward := true, ghost := true
      run := fun (c : Ctx) s => c.mtx s (if 12 ≤ modF f 3 0 then 8 else 0) (fun s => c.gated s (fun s =>
        c.quarters s c.planeSpans (c.planeJobs.map (fun p =>
          (0, [], .plane p.2.1 p.2.2 (modF f 10 4) (modF f 3 0)))))) } s

/-! ### MCOEF, MPOLY, MITER (R163 to R166) -/

/-- A coefficient widened to FP64 (R163). -/
def coefVal (f : Fields) (x : Reg) : Reg :=
  let t := if immOf f then fp16 else match modF f 1 0 with
    | 0 => fp64
    | 1 => fp32
    | _ => fp16
  BitVec.ofNat 64 (fp64.ne (t.decode (x.toNat % 2 ^ t.width)))

def execMcoef (f : Fields) (s : State) : StepOut :=
  issueOp 3 0x10 f
    { run := fun (c : Ctx) s => c.mtx s 0 (fun s =>
        .done (c.putQ s .c f.d.toNat (coefVal f (if immOf f then BitVec.ofNat 64 (imm16 f) else c.A c.low)))) } s

/-- A coefficient as captured at issue (R162). -/
def Ctx.coef (c : Ctx) (i : Nat) : Reg := c.rd .c i 0

def execMpoly (f : Fields) (s : State) : StepOut :=
  issueOp 3 0x11 f
    { ghost := true
      run := fun (c : Ctx) s => c.mtx s c.loopCause (fun s =>
        if !c.any then .done s
        else
          let claims := tileBands f.d.toNat ++ (if f.a = f.d then [] else tileBands f.a.toNat)
          c.accept s [(f.d.toNat, claims, .mpoly f.a.toNat (modF f 8 4 + 1) (modF f 3 0)
            ((List.range (modF f 3 0 + 1)).map c.coef))] .done) } s

/-- A MITER's cap (R165). -/
def Ctx.cap (c : Ctx) : Nat := if c.f.bq then (c.B 0).toNat % 2 ^ 16 else modF c.f 5 0

/-- MITER is accepted and then runs unit by unit (R165 to R169). RESID of its record is 0 until unit 0 has run (log 99). -/
def execMiter (f : Fields) (s : State) : StepOut :=
  issueOp 3 0x12 f
    { ghost := true
      late := fun (c : Ctx) _ => f.bq && decide (2 ^ 16 ≤ (c.B 0).toNat)
      run := fun (c : Ctx) s => c.mtx s c.loopCause (fun s =>
        if !c.any then .done s
        else c.accept s [(f.d.toNat, (List.range 4).flatMap (fun i => tileBands (f.d.toNat + i)),
            .miter (modBit f 14) (modBit f 13) (modF f 12 11) (modF f 10 6 + 1) c.cap 0 false 0
              ((List.range 4).map c.coef) (c.coef 14) (c.coef 15))] .done) } s

/-! ### MNORM, MISTAT (R172, R173) -/

/-- Operations of the gang are still in the engine (R172, R173). -/
def State.mxBusy (s : State) (gid : Nat) : Bool := s.fl.jobs.any (fun j => j.gang == gid && !j.finished)

/-- The result of an MNORM that the agent waits for: known, or not yet; none when it waits for none (R172). -/
def State.mnormOf (s : State) (h : Hold) : Option (Nat × Option (Reg × Bool)) :=
  match h with
  | .mxResult id => (s.job? id).bind (fun j => match j.op with
    | .mnorm _ _ d => some (id, d)
    | _ => none)
  | _ => none

/-- MNORM drains the gang's MTX work, is accepted, holds until its result is known and then writes it (R172). Once accepted it
raises no ILLEGAL_FORMAT (R175). -/
def execMnorm (f : Fields) (s : State) : StepOut :=
  issueOp 3 0x13 f
    { outside := true
      run := fun (c : Ctx) s => c.mtx s (if (s.mnormOf c.lead.hold).isSome then 0 else c.loopCause) (fun s =>
        if !c.any then .done s
        else match s.mnormOf c.lead.hold with
          | some (id, some v) =>
            .done ((c.putQ (s.dropJob id) .q f.d.toNat v.1).markQ c.g.id f.d.toNat v.2)
          | some (id, none) => .hold s (.mxResult id)
          | none =>
            if s.mxBusy c.g.id then .hold s .mxDrain
            else c.accept s [(f.a.toNat, tileBands f.a.toNat, .mnorm (modF f 6 2 + 1) (modF f 1 0) none)]
              (fun t => .hold t (.mxResult s.fresh))) } s

/-- MISTAT's value, which takes the poison of what it reads (R173, R344). -/
def GangRegs.mistat (r : GangRegs) (res : Bool) : Reg :=
  if res then r.miResid else BitVec.ofNat 64 (r.miStatus.toNat % 256 + 2 ^ 16 * (r.miCount.toNat % 2 ^ 16))

def execMistat (f : Fields) (s : State) : StepOut :=
  issueOp 3 0x14 f
    { outside := true
      run := fun (c : Ctx) s => c.mtx s 0 (fun s =>
        if s.mxBusy c.g.id then .hold s .mxDrain
        else
          let t := c.putQ s .q f.d.toNat (c.g.regs.mistat (modBit f 0))
          .done (if c.any then t.markQ c.g.id f.d.toNat c.g.regs.miBad else t)) } s

end Sys2Proof.Machine
end

