-- ==== Sys2Proof/Machine/Ctl.lean ====
section
/-!
DEFINITION. Machine/Ctl.lean: the CTL instructions (11 R225 to R247, 02 R31 to R34, R46).
-/

namespace Sys2Proof.Machine

/-! ### Slices of the agent -/

/-- The slices of the agent that have an active lane, each with its active lanes. -/
def Ctx.running (c : Ctx) : List (Nat × Slice) :=
  (c.g.members c.aid.slice).filterMap (fun i => (c.g.slice? i).bind (fun x =>
    if x.active &&& c.g.live = 0 then none else some (i, x)))

/-- The active lanes of the slices for which `p` holds. -/
def Ctx.lanesWhere (c : Ctx) (p : Nat → Slice → Bool) : Mask :=
  c.running.foldl (fun m q => if p q.1 q.2 then m ||| (q.2.active &&& c.g.live) else m) 0

/-- Each running slice becomes what `f` makes of it. -/
def Ctx.send (c : Ctx) (s : State) (f : Nat → Slice → Slice) : State :=
  s.modGang c.g.id (fun g => c.running.foldl (fun g q => g.modSlice q.1 (f q.1)) g)

/-- Code words that the instruction checks must be there (R67). -/
def Ctx.needCode (c : Ctx) (s : State) (l : List Nat) (k : Res) : Res :=
  match l.find? (s.codeHeld c.blk.part) with
  | some a => .hold s (.code a)
  | none => k

/-- ILLEGAL_TARGET at a transfer (R78). -/
def Ctx.badTargetTrap (c : Ctx) (s : State) (a : Nat) (lanes : Mask) : Option Trap :=
  if s.badTarget c.blk.part c.hdr a then some (c.mkTrap 0x04 lanes 0 a) else none

/-- An address some words from the instruction word (R76). -/
def Ctx.words18 (c : Ctx) : Nat := wrap 64 (c.pc + 4 * sext 18 (off18 c.f))
def Ctx.joinAddr (c : Ctx) : Nat := wrap 64 (c.pc + 4 * sext 15 c.f.mod.toNat)

/-- LOOP_SHAPE, cause 5, of the slices for which it holds (R233). -/
def Ctx.loopTrap (c : Ctx) (s : State) (bad : Mask) (k : Res) : Res :=
  if bad ≠ 0 then .trap s (c.mkTrap 0x07 bad 0 5) c.lim else k

/-! ### BRA (R32, R76, R226) -/

/-- A BRA's slice: where it goes, and whether a loop would be left below its depth (R32, R233). -/
def Ctx.branch (c : Ctx) (x : Slice) : Slice × Bool :=
  let tk := x.active &&& c.exec
  let ft := x.active &&& ~~~c.exec
  let fall := x.point.skip c.words
  if tk = 0 then ({ x with point := fall }, false)
  else if ft = 0 then x.goTo (.atHeader c.words18)
  else ({ x with active := tk, deferred := ⟨ft, fall, c.joinAddr, 0, false⟩ :: x.deferred }).goTo (.atHeader c.words18)

/-- The slice would push an eighth entry (R34). -/
def Ctx.overflows (c : Ctx) (x : Slice) : Bool :=
  decide (x.active &&& c.exec ≠ 0) && decide (x.active &&& ~~~c.exec ≠ 0) && decide (7 ≤ x.deferred.length)

/-- ILLEGAL_TARGET of a BRA: its target, whatever the guard, then its join (R78, R226). It concerns the lanes that would have
taken the transfer; where none would, the agent's active lanes (log 77). -/
def Ctx.braTarget (c : Ctx) (s : State) : Option Trap :=
  let lanes := if c.any then c.exec else c.act
  match c.badTargetTrap s c.words18 lanes with
  | some t => some t
  | none => if c.f.g ≠ 7 ∧ !inCode c.hdr c.joinAddr then some (c.mkTrap 0x04 lanes 0 c.joinAddr) else none

/-- The word at a transfer's target decides whether it is one (R78). -/
def Ctx.targetWord (c : Ctx) : List Nat := if inCode c.hdr c.words18 then [c.words18] else []

def braBody : Body :=
  { needs := fun (c : Ctx) => c.targetWord
    target := fun (c : Ctx) s => c.braTarget s
    run := fun (c : Ctx) s =>
      let bad := c.lanesWhere (fun _ x => c.overflows x)
      if bad ≠ 0 then .trap s (c.mkTrap 0x1A bad 0 1) c.lim
      else c.loopTrap s (c.lanesWhere (fun _ x => (c.branch x).2)) (.jump (c.send s (fun _ x => (c.branch x).1))) }

/-- BRA without a guard (R226). -/
def execBra (f : Fields) (s : State) : StepOut := issueOp 5 0x01 f braBody s

/-- BRA under a guard (R32). -/
def execBraGuarded (f : Fields) (s : State) : StepOut := issueOp 5 0x01 f braBody s

/-! ### BRX, CALLX (R227, R228) -/

/-- A slice's index, table address and entry address (R227). -/
structure Entry8 where
  slice : Nat
  x : Slice
  lanes : Mask
  index : Nat
  table : Nat
  addr : Nat

def Ctx.entries (c : Ctx) : List Entry8 :=
  c.running.map (fun q =>
    let l := lowLane (q.2.active &&& c.g.live)
    let i := (c.A l).toNat
    let tb := (c.B l).toNat
    ⟨q.1, q.2, q.2.active &&& c.g.live, i, tb, (tb + 8 * i) % 2 ^ 64⟩)

/-- The bound (R227). -/
def Ctx.bound (c : Ctx) : Nat := c.f.mod.toNat + 1

/-- The lanes of some slices. -/
def lanesAll (l : List Entry8) : Mask := l.foldl (fun m e => m ||| e.lanes) 0

/-- A table entry as the agent's weak load reads it, and whether it is poisoned. -/
def Ctx.readEntry (c : Ctx) (s : State) (e : Entry8) : Nat × Bool :=
  let t := s.seat c.g.block c.g.owner s.fresh true
  (leGet (s.engByte t) e.addr 8, s.engRangeBad t e.addr 8)

/-- A gang's weak read of an 8-byte table entry waits, as a load does, for what the agent did to its bytes before (R207, R208,
R227). -/
def State.entryWaits (s : State) (g : Gang) (sl : Option Nat) (a : Nat) : Bool :=
  let t := s.seat g.block g.owner s.fresh true
  match s.reach t a 0 with
  | .at_ p =>
    let e : Elt := { lane := 0, hi := false, addr := a, place := p, data := 0, cmp := 0 }
    let o : MemOp := { id := s.fresh, gang := g.owner, slice := sl, kind := .load false, bytes := 8, ord := 0, token := false, file := .d
                       dest := 0, elts := [e], parked := false, at_ := 0, issued := 0, banks := 0 }
    s.mustFollow o e || (match p with
      | .phys b k => s.keyWaits g.block t.wing k b
      | _ => false)
  | _ => false

/-- A table entry that the other copy of a twin has read for both (R348). -/
def Ctx.given (c : Ctx) (e : Entry8) : Option (Nat × Bool) :=
  (c.g.twinIn.find? (fun t => t.1 % 16 == e.slice && t.2.1 == c.tag)).map (fun t => (t.2.2.toNat, decide (16 ≤ t.1)))

/-- The entries that a gang has read are delivered to its shadow (R348). -/
def State.giveEntries (s : State) (c : Ctx) (l : List (Entry8 × (Nat × Bool))) : State :=
  match s.shadowOf c.g.id with
  | none => s
  | some sh =>
    let read := l.map (fun p => (p.1.slice + (if p.2.2 then 16 else 0), c.tag, (BitVec.ofNat 64 p.2.1 : Reg)))
    s.modGang sh.id (fun g => { g with twinIn := g.twinIn ++ read })

/-- The target and the label of a table entry (R59, R227). -/
def entryTarget (addr w : Nat) : Nat := wrap 64 (addr + 4 * sext 48 w)
def entryLabel (w : Nat) : Nat := w / 2 ^ 48

/-- The PAD that must begin the target clause: whether the word is one, and its label (R228, R229). -/
def State.padAt (s : State) (part a : Nat) : Bool × Nat :=
  match s.headerAt part a, s.code part (a + 4) with
  | some h, some w =>
    (h.cls == 5 && (match decodeWords 5 w 0 with
      | .ok (.pad _) => true
      | _ => false), w.toNat % 2 ^ 16)
  | _, _ => (false, 0)

/-- A call entry for the slice (R230). -/
def Ctx.pushCall (c : Ctx) (x : Slice) : Slice :=
  { x with calls := ⟨x.point.skip c.words, x.deferred.length, x.loops.length, 0⟩ :: x.calls }

/-- A transfer through the table: a call keeps every loop, a branch leaves those it leaves (R230, R233). -/
def Ctx.through (c : Ctx) (call : Bool) (x : Slice) (t : Nat) : Slice × Bool :=
  if call then ({ (c.pushCall x) with point := .atHeader t }, false) else x.goTo (.atHeader t)

/-- The checks after the table has been read, in their order (R228, steps 3 to 6), then the transfer. A target whose fetch is refused
traps when it is fetched. -/
def Ctx.tableGo (c : Ctx) (s : State) (call : Bool) (l : List (Entry8 × Nat)) : Res :=
  let tgt := fun (p : Entry8 × Nat) => entryTarget p.1.addr p.2
  let trap := fun (code : Nat) (bad : List (Entry8 × Nat)) (pc : Nat) (addr aux : Nat) (k : Res) =>
    if bad = [] then k else .trap s ⟨code, pc, lanesAll (bad.map (·.1)), addr, aux⟩ c.lim
  let lo := fun (bad : List (Entry8 × Nat)) (f : Entry8 × Nat → Nat) => (bad.head?.map f).getD 0
  let b3 := l.filter (fun p => s.badTarget c.blk.part c.hdr (tgt p))
  let b4 := l.filter (fun p => s.headerCause c.blk.part c.hdr (tgt p) != 0)
  let b5 := l.filter (fun p => (s.code c.blk.part (tgt p)).isSome && (s.code c.blk.part (tgt p + 4)).isSome &&
    s.padAt c.blk.part (tgt p) != (true, entryLabel p.2))
  let b6 := l.filter (fun p => call && decide (8 ≤ p.1.x.calls.length))
  let padAux := fun (p : Entry8 × Nat) =>
    let w := s.padAt c.blk.part (tgt p)
    entryLabel p.2 + 2 ^ 16 * w.2 + 2 ^ 32 * (!w.1).toNat
  trap 0x04 b3 c.pc 0 (lo b3 tgt)
    (c.needCode s (l.flatMap (fun p => tgt p :: s.bodyWords c.blk.part c.hdr (tgt p)))
      (trap 0x01 b4 (lo b4 tgt) 0 (lo b4 (fun p => s.headerCause c.blk.part c.hdr (tgt p)))
        (trap 0x05 b5 c.pc (lo b5 tgt) (lo b5 padAux)
          (trap 0x1A b6 c.pc 0 2
            (c.loopTrap s (lanesAll ((l.filter (fun p => (c.through call p.1.x (tgt p)).2)).map (·.1)))
              (.jump (c.send s (fun i x => match l.find? (fun p => p.1.slice == i) with
                | some p => (c.through call x (tgt p)).1
                | none => x))))))))

/-- The slices' entries, read: a poisoned one raises SOFT, for the word it leads to is code (R346). -/
def Ctx.tableRead (c : Ctx) (s : State) (call : Bool) (vals : List (Entry8 × (Nat × Bool))) : Res :=
  if vals.any (fun p => p.2.2) then c.raise s 0x15 7 else c.tableGo s call (vals.map (fun p => (p.1, p.2.1)))

/-- BRX and CALLX (R227, R228). -/
def Ctx.table (c : Ctx) (s : State) (call : Bool) : Res :=
  let es := c.entries
  let out := es.filter (fun e => decide (c.bound ≤ e.index))
  match out with
  | e :: _ => .trap s (c.mkTrap 0x06 (lanesAll out) e.table e.index) c.lim
  | [] =>
    let spans := es.map (fun e => (e, Span.mk e.slice false false 8 0 [(e.addr, 8)]))
    let fails := fun (step : Nat) => spans.filter (fun p => (p.2.fails c.hdr step).isSome)
    let check := ([(0, 0x0B), (1, 0x0E), (2, 0x0A)] : List (Nat × Nat)).findSome? (fun p =>
      match fails p.1 with
      | [] => none
      | q :: _ => (q.2.fails c.hdr p.1).map (fun r => c.raiseAt s p.2 (lanesAll ((fails p.1).map (·.1))) r.1 r.2))
    match check with
    | some t => t
    | none =>
    if es ≠ [] ∧ es.all (fun e => (c.given e).isSome) then
      c.tableRead (s.modGang c.g.id (fun g => { g with twinIn := g.twinIn.filter (fun t => t.2.1 != c.tag) })) call
        (es.filterMap (fun e => (c.given e).map (fun v => (e, v))))
    else c.gated s (fun s =>
      let old := s.parkOf c.aid
      let s1 := match old with
        | some p => s.dropPark p.id
        | none => s
      let bad := spans.filterMap (fun p => (c.spanXlat s1 p.2).map (fun t => (p.1, t)))
      let faults := bad.filterMap (fun p => match p.2.2 with
        | .fault => some (lowLane p.1.lanes, p.2.1, 0)
        | _ => none)
      let declined := match old with
        | some p => p.refusals
        | none => []
      let gone := es.filter (fun e => declined.any (fun r => r.1 == lowLane e.lanes) || bad.any (fun p => p.1.slice == e.slice))
      match declined with
      | r :: _ => .trap s1 (c.mkTrap 0x0D (lanesAll gone) r.2.1 r.2.2) c.lim
      | [] =>
        if faults ≠ [] then c.parkWhole s1 faults
        else match bad with
          | p :: _ => .trap s1 (c.mkTrap 0x0D (lanesAll (bad.map (·.1))) p.2.1 (match p.2.2 with
              | .refused aux => aux
              | _ => 0)) c.lim
          | [] =>
            match (es.map (·.addr)).filter (s1.entryWaits c.g c.aid.slice) with
            | a :: t => .hold s (.table (a :: t))
            | [] =>
              let vals := es.map (fun e => (e, c.readEntry s1 e))
              c.tableRead (s1.giveEntries c vals) call vals)

def execBrx (f : Fields) (s : State) : StepOut := issueOp 5 0x02 f { run := fun (c : Ctx) s => c.table s false } s
def execCallx (f : Fields) (s : State) : StepOut := issueOp 5 0x05 f { run := fun (c : Ctx) s => c.table s true } s

/-- PAD does nothing (R229). -/
def execPad (f : Fields) (s : State) : StepOut := issueOp 5 0x03 f { run := fun (_ : Ctx) s => .done s } s

/-! ### CALL, RET (R230, R231) -/

def execCall (f : Fields) (s : State) : StepOut :=
  issueOp 5 0x04 f
    { needs := fun (c : Ctx) => c.targetWord
      target := fun (c : Ctx) s => c.badTargetTrap s c.words18 c.act
      run := fun (c : Ctx) s =>
        let full := c.lanesWhere (fun _ x => decide (8 ≤ x.calls.length))
        if full ≠ 0 then .trap s (c.mkTrap 0x1A full 0 2) c.lim
        else .jump (c.send s (fun _ x => { (c.pushCall x) with point := .atHeader c.words18 })) } s

/-- A slice behind a RET of the lanes `r`, which wait in the top call entry to return (R231). -/
def Slice.waitsReturn (x : Slice) (r : Mask) (words : Nat) : Slice :=
  let y := { x with point := x.point.skip words }
  match x.calls with
  | [] => y
  | e :: t => { y with active := x.active &&& ~~~r, calls := { e with back := e.back ||| r } :: t }

/-- A slice after a RET of the lanes `r`: they exit when there is no call, else they wait to return (R231); and
whether a loop would be left below its depth (R233). -/
def Slice.returns (x : Slice) (r : Mask) (words : Nat) : Slice × Bool :=
  let y := x.waitsReturn r words
  if r = 0 then (y, false)
  else if x.calls = [] then (y.without r).settle settleFuel
  else y.settle settleFuel

/-- The lanes that a RET ends: those of slices that are in no call (R231). -/
def Ctx.exiting (c : Ctx) : Mask := c.exec &&& c.lanesWhere (fun _ x => decide (x.calls = []))

/-- The instruction's own words are folded before those of the switches that it brings about (R350). -/
def Ctx.foldFirst (c : Ctx) (s : State) : State :=
  s.modGang c.g.id (fun g => { g with signature := c.ownFold g.signature })

/-- The registers that a lane's exit reads: a shading lane's d0 (R291). -/
def Ctx.pixelReg (c : Ctx) : List (RFile × Nat) :=
  match c.g.kind with
  | .shading .. => [(.d, 0)]
  | _ => []

def execRet (f : Fields) (s : State) : StepOut :=
  issueOp 5 0x06 f
    { more := fun (c : Ctx) => if (c.exiting : Mask) = 0 then [] else c.pixelReg
      run := fun (c : Ctx) s =>
        c.loopTrap s (c.lanesWhere (fun _ x => (x.returns (x.active &&& c.exec) c.words).2))
          (.jump (((c.send (c.foldFirst s) (fun _ x => x.waitsReturn (x.active &&& c.exec) c.words)).settleSlices c.g.id).exitLanes
            c.g.id c.exiting)) } s

/-! ### LOOP (R232 to R234) -/

/-- The count of a LOOP (R232). -/
def Ctx.loopCount (c : Ctx) : Nat := if c.f.cq then elem 32 0 (c.C 0) else c.f.mod.toNat

/-- The lowest LOOP_SHAPE cause of a LOOP; 0 when there is none (R234). -/
def Ctx.loopCause4 (c : Ctx) (s : State) : Nat :=
  let endCls := match s.headerAt c.blk.part c.words18 with
    | some h => h.cls.toNat
    | none => 0
  if endCls = 5 then 1
  else if c.words18 < c.lead.point.stop then 2
  else if c.pc + 4 * c.words ≠ c.lead.point.stop then 3
  else if c.running.any (fun q => decide (4 ≤ q.2.loops.length)) then 4
  else 0

def execLoop (f : Fields) (s : State) : StepOut :=
  issueOp 5 0x07 f
    { late := fun (c : Ctx) _ => f.cq && decide (2 ^ 32 ≤ (c.C 0).toNat)
      needs := fun (c : Ctx) => c.targetWord
      target := fun (c : Ctx) s => c.badTargetTrap s c.words18 c.act
      run := fun (c : Ctx) s =>
        let cause := c.loopCause4 s
        let after := s.clauseEnd c.blk.part c.words18
        if cause ≠ 0 then c.raise s 0x07 cause
        else .jump (c.send s (fun _ x =>
          if c.loopCount = 0 then { x with point := .atHeader after }
          else { x with point := .atHeader x.point.stop
                        loops := ⟨x.point.stop, c.words18, after, c.loopCount, x.deferred.length⟩ :: x.loops })) } s

/-! ### EXIT, REGANG, YIELD, KWAIT (R31, R46, R235 to R238) -/

def execExit (f : Fields) (s : State) : StepOut :=
  issueOp 5 0x08 f
    { outward := true
      more := fun (c : Ctx) => c.pixelReg
      run := fun (c : Ctx) s =>
        let next := fun (x : Slice) => ({ x with point := x.point.skip c.words }.without (x.active &&& c.exec)).settle settleFuel
        c.loopTrap s (c.lanesWhere (fun _ x => decide (x.active &&& c.exec ≠ 0) && (next x).2))
          (.jump ((c.send (c.foldFirst s) (fun _ x => { x with point := x.point.skip c.words })).exitLanes c.g.id c.exec)) } s

/-- REGANG of a whole gang completes at once; a slice waits for every live slice of its gang (R31). -/
def execRegang (f : Fields) (s : State) : StepOut :=
  issueOp 5 0x09 f
    { run := fun (c : Ctx) s =>
        if c.aid.slice.isNone then .done (s.newFence c.g.id none 2 0 false)
        else
          let h : Hold := .regang c.pc f.stall.toNat f.x
          let s1 := (s.modGang c.g.id (fun g => g.modAgent c.aid.slice (fun x =>
            { x with hold := h, earliest := c.now + f.stall.toNat + 1 }))).regangs c.g.id
          match (s1.gang? c.g.id).bind (fun g => g.lead c.aid.slice) with
          | some x => if x.hold = h then .hold s1 h
            else .own (s1.modGang c.g.id (fun g => { g with lastIssue := c.now, readySince := none, cede := g.cede || c.cedes s }))
          | none => .hold s1 h } s

/-- YIELD offers the easel as a clause with CEDE does (R66, R237). -/
def execYield (f : Fields) (s : State) : StepOut :=
  issueOp 5 0x0A f
    { run := fun (c : Ctx) s => .done (if c.any then s.modGang c.g.id (fun g => { g with cede := true }) else s) } s

/-- Every counter of the mask reads at most the limit (R238). -/
def Gang.kwaitOver (g : Gang) (mask lim : Nat) : Bool :=
  (List.range 6).all (fun j => !bitAt mask j || decide (g.getK j ≤ lim))

def execKwait (f : Fields) (s : State) : StepOut :=
  issueOp 5 0x0B f
    { run := fun (c : Ctx) s =>
        let p := match c.lead.hold with
          | .kwait m l => (m, l)
          | _ => (modF f 5 0, modF f 11 6)
        if (!c.any && !c.resumed) || c.g.kwaitOver p.1 p.2 then .done s else .hold s (.kwait p.1 p.2) } s

/-! ### Barriers (R239 to R244) -/

/-- A barrier's address, checked (R244), and the offset of its object. The instruction takes effect after its gang's arrival there,
once every live slice has made it (R298; log 47). -/
def Ctx.atBar (c : Ctx) (s : State) (k : Nat → Res) : Res :=
  if !c.any then .done s
  else
    let a := (c.A c.low).toNat
    if barCause a ≠ 0 then c.raiseAt s 0x0B c.act a (barCause a)
    else if a % 16 ≠ 0 then c.raiseAt s 0x0E c.act a 0
    else if scratchOver c.hdr a 16 then c.raiseAt s 0x0A c.act a 0
    else if c.g.recordDue (a - scratchBase) then .hold s (.record (a - scratchBase))
    else k (a - scratchBase)

/-- A 32-bit operand B of the agent. -/
def Ctx.B32 (c : Ctx) : Nat := elem 32 0 (c.B c.low)

/-- The members to which the exit effect has applied (R240, R242); it still waits for the accesses of one that has just gone. -/
def State.goneMembers (s : State) (blk : Nat) (h : LaunchHdr) : List Nat :=
  (List.range h.gangs).filter (fun i => !s.gangs.any (fun g => g.block == blk && g.index == i &&
    (match g.kind with
     | .shadow _ => false
     | _ => true) && (decide (g.live ≠ 0) || g.exitDue)))

/-- What BARINIT writes (R240). -/
def Ctx.barNew (c : Ctx) (s : State) : Bar :=
  if modBit c.f 6 then
    let m := (List.range 32).filter (fun i => bitAt c.B32 i && !(s.goneMembers c.g.block c.hdr).contains i)
    ⟨m.foldl (fun n i => n + 2 ^ i) 0, 0, m.length, 0, true, 0, 0, 0⟩
  else ⟨0, 0, modF c.f 5 0, 0, false, 0, 0, 0⟩

def execBarinit (f : Fields) (s : State) : StepOut :=
  issueOp 5 0x10 f
    { outward := true, ghost := true
      late := fun (c : Ctx) _ => modBit f 6 && (f.bq || c.any) && decide (2 ^ c.hdr.gangs ≤ c.B32)
      run := fun (c : Ctx) s => c.atBar s (fun o =>
        let n := c.barNew s
        .done (s.barEvent c.g.block o (fun b =>
          if b.expect = n.expect ∧ b.live = n.live ∧ b.members = n.members then b else n))) } s

/-- The release of an arrival (R220): earlier accesses performed at .b, or the agent holds. -/
def Ctx.releasing (c : Ctx) (s : State) (scope : Nat) (k : State → Res) : Res :=
  if s.released c.g.id s.fresh c.aid.slice c.g.block c.wing scope then k s else .hold s (.release scope)

/-- The slice's arrival stands in the gang's record (R241). -/
def Gang.arrives (g : Gang) (o i : Nat) : Gang :=
  let add := fun (a : Arrival) => if bitAt a.slices i then a else { a with slices := a.slices + 2 ^ i }
  if g.arrivals.any (fun a => a.off == o) then { g with arrivals := mapWhere (fun a => a.off == o) add g.arrivals }
  else { g with arrivals := g.arrivals ++ [⟨o, 2 ^ i⟩] }

/-- The agent arrives (R241): a whole gang at once, a slice in its gang's record, which has four places. -/
def Ctx.arriveAt (c : Ctx) (s : State) (o : Nat) (k : State → Res) : Res :=
  match c.aid.slice with
  | none => k (s.gangArrives c.g.id o)
  | some i =>
    if 4 ≤ c.g.arrivals.length ∧ !c.g.arrivals.any (fun a => a.off == o) then .hold s .arrival
    else k ((s.modGang c.g.id (fun g => g.arrives o i)).settleArrivals c.g.id)

def execBararv (f : Fields) (s : State) : StepOut :=
  issueOp 5 0x11 f
    { outward := true, ghost := true
      run := fun (c : Ctx) s => c.atBar s (fun o => c.releasing s 1 (fun s => c.arriveAt s o .done)) } s

/-- The phase numbered `n` of a block's barrier has completed (R243). -/
def State.phasePassed (s : State) (blk o n : Nat) : Bool :=
  match s.block? blk with
  | some b => (b.bar o).passed n
  | none => true

/-- BARWAIT waits at the barrier, and for the phase, that its operands named when it came to issue (R80, R243). -/
def execBarwait (f : Fields) (s : State) : StepOut :=
  issueOp 5 0x12 f
    { outward := true, ghost := true
      run := fun (c : Ctx) s =>
        let wait := fun (o n : Nat) =>
          if s.phasePassed c.g.block o n then Res.done (s.acquire c.wing 1) else .hold s (.barwait o n)
        match c.lead.hold with
        | .barwait o n => wait o n
        | _ => c.atBar s (fun o => wait o (c.B32 % 4096)) } s

def execBarxb (f : Fields) (s : State) : StepOut :=
  issueOp 5 0x13 f
    { outward := true, ghost := true
      late := fun (c : Ctx) _ => (f.bq || c.any) && decide (2 ^ 36 ≤ (c.B c.low).toNat)
      run := fun (c : Ctx) s => c.atBar s (fun o =>
        .done (s.barEvent c.g.block o (fun b => b.addBytes (c.B c.low).toNat))) } s

/-- A BARSYNC after its arrival: it waits until the phase current then has completed (R243). -/
def Ctx.awaitPhase (c : Ctx) (s : State) (o : Nat) : Res :=
  let h := match (s.gang? c.g.id).bind (fun g => g.lead c.aid.slice) with
    | some x => x.hold
    | none => .none
  match h with
  | .barsync _ (some n) =>
    if s.phasePassed c.g.block o n then
      .done ((s.acquire c.wing 1).modGang c.g.id (fun g => g.modAgent c.aid.slice (fun x => { x with hold := .none })))
    else .hold s h
  | _ => .hold s (.barsync o none)

/-- BARSYNC arrives once, and then waits at that barrier (R80, R243). -/
def execBarsync (f : Fields) (s : State) : StepOut :=
  issueOp 5 0x14 f
    { outward := true, ghost := true
      run := fun (c : Ctx) s =>
        let waits := fun (s : State) (h : Hold) => s.modGang c.g.id (fun g => g.modAgent c.aid.slice (fun x => { x with hold := h }))
        match c.lead.hold with
        | .barsync o p => c.awaitPhase (waits s (.barsync o p)) o
        | _ => c.atBar s (fun o =>
          c.releasing s 1 (fun s => c.arriveAt (waits s (.barsync o none)) o (fun s => c.awaitPhase s o))) } s

/-! ### PACE, PACERD (R245, R246) -/

/-- A neighbour's counter; none when it has ended (R245). One that was flushed is still to run again, with its pacer 0 (R338). -/
def State.pacerOf (s : State) (launch number : Nat) : Option Nat :=
  match s.blocks.find? (fun b => b.launch == launch && b.number == number && !b.ended) with
  | some b => some b.pacer
  | none => match s.launch? launch with
    | some l => if (l.next ≤ number ∧ number < l.total) ∨ l.again.any (fun p => p.2 == number) then some 0 else none
    | none => none

/-- Each block of the launch has a pacer counter (R245). -/
def LaunchHdr.paced (h : LaunchHdr) : Bool := decide (0 < h.paceallow) && decide (0 < h.wingco)

/-- The block numbers before and after a block in its wing cohort; none without a neighbour (R37, R245). -/
def neighbours (h : LaunchHdr) (number : Nat) : Option (Nat × Nat) :=
  let lo := number / h.wingco * h.wingco
  let n := min h.wingco (h.gridx * h.gridy * h.gridz - lo)
  if !h.paced ∨ n ≤ 1 then none
  else some (lo + (number - lo + n - 1) % n, lo + (number - lo + 1) % n)

/-- PACE may go on (R245). -/
def State.paceOver (s : State) (b : Block) (h : LaunchHdr) : Bool :=
  match neighbours h b.number with
  | none => true
  | some (p, q) => ([p, q].filterMap (s.pacerOf b.launch)).all (fun n => decide (b.pacer + 1 ≤ n + h.paceallow))

def execPace (f : Fields) (s : State) : StepOut :=
  issueOp 5 0x18 f
    { outward := true, ghost := true
      run := fun (c : Ctx) s =>
        if !c.any && !c.resumed then .done s
        else if !s.paceOver c.blk c.hdr then .hold s .pace
        else .done (if c.hdr.paced then (c.markSe s).modBlock c.g.block (fun b => { b with pacer := (b.pacer + 1) % 2 ^ 32 })
                    else c.markSe s) } s

/-- PACERD's value (R246). -/
def State.pacerd (s : State) (b : Block) (h : LaunchHdr) (which : Nat) : Nat :=
  match neighbours h b.number with
  | none => if which = 0 then b.pacer else 2 ^ 32 - 1
  | some (p, q) =>
    let x := (s.pacerOf b.launch p).getD (2 ^ 32 - 1)
    let y := (s.pacerOf b.launch q).getD (2 ^ 32 - 1)
    match which with
    | 0 => b.pacer
    | 1 => x
    | 2 => y
    | _ => min x y

def execPacerd (f : Fields) (s : State) : StepOut :=
  issueOp 5 0x19 f
    { outside := true
      run := fun (c : Ctx) s => .done (c.putQ s .q f.d.toNat (BitVec.ofNat 64 (s.pacerd c.blk c.hdr (modF f 1 0)))) } s

/-! ### SIGCHK (R247) -/

/-- The value of a SIGCHK's encoding (R225). -/
def sigValue (f : Fields) : Nat := off18 f * 2 ^ 14 + modF f 13 0

def execSigchk (f : Fields) (s : State) : StepOut :=
  issueOp 5 0x1C f
    { rst := fun (c : Ctx) => modBit f 14 && c.any && c.aid.slice.isNone
      run := fun (c : Ctx) s =>
        if !c.any || c.aid.slice.isSome || c.g.signature.toNat = sigValue f then .done s
        else .trap s (c.mkTrap 0x10 c.exec 0 (sigValue f + 2 ^ 32 * c.g.signature.toNat)) c.lim } s

end Sys2Proof.Machine
end

