-- ==== Sys2Proof/Machine/Pool.lean ====
section
/-!
DEFINITION. Machine/Pool.lean: record pools, heats, nodes and graphs (11 R256 to R267, 15 R299) and the interrupts
that they send (17 R318).
-/

namespace Sys2Proof.Machine

/-! ### Partition words (R304) -/

def PartEntry.irqBudget (p : PartEntry) : Nat := bits p.cfg 23 16
def PartEntry.ways (p : PartEntry) : Nat := bits p.cfg 15 0

/-! ### Interrupts (R318) -/

/-- The address and the data of an MSI-X entry (R317). -/
def Func.msixAddr (f : Func) (v : Nat) : Nat := (mapGet f.msix (4 * v)).toNat + 2 ^ 32 * (mapGet f.msix (4 * v + 1)).toNat
def Func.msixData (f : Func) (v : Nat) : Nat := (mapGet f.msix (4 * v + 2)).toNat

/-- A message of partition `part` on an entry leaves, or sets its pending bit. -/
def State.raiseIrq (s : State) (part v : Nat) : State :=
  let f := s.func part
  if f.unmasked.contains v && decide (f.sent < f.budget) then
    (s.emit (.msix part v (f.msixAddr v) (f.msixData v))).modFunc part (fun f => { f with sent := f.sent + 1, pending := f.pending.filter (· != v) })
  else s.modFunc part (fun f => { f with pending := if f.pending.contains v then f.pending else f.pending ++ [v] })

/-! ### Nodes and records (R262, R299) -/

/-- The node that a gang's block runs for (R263). -/
def State.nodeOf (s : State) (g : Gang) : Option (Nat × Nat) :=
  (s.block? g.block).bind (fun b => (s.launch? b.launch).bind (fun l => l.node))
def State.node? (s : State) (n : Nat × Nat) : Option Node := (s.graph? n.1).bind (fun g => g.node? n.2)
def State.modNodeAt (s : State) (n : Nat × Nat) (f : Node → Node) : State := s.modNode n.1 n.2 f

/-- How a record of the node's pool stands; an unlisted one is free. -/
def Node.recAt (n : Node) (a : Nat) : RecState := ((n.recs.find? (fun p => p.1 == a)).map (·.2)).getD .free
def Node.setRec (n : Node) (a : Nat) (r : RecState) : Node :=
  let rest := n.recs.filter (fun p => p.1 != a)
  { n with recs := if r = .free then rest else (a, r) :: rest }

/-- A record becomes what it becomes in the pool that lists it. -/
def State.setRec (s : State) (gr a : Nat) (p r : RecState) : State :=
  s.modGraph gr (fun g => { g with nodes := mapWhere (fun (n : Node) => n.recAt a == p) (fun n => n.setRec a r) g.nodes })

/-- The first waiting request of a node's pool is granted, when enough records are free (R263, R299) and both copies of a twin have made
it, which take the grant in one event (R348). -/
def State.grantOne (s : State) (n : Nat × Nat) : Option State :=
  (s.node? n).bind (fun nd => match nd.grants with
    | [] => none
    | q :: rest =>
      let lanes := lanesOf q.lanes
      if nd.free.length < lanes.length || !s.twinReady q.gang q.op then none
      else
        let recs := sortBy id (nd.free.take lanes.length)
        let blk := ((s.gang? q.gang).map (·.block)).getD 0
        let take := fun (nd : Node) =>
          { (recs.foldl (fun nd a => nd.setRec a (.allocated blk)) nd) with free := nd.free.drop lanes.length, grants := rest }
        let s1 := (s.modNodeAt n take).modGang q.gang (fun g => { g with se := true })
        let s2 := (lanes.zip recs).foldl (fun s p => s.deliver q.gang q.op 64 .d q.dest p.1 (BitVec.ofNat 64 p.2)) s1
        some (s2.endToken q.gang q.op))

/-- Waiting requests are granted in the order of their receipt. -/
def State.serveGrants (n : Nat × Nat) : Nat → State → State
  | 0, s => s
  | k + 1, s => match s.grantOne n with
    | some t => State.serveGrants n k t
    | none => s

/-- A record that a block holds (R262). -/
def RecState.heldBy (blk : Nat) (r : RecState) : Bool := r == .allocated blk || r == .delivered blk

/-- One return event: the records of which `p` holds, by address and state, go back to the tails of their pools in ascending
order, and waiting requests are served (R299). -/
def State.returnRecs (s : State) (gr : Nat) (p : Nat → RecState → Bool) : State :=
  match s.graph? gr with
  | none => s
  | some g => (List.range g.nodes.length).foldl (fun s i =>
      match s.node? (gr, i) with
      | none => s
      | some nd =>
        let mine := sortBy id ((nd.recs.filter (fun r => r.2 != .free && p r.1 r.2)).map (·.1))
        if mine = [] then s
        else State.serveGrants (gr, i) nd.grants.length (s.modNode gr i (fun nd =>
          { (mine.foldl (fun nd a => nd.setRec a .free) nd) with free := nd.free ++ mine }))) s

/-! ### Predecessors (R258) -/

def Node.names (n : Node) (i : Nat) : Bool := n.succ.contains i || n.edges.contains i
def Graph.preds (g : Graph) (i : Nat) : List Node := g.nodes.filter (fun n => n.names i)
def NodeState.lostWork : NodeState → Bool
  | .failed _ _ => true
  | .never => true
  | _ => false
def NodeState.over : NodeState → Bool
  | .complete => true
  | .failed _ _ => true
  | .never => true
  | _ => false

/-- A predecessor has completed otherwise than COMPLETE, or never runs: the node launches nothing more (R258). -/
def Graph.doomed (g : Graph) (i : Nat) : Bool := (g.preds i).any (fun n => n.state.lostWork)
def Graph.predsDone (g : Graph) (i : Nat) : Bool := (g.preds i).all (fun n => n.state == .complete)
/-- Every producer of a record-fed node has completed: the nodes whose edges name it (R258, R265). -/
def Graph.producersDone (g : Graph) (i : Nat) : Bool :=
  (g.nodes.filter (fun n => n.edges.contains i)).all (fun n => n.state == .complete)

/-! ### Heats (R265) -/

/-- Live heats of a partition: their heat blocks' addresses. -/
def State.heatsAt (s : State) (part : Nat) : List Nat :=
  s.launches.filterMap (fun l => if l.part = part then l.heat.map (·.2.1) else none)

/-- Where a heat's block lies: a free place of the partition's area that no live heat uses; past the area when every
place of it is used (R265, log 52). -/
def State.heatSlot (s : State) (part gr i seq : Nat) : Nat :=
  let base := ((s.func part).heatBase + 127) / 128 * 128
  let places := ((s.func part).heatBase + (s.func part).heatBytes - base) / 128
  let used := s.heatsAt part
  let first := Config.heatPlace gr i seq
  let turns := List.range (used.length + 1)
  let inside := if places = 0 then [] else turns.map (fun k => base + 128 * ((first + k) % places))
  let past := turns.map (fun k => base + 128 * (places + k))
  ((inside ++ past).find? (fun a => !used.contains a)).getD base

/-- The ten words of a heat block (R265). -/
def heatWords (seq arg : Nat) (recs : List Nat) : List Nat :=
  [seq % 2 ^ 32 * 2 ^ 32 + recs.length, arg] ++ (List.range 8).map (fun i => recs.getD i 0)

/-- Words written at a global address of a partition by the dispatch core. -/
def State.coreWrite (s : State) (part a : Nat) (ws : List Nat) : State :=
  match s.translate part a 0 with
  | .ok p k => ((List.range ws.length).zip ws).foldl (fun s w => s.physWrite k (p + 8 * w.1) 8 w.2) s
  | _ => s

/-- The open heat of a record-fed node launches as one consumer block, whose heat block is written before it starts (R265). -/
def State.launchHeat (s : State) (gr i : Nat) : State :=
  match s.graph? gr, s.node? (gr, i) with
  | some g, some nd =>
    match nd.hdr with
    | none => s
    | some h =>
      if nd.open_ = [] then s
      else
        let n := s.newId
        let at_ := s.heatSlot g.part gr i nd.seq
        let launch : Launch :=
          { id := n.1, hdrAddr := nd.launchAddr, hdr := { h with argbase := at_ }, part := g.part, prio := g.prio
            node := some (gr, i), heat := some (nd.seq, at_, nd.open_), next := 0, total := 1, again := [], released := s.pkg.clock
            waiting := none, wingHeld := none, blocksLeft := 1, nests := [] }
        ({ n.2 with launches := n.2.launches ++ [launch] }).modNode gr i (fun nd =>
          { nd with open_ := [], deadline := none, seq := nd.seq + 1, heatsLive := nd.heatsLive + 1 })
  | _, _ => s

/-- A record reaches a consumer and joins its open heat, which launches with its last (R264, R265). -/
def State.joinRec (s : State) (gr i a : Nat) : State :=
  match s.node? (gr, i) with
  | some nd =>
    let due := match nd.deadline with
      | some t => some t
      | none => some (s.pkg.clock + nd.timeout)
    let s1 := s.modNode gr i (fun nd => { nd with open_ := nd.open_ ++ [a], deadline := due })
    if nd.heat ≤ nd.open_.length + 1 then s1.launchHeat gr i else s1
  | none => s

/-- The sequence number that a node's open heat takes (R265). -/
def State.openSeq (s : State) (n : Nat × Nat) : Nat := ((s.node? n).map (·.seq)).getD 0

/-- A block's records reach a consumer in order (R264); at a node that can never run they go back to their pool in one return
event (R258). -/
def State.emitRecs (s : State) (blk : Nat) (n : Nat × Nat) (recs : List Nat) : State :=
  match s.graph? n.1, s.node? n with
  | some g, some nd =>
    if g.doomed n.2 || nd.state.over then s.returnRecs n.1 (fun a r => recs.contains a && r == .allocated blk)
    else recs.foldl (fun s a => (s.setRec n.1 a (.allocated blk) (.queued n.2 (s.openSeq n))).joinRec n.1 n.2 a) s
  | _, _ => s

/-! ### Release and completion of nodes (R258) -/

/-- A launch header as the dispatch core reads it for a partition. -/
def State.coreRead (s : State) (part a : Nat) : Nat :=
  match s.translate part a 0 with
  | .ok p k => (s.mem.read k p).toNat
  | _ => 0

/-- The dispatch core can read `n` bytes. -/
def State.coreReads (s : State) (part a n : Nat) : Bool :=
  (pagePoints a n ++ [a + n - 1]).all (fun x => match s.translate part x 0 with
    | .ok _ _ => true
    | _ => false) && decide (a + n ≤ 2 ^ 56)

/-- The word at which a launch header is refused (R36); one that cannot be read offends in its first word. -/
def State.headerRefused (s : State) (part a : Nat) : Option Nat :=
  if a % 128 ≠ 0 ∨ !s.coreReads part a 128 then some 0 else refusedWord (s.coreRead part) a

/-- A launch node's launch begins: its header is checked and its blocks enter the pool (R36, R258). -/
def State.releaseNode (s : State) (g : Graph) (i : Nat) (nd : Node) : State :=
  match s.headerRefused g.part nd.launchAddr with
  | some w => s.modNode g.id i (fun nd => { nd with state := .failed 1 w })
  | none =>
    let n := s.newId
    let h := launchAt (s.coreRead g.part) nd.launchAddr
    let launch : Launch :=
      { id := n.1, hdrAddr := nd.launchAddr, hdr := h, part := g.part, prio := g.prio, node := some (g.id, i)
        heat := none, next := 0, total := h.blocks, again := [], released := s.pkg.clock, waiting := none, wingHeld := none
        blocksLeft := h.blocks, nests := [] }
    ({ n.2 with launches := n.2.launches ++ [launch] }).modNode g.id i (fun nd => { nd with state := .released })

/-- What becomes of one node now, as its predecessors stand in `g` (R258). -/
def State.settleNode (s : State) (g : Graph) (i : Nat) : State :=
  let gr := g.id
  match s.node? (gr, i) with
  | some nd =>
    if nd.state.over then s
    else if nd.heat = 0 then
      if nd.state ≠ .waiting then s
      else if g.doomed i then s.modNode gr i (fun nd => { nd with state := .never })
      else if g.predsDone i then s.releaseNode g i nd
      else s
    else if g.doomed i then
      let s1 := (s.modNode gr i (fun nd => { nd with open_ := [], deadline := none })).returnRecs gr (fun a r =>
        nd.open_.contains a && r == .queued i nd.seq)
      if nd.heatsLive = 0 then s1.modNode gr i (fun nd => { nd with state := .never }) else s1
    else if !g.producersDone i then s
    else if nd.open_ ≠ [] then s.launchHeat gr i
    else if nd.heatsLive = 0 then s.modNode gr i (fun nd => { nd with state := .complete })
    else s
  | none => s

/-- Nodes settle in rounds, in ascending order in each, so that what the completion of one node lets several do they do in that
order (R299). -/
def State.settleNodes (gr : Nat) : Nat → State → State
  | 0, s => s
  | k + 1, s => match s.graph? gr with
    | none => s
    | some g => State.settleNodes gr k ((List.range g.nodes.length).foldl (fun s i => s.settleNode g i) s)

/-- The failure of a graph: the first recorded, or the lowest node among those recorded in one event (R258). -/
def Graph.failsFrom (h g : Graph) : Option (Nat × Nat × Nat) :=
  g.failure.orElse (fun _ => (List.range h.nodes.length).findSome? (fun i => match h.node? i with
    | some n => match n.state with
      | .failed st d => some (i, st, d)
      | _ => none
    | none => none))

/-- A launch belongs to a graph. -/
def Launch.ofGraph (l : Launch) (gr : Nat) : Bool := l.node.any (fun n => n.1 == gr)

/-- Launches of which nothing is left leave, and graphs that have completed with the last of theirs: until then a block that runs on
uses their pools (R258, R262; log 23). -/
def State.forgetGraphs (s : State) : State :=
  let launches := s.launches.filter s.needsLaunch
  { s with launches := launches, graphs := s.graphs.filter (fun g => !g.done || launches.any (·.ofGraph g.id)) }

/-- The completion record of a graph, its write and its message (R258). It holds back no room any more (R261). -/
def State.completeGraph (s : State) (g : Graph) (status node detail : Nat) : State :=
  let s1 := s.coreWrite g.part g.compl [g.tag * 2 ^ 32 + status, node, detail, s.pkg.nano]
  let s2 := (s1.modGraph g.id (fun h => { h with done := true, reserve := none })).forgetGraphs
  if g.irq then s2.raiseIrq g.part g.vector else s2

/-- Every node of a graph has completed or can never be released (R258). -/
def Graph.over (g : Graph) : Bool := g.nodes.all (fun n => n.state.over)

/-- The completion record of a graph is still to be written: it follows the release of the graph's blocks, those that the supervisor
OS has ended and that still complete what they have issued included, and the page that takes it is not moving (R219, R258). -/
def State.recordWaits (s : State) (g : Graph) : Bool :=
  s.blocks.any (fun b => b.stop.leaving && !b.ended && (s.launch? b.launch).any (·.ofGraph g.id)) ||
  s.mem.pages.any (fun p => p.part == g.part && p.moving.isSome && pageCovers p.spec g.compl)

/-- Nodes are released and complete, and the graph with the last of them (R258). -/
def State.settleGraph (s : State) (gr : Nat) : State :=
  match s.graph? gr with
  | none => s
  | some g =>
    let s1 := (State.settleNodes gr (g.nodes.length + 1) s).modGraph gr (fun h => { h with failure := h.failsFrom g })
    match s1.graph? gr with
    | none => s1
    | some h =>
      if h.over && !h.done && !s1.recordWaits h then
        match h.failure with
        | none => s1.completeGraph h 0 0xFFFF 0
        | some f => s1.completeGraph h f.2.1 f.1 f.2.2
      else s1

/-- The launch places nothing more. -/
def Launch.cut (l : Launch) : Launch :=
  { l with total := l.next, again := [], blocksLeft := l.blocksLeft - (l.total - l.next) - l.again.length }

/-- The records of a heat that has not been placed, each with the heat's sequence number. -/
def Launch.unplaced (l : Launch) : List (Nat × Nat) :=
  match l.heat with
  | some h => if l.next < l.total ∨ l.again ≠ [] then h.2.2.map (·, h.1) else []
  | none => []

/-- A node fails with a status: the first failure recorded is the graph's (R258). Its blocks not yet placed are not
placed any more, and records queued to it go back to their pool. -/
def State.failNode (s : State) (gr i status detail : Nat) : State :=
  let mine := fun (l : Launch) => l.node == some (gr, i)
  let recs := ((s.node? (gr, i)).map (fun nd => nd.open_.map (·, nd.seq))).getD [] ++ (s.launches.filter mine).flatMap Launch.unplaced
  let s1 := { s with launches := (mapWhere mine Launch.cut s.launches).filter (fun l => !mine l || s.needsLaunch l) }
  let s2 := s1.modNode gr i (fun nd => { nd with state := .failed status detail, open_ := [], deadline := none })
  (s2.modGraph gr (fun g => { g with failure := g.failure.orElse (fun _ => some (i, status, detail)) })).returnRecs gr (fun a r =>
    recs.any (fun p => p.1 == a && r == .queued i p.2))

end Sys2Proof.Machine
end

