-- ==== Sys2Proof/Machine/Ready.lean ====
section
/-!
DEFINITION. Machine/Ready.lean: when an agent is ready, what it waits for, and what happens to it without an
issue: end checks and join switches (02 R32 to R34, 04 R66, 11 R233, R248 to R252, 18 R324).
-/

namespace Sys2Proof.Machine

/-! ### Holds (R248) -/

/-- The lowest counter of a mask that is poisoned (R346). -/
def State.badK (s : State) (g : Gang) (mask : Nat) : Option Nat :=
  if s.errs.poison = [] then none else (List.range 6).find? (fun j => bitAt mask j && s.poisoned (.k g.id j))

/-- What holds the agent is over, or is looked at again by the instruction itself. -/
def State.holdOver (s : State) (g : Gang) (sl : Option Nat) (h : Hold) : Bool :=
  let cluster := g.easel / 4
  let wing := wingOf cluster
  match h with
  | .none => true
  | .token j => decide (g.getK j < 63)
  | .fence => !s.fenced g.id sl
  | .release scope => s.released g.id s.fresh sl g.block wing scope
  | .kwait m l => g.kwaitOver m l || (s.badK g m).isSome
  | .bseal => !s.sealFull g
  | .bwait m => !s.batchesOpen g.owner m
  | .copyQueue => decide ((s.fl.copies.filter (fun x => x.cluster == cluster)).length < 128)
  | .tlwait ctx n => s.fl.ctxs.all (fun x => x.wing != wing || x.ctx != ctx || decide (n ≤ x.time))
  | .streamQueue ctx => s.fl.ctxs.all (fun x => x.wing != wing || x.ctx != ctx || decide ((x.ops.filter (fun o => !o.done)).length < 64))
  | .mxQueue n => s.mxRoom cluster n
  | .mxDrain => !s.mxBusy g.owner
  | .mxResult id => (s.job? id).all (fun j => j.finished)
  | .barwait o n => s.phasePassed g.block o n
  | .barsync o p => p.any (fun n => s.phasePassed g.block o n)
  | .arrival => decide (g.arrivals.length < 4)
  | .record o => !g.recordDue o
  | .regang .. => false
  | .tret .. => false
  | .pace => match s.block? g.block with
    | some b => (s.hdrOf b).all (fun h => s.paceOver b h)
    | none => true
  | .page p => (s.park? p).isNone
  | .view v => (s.view? v).all (fun v => v.admitted.isSome)
  | .pool tag => !s.graphs.any (fun x => x.nodes.any (fun n => n.grants.any (fun q => q.gang == g.id && q.op == tag)))
  | .call .. => false
  | .escalated .. => false
  | .handler => false
  | .code a => match s.block? g.block with
    | some b => !s.codeHeld b.part a
    | none => false
  | .twin => true
  | .table l => l.all (fun a => !s.entryWaits g sl a)

/-- The stall counter of a hold (R252). -/
def Hold.counter : Hold → Nat
  | .none => 3
  | .bwait _ | .token _ | .fence | .release _ | .kwait .. | .bseal | .copyQueue | .tlwait .. | .streamQueue _ => 2
  | .mxQueue _ | .mxDrain | .mxResult _ => 5
  | .barwait .. | .barsync .. | .arrival | .record _ => 6
  | .regang .. | .tret .. => 11
  | .pace => 12
  | .page _ | .call .. | .escalated .. | .handler => 9
  | .view _ => 7
  | .pool _ => 8
  | .code _ | .table _ => 13
  | .twin => 14

/-! ### Readiness (R66, R67, R248) -/

/-- The words of the next instruction in a clause are there. -/
def State.wordsThere (s : State) (part a : Nat) : Bool :=
  match s.code part a with
  | none => false
  | some w => !w.getLsbD 28 || (s.code part (a + 4)).isSome

/-- Every counter of a WAIT mask reads zero, and has since the cycle before (R66). -/
def Gang.waitMet (g : Gang) (mask : Nat) (now : Nat) : Bool :=
  (List.range 6).all (fun j => !bitAt mask j || (g.getK j == 0 && (let t := g.kzero.getD j 0; t == 0 || decide (t < now))))

/-- The header that the agent is about to enter: its cause of ILLEGAL_CLAUSE and its WAIT mask; none while its word
is not there. -/
def State.entering (s : State) (part : Nat) (h : LaunchHdr) (x : Slice) : Option (Nat × Nat) :=
  if x.point.inside then some (0, 0)
  else
    let cause := s.headerCause part h x.point.pc
    match s.headerAt part x.point.pc with
    | some hd => some (cause, if cause = 0 then hd.wait.toNat else 0)
    | none => if cause = 0 then none else some (cause, 0)

/-- The trap that the fetch of the agent's next word raises, of a clause header, an instruction word or its extension word (R309,
R346; log 73). -/
def State.nextTrap (s : State) (g : Gang) (sl : Option Nat) (part : Nat) (h : LaunchHdr) (x : Slice) : Option Trap :=
  let at_ := fun (a : Nat) => (s.fetchTrap part a).map (fun t => ⟨t.1, if t.1 = 0x15 then a else x.point.pc, g.activeOf sl, t.2.1, t.2.2⟩)
  if !inCode h x.point.pc then none
  else match at_ x.point.pc with
    | some t => some t
    | none => if x.point.inside && (s.code part x.point.pc).any (fun w => w.getLsbD 28) then at_ (x.point.pc + 4) else none

/-- The next words are there and the WAIT of the clause being entered is met, or the fetch traps. -/
def State.nextThere (s : State) (g : Gang) (sl : Option Nat) (x : Slice) : Bool :=
  match s.block? g.block with
  | none => false
  | some b => match s.hdrOf b with
    | none => false
    | some h => (s.nextTrap g sl b.part h x).isSome || match s.entering b.part h x with
      | none => false
      | some (cause, wait) =>
        cause != 0 || (s.badK g wait).isSome || (g.waitMet wait s.pkg.clock &&
          (if x.point.inside then s.wordsThere b.part x.point.pc else s.clauseThere b.part h x.point.pc))

/-- The agent is ready (R248). -/
def State.agentReady (s : State) (g : Gang) (sl : Option Nat) : Bool :=
  match g.lead sl with
  | none => false
  | some x =>
    x.active != 0 && decide (x.earliest ≤ s.pkg.clock) && s.holdOver g sl x.hold && s.twinLevel g sl x && s.nextThere g sl x

/-- The agents of a gang that have an active lane. -/
def Gang.runners (g : Gang) : List (Option Nat) := g.agents.filter (fun sl => decide (g.activeOf sl ≠ 0))

/-- The gang may issue: it is resident and not being taken off its cluster, and its die is in service (R353). -/
def State.gangRuns (s : State) (g : Gang) : Bool :=
  (g.life == .active || g.life == .pending) && (s.block? g.block).any (fun b => b.resident && !b.stop.saving) &&
  !s.pkg.badDies.contains (g.easel / 192)

/-- The lead of a whole gang may be a slice without an active lane: an agent's slice that stands for it. -/
def State.gangReady (s : State) (g : Gang) : Bool := s.gangRuns g && g.runners.any (fun sl => s.agentReady g sl)

/-! ### Long-latency stalls (R249, R325) -/

/-- The expected remaining time of a wait on the counters of a mask (R249). -/
def Gang.remaining (g : Gang) (mask now : Nat) : Nat :=
  ((List.range 6).map (fun j =>
    if bitAt mask j && g.getK j != 0 then
      (((g.tracked.filter (fun t => t.token == j)).getLast?).map (fun t => t.due - now)).getD 0
    else 0)).foldl max 0

/-- The agent is in a long-latency stall. -/
def State.agentStalled (s : State) (g : Gang) (sl : Option Nat) : Bool :=
  match g.lead sl with
  | none => false
  | some x =>
    if !s.holdOver g sl x.hold then
      match x.hold with
      | .kwait m _ => decide (64 < g.remaining m s.pkg.clock)
      | .view _ | .page _ | .pool _ | .barwait .. | .barsync .. | .call .. | .escalated .. => true
      | _ => false
    else match (s.block? g.block).bind (fun b => (s.hdrOf b).bind (fun h => s.entering b.part h x)) with
      | some (_, wait) => decide (64 < g.remaining wait s.pkg.clock)
      | none => false

/-- The agent is held at REGANG. -/
def Gang.atRegang (g : Gang) (sl : Option Nat) : Bool :=
  match g.lead sl with
  | some x => match x.hold with
    | .regang .. => true
    | _ => false
  | none => false

/-- Every live agent is in a long-latency stall or held at REGANG, and one is in such a stall (R249). -/
def State.gangStalled (s : State) (g : Gang) : Bool :=
  g.runners.any (fun sl => s.agentStalled g sl) && g.runners.all (fun sl => s.agentStalled g sl || g.atRegang sl)

/-! ### What happens to an agent without an issue -/

/-- The word of a join that the agent has reached: at its next word, or at the extension word after it (R32, R34). -/
def State.joinReached (s : State) (part : Nat) (x : Slice) : Option Nat :=
  match x.topJoin with
  | none => none
  | some j =>
    if x.atEnd then none
    else if j = x.point.pc then some j
    else if x.point.inside && j == x.point.pc + 4 && (s.code part x.point.pc).any (fun w => w.getLsbD 28) then some j
    else none

/-- The slices of an agent that have reached a join, with the join. -/
def State.joiners (s : State) (g : Gang) (part : Nat) (sl : Option Nat) : List (Nat × Slice × Nat) :=
  (g.members sl).filterMap (fun i => (g.slice? i).bind (fun x =>
    if x.active &&& g.live = 0 then none else (s.joinReached part x).map (fun j => (i, x, j))))

/-- The slices' switch at their join, and what slices that it leaves without an active lane then do (R32, R33, R217, R350). -/
def State.switchAll (s : State) (g : Gang) (sl : Option Nat) (l : List (Nat × Slice × Nat)) : State :=
  let h := g.switched (l.map (fun p => (p.1, (p.2.1.arrive).1, p.2.1.switchWord)))
  let s1 := s.modGang g.id (fun _ => h)
  if l.length = (g.members sl).length then (s1.newFence g.id sl 2 0 false).settleSlices g.id
  else (l.foldl (fun s p => s.newFence g.id (some p.1) 2 0 false) s1).settleSlices g.id

/-- The slices of an agent that have reached the join of its lowest slice that has reached one (log 105), with that join; none while
its word is not there. -/
def State.joinsHere (s : State) (g : Gang) (sl : Option Nat) : List (Nat × Slice × Nat) :=
  match s.block? g.block with
  | none => []
  | some b =>
    let l := s.joiners g b.part sl
    match l with
    | [] => []
    | p :: _ => if s.codeHeld b.part p.2.2 then [] else l.filter (fun q => q.2.2 == p.2.2)

/-- The trap of slices at a join: its word is an instruction, or a slice would leave a loop below its depth (R34, R233). -/
def State.joinTrap (s : State) (g : Gang) (here : List (Nat × Slice × Nat)) : Option Trap :=
  let lanes := fun (l : List (Nat × Slice × Nat)) => l.foldl (fun m p => m ||| (p.2.1.active &&& g.live)) 0
  let bad := here.filter (fun q => (q.2.1.join).2)
  match here with
  | [] => none
  | p :: _ =>
    if ((s.block? g.block).bind (fun b => s.code b.part p.2.2)).any (fun w => !w.getLsbD 31) then
      some ⟨0x04, p.2.2, lanes here, 0, p.2.2⟩
    else if bad ≠ [] then some ⟨0x07, p.2.2, lanes bad, 0, 5⟩ else none

/-- The trap of an agent's slices that a loss of lanes or a return from a handler left without an active lane and that would leave a
loop below its depth: LOOP_SHAPE, cause 5, at the word where the first of them stands, with the lanes that would go on (R33, R231,
R233; log 105). -/
def Gang.stuckTrap (g : Gang) (sl : Option Nat) : Option Trap :=
  let l := (g.members sl).filterMap (fun i => (g.slice? i).bind (fun x => if g.loopStuck i x then some x else none))
  match l with
  | [] => none
  | x :: _ => some ⟨0x07, x.point.pc, l.foldl (fun m y => m ||| y.settleStep.elim 0 (·.1.active)) 0, 0, 5⟩

/-- One join switch of an agent, or the trap that it raises (R32 to R34, R233); none when there is nothing to do, or while the shadow of
a twin that would trap is behind (R349). Where slices' joins are both bad, the lowest slice's is raised (log 105). -/
def State.joinAgent (s : State) (g : Gang) (sl : Option Nat) : Option State :=
  let here := s.joinsHere g sl
  let raise := fun (t : Trap) (same : Gang → Bool) => if s.agentLevel g sl then some (s.trapAtNext ⟨g.id, sl⟩ t same) else none
  match g.stuckTrap sl with
  | some t => raise t (fun o => o.stuckTrap sl == some t)
  | none => match s.joinTrap g here with
    | some t => raise t (fun o => s.joinTrap o (s.joinsHere o sl) == some t)
    | none => if here = [] then none else some (s.switchAll g sl here)

/-- An agent's end checks and join switches, which take no cycle. -/
def State.settleAgent (s : State) (gid : Nat) (sl : Option Nat) : Option State :=
  (s.gang? gid).bind (fun g => (g.lead sl).bind (fun x =>
    if !s.holdOver g sl x.hold then none
    else if (g.members sl).any (fun i => (g.slice? i).any (fun y => y.active != 0 && y.atEnd)) then
      (if (g.endTrap sl).isSome && !s.agentLevel g sl then none else some (s.endBodies ⟨gid, sl⟩))
    else s.joinAgent g sl))

/-- The first agent of a gang with something to settle. -/
def State.settleOne (s : State) (gid : Nat) : Option State :=
  (s.gang? gid).bind (fun g => if s.gangRuns g then g.agents.findSome? (fun sl => s.settleAgent gid sl) else none)

def settleSteps (gid : Nat) : Nat → State → State
  | 0, s => s
  | n + 1, s => match s.settleOne gid with
    | some t => settleSteps gid n t
    | none => s

/-- Every agent of a gang stands at a word to be issued or a clause to be entered: two switches for each of seven
entries of eight slices, and the end checks between them. -/
def State.settleGang (s : State) (gid : Nat) : State := (settleSteps gid 256 s).consumed s gid

end Sys2Proof.Machine
end

