-- ==== Sys2Proof/Machine/EvEasel.lean ====
section
/-!
DEFINITION. Machine/EvEasel.lean: the easel's cycle: the active set, exchanges, the choice of the agent that issues,
clause entry and the stall counters (04 R66, R67, R78, 11 R244, R248 to R252, R368).
-/

namespace Sys2Proof.Machine

/-! ### Before the choice -/

/-- The gangs resident on an easel. -/
def State.onEasel (s : State) (e : Nat) : List Gang :=
  s.gangs.filter (fun g => g.easel == e && (g.life == .active || g.life == .pending) &&
    (s.block? g.block).any (·.resident))

/-- A KWAIT whose counters have met its limit in a cycle is over (R238). -/
def Gang.kwaitDone (g : Gang) (h : Hold) : Hold :=
  match h with
  | .kwait m l => if g.kwaitOver m l then .kwait 0 l else h
  | h => h

/-- Readiness and stalls are looked at anew (R248, R249), in every cycle. -/
def State.watchGang (s : State) (g : Gang) : Gang :=
  let now := s.pkg.clock
  let runs := s.gangRuns g
  let since := fun (old : Option Nat) (b : Bool) => if b then some (old.getD now) else none
  let upd := fun (g : Gang) (sl : Option Nat) => g.modAgent sl (fun x =>
    { x with readySince := since x.readySince (runs && s.agentReady g sl), hold := g.kwaitDone x.hold })
  let h := g.runners.foldl upd g
  { h with readySince := since g.readySince (s.gangReady g), stallSince := since g.stallSince (s.gangStalled g || g.cede) }

def State.watch (s : State) (e : Nat) : State :=
  let s1 := (s.onEasel e).foldl (fun s g => s.settleGang g.id) s
  { s1 with gangs := s1.gangs.map (fun g => if g.easel = e then s1.watchGang g else g) }

/-- The gang with the least key. -/
def leastGang (key : Gang → Nat × Nat × Nat) : List Gang → Option Gang
  | [] => none
  | g :: t => match leastGang key t with
    | none => some g
    | some h =>
      let a := key g
      let b := key h
      if b.1 < a.1 ∨ (b.1 = a.1 ∧ (b.2.1 < a.2.1 ∨ (b.2.1 = a.2.1 ∧ b.2.2 < a.2.2))) then some h else some g

/-- By the time given, then the gang placed earlier. -/
def byTime (t : Nat) (g : Gang) : Nat × Nat × Nat := (t, g.placedAt, g.id)

def activeOn (l : List Gang) : List Gang := l.filter (fun g => g.life == .active)

/-- The ready pending gang that has been ready longest (R249). -/
def nextIn (l : List Gang) : Option Gang :=
  leastGang (fun g => byTime (g.readySince.getD 0) g) (l.filter (fun g => g.life == .pending && g.readySince.isSome))

/-- The gang enters the active set. -/
def State.activate (s : State) (id : Nat) : State :=
  s.modGang id (fun g => { g with life := .active, activeSince := s.pkg.clock })

/-- A place in the active set is filled (R249). -/
def State.fill (s : State) (e : Nat) : Nat → State
  | 0 => s
  | n + 1 =>
    let t := s.fill e n
    if (activeOn (t.onEasel e)).length < 8 then
      match nextIn (t.onEasel e) with
      | some g => t.activate g.id
      | none => t
    else t

/-- The easel as it stands in its cycle before any exchange. -/
def State.opened (s : State) (e : Nat) : State := (s.watch e).fill e 8

/-! ### Exchanges (R66, R249, R250, R368) -/

/-- The causes of an exchange, in their order. -/
inductive Swap where
  | stall | promotion | limit
deriving DecidableEq, Repr

/-- Since when an active gang has issued nothing: counted from its entry into the active set at the earliest, as R251
requires; else a gang that has just come in would leave at once (DEDUCED, log 31). -/
def Gang.idleSince (g : Gang) : Nat := max g.lastIssue g.activeSince

/-- The cycle's exchange: its cause, the gang that leaves and the one that enters. -/
def State.swap (s : State) (e : Nat) : Option (Swap × Gang × Gang) :=
  let l := s.onEasel e
  let now := s.pkg.clock
  (nextIn l).bind (fun enter =>
    let act := activeOn l
    let wait := now - enter.readySince.getD now
    let idle := leastGang (fun g => byTime g.idleSince g) act
    match leastGang (fun g => byTime (g.stallSince.getD 0) g) (act.filter (fun g => g.stallSince.isSome)) with
    | some g => some (.stall, g, enter)
    | none =>
      match if 256 ≤ wait then idle.filter (fun g => decide (g.idleSince + 32 ≤ now)) else none with
      | some g => some (.promotion, g, enter)
      | none => if 4096 ≤ wait then
          (leastGang (fun g => byTime g.activeSince g) act).map (fun g => (.limit, g, enter)) else none)

/-- The exchange takes the easel's cycle (R249). -/
def State.exchange (s : State) (e : Nat) (x : Swap × Gang × Gang) : State :=
  ((s.modGang x.2.1.id (fun g => { g with life := .pending, cede := false, stallSince := none })).activate x.2.2.id).endTurn e 10

/-- A CEDE that finds no ready pending gang has no effect (R66). -/
def State.uncede (s : State) (e : Nat) : State :=
  { s with gangs := mapWhere (fun (g : Gang) => g.easel == e && g.cede) (fun g => { g with cede := false }) s.gangs }

/-! ### The choice (R248) -/

/-- The active gang that has been ready longest, and its agent that has. -/
def State.chosen (s : State) (e : Nat) : Option AgentId :=
  (leastGang (fun g => byTime (g.readySince.getD 0) g)
      ((activeOn (s.onEasel e)).filter (fun g => g.readySince.isSome))).bind (fun g =>
    let since := fun (sl : Option Nat) => ((g.lead sl).bind (·.readySince)).getD 0
    let l := sortBy since (g.runners.filter (fun sl => s.agentReady g sl))
    l.head?.map (fun sl => ⟨g.id, sl⟩))

/-- The chosen agent's next word: in its clause, or the first of the clause that it enters; a fetch may trap, and a header that
breaks R78 raises ILLEGAL_CLAUSE. -/
def State.front (s : State) (aid : AgentId) : State :=
  match s.gang? aid.gang with
  | none => s
  | some g => match g.lead aid.slice, (s.block? g.block).bind (fun b => (s.hdrOf b).map (fun h => (b, h))) with
    | some x, some (b, h) =>
      match s.nextTrap g aid.slice b.part h x with
      | some t => s.trapAtNext aid t (fun _ => true)
      | none =>
      if x.point.inside then { s with issuing := some aid }
      else
        let a := x.point.pc
        let act := g.activeOf aid.slice
        let cause := s.headerCause b.part h a
        if cause ≠ 0 then s.trapAtNext aid ⟨0x01, a, act, 0, cause⟩ (fun _ => true)
        else match s.headerAt b.part a with
          | none => s
          | some hd => match s.badK g hd.wait.toNat with
            | some j => s.trapAtNext aid ⟨0x15, a, act, 0, 2 + 256 * j⟩ (fun o => s.badK o hd.wait.toNat == some j)
            | none =>
            let enter := fun (y : Slice) => if y.point = x.point then { y with point := Point.enter a hd } else y
            { s.modGang aid.gang (fun g => g.modAgent aid.slice enter) with issuing := some aid }
    | _, _ => s

/-! ### Stall counters (R252) -/

/-- An access of the gang is in its scratchpad cycles beyond the first (R180). -/
def State.inBanks (s : State) (g : Gang) : Bool :=
  s.fl.ops.any (fun o => o.gang == g.id && decide (o.issued < s.pkg.clock) && decide (s.pkg.clock < o.issued + o.banks))

/-- What holds an agent, as a counter, bank conflicts apart. -/
def State.agentWait (s : State) (g : Gang) (sl : Option Nat) : Nat :=
  match g.lead sl with
  | none => 2
  | some x =>
    if x.hold = .twin then 14
    else if !s.holdOver g sl x.hold then x.hold.counter
    else if s.pkg.clock < x.earliest then 3
    else if !s.twinLevel g sl x then 14
    else match (s.block? g.block).bind (fun b => (s.hdrOf b).bind (fun h => s.entering b.part h x)) with
      | none => 13
      | some (_, wait) => if g.waitMet wait s.pkg.clock then 13 else 2

/-- What holds an agent, as a counter: a wait for a token, while an access of its gang takes scratchpad cycles beyond the
first, is a bank conflict (R180, R252; log 69). -/
def State.agentReason (s : State) (g : Gang) (sl : Option Nat) : Nat :=
  let r := s.agentWait g sl
  if r = 2 ∧ s.inBanks g then 4 else r

/-- The reason of the active gang that has waited longest since its last issue: that of its first agent. A gang whose
lanes are all gone waits for its tokens. -/
def State.reason (s : State) (e : Nat) : Nat :=
  match leastGang (fun g => byTime g.lastIssue g) (activeOn (s.onEasel e)) with
  | none => 1
  | some g => match g.runners with
    | [] => 2
    | sl :: _ => s.agentReason g sl

/-! ### EASEL_CYCLE, GANG_PROMOTION, RESIDENCY_LIMIT -/

/-- One turn of an easel: an exchange, or the agent that will issue, or a stall. -/
def State.easelTurn (s : State) (e : Nat) : State :=
  let s1 := s.opened e
  match s1.swap e with
  | some x => s1.exchange e x
  | none =>
    let s2 := if (nextIn (s1.onEasel e)).isNone then s1.uncede e else s1
    match s2.chosen e with
    | some aid => s2.front aid
    | none => s2.endTurn e (s2.reason e)

/-- The easel whose turn it is; none has one in a package that has halted (R24). -/
def State.onTurn (s : State) (e : Nat) : Bool := s.turn == e && s.issuing.isNone && s.pkg.live

def execEaselCycle (easel : Nat) (s : State) : StepOut :=
  event (if s.onTurn easel then some (s.easelTurn easel) else none)

/-- The easel's turn when its exchange has this cause. -/
def State.swapTurn (s : State) (e : Nat) (c : Swap) : Option State :=
  if !s.onTurn e then none
  else match (s.opened e).swap e with
    | some x => if x.1 = c then some ((s.opened e).exchange e x) else none
    | none => none

def execGangPromotion (easel : Nat) (s : State) : StepOut := event (s.swapTurn easel .promotion)
def execResidencyLimit (easel : Nat) (s : State) : StepOut := event (s.swapTurn easel .limit)

/-! ### BAR_STARVED (R244) -/

/-- The agent is held in a barrier wait: the offset and the phase awaited, the present one for a BARSYNC whose gang has
not yet arrived. -/
def State.barrier? (s : State) (blk : Nat) (x : Slice) : Option (Nat × Nat) :=
  match x.hold with
  | .barwait o n => some (o, n)
  | .barsync o p => some (o, p.getD (((s.block? blk).map (fun b => (b.bar o).phase)).getD 0))
  | _ => none

/-- The agent is held in a barrier wait, at REGANG or by its arrival record. -/
def Slice.barHeld (x : Slice) : Bool :=
  match x.hold with
  | .barwait .. => true
  | .barsync .. => true
  | .regang .. => true
  | .arrival | .record _ => true
  | _ => false

/-- The barriers that agents of a block await. -/
def State.awaited (s : State) (blk : Nat) : List (Nat × Nat) :=
  (s.gangs.filter (fun g => g.block == blk && g.life != .ended)).flatMap (fun g =>
    g.runners.filterMap (fun sl => (g.lead sl).bind (s.barrier? blk)))

/-- A release of the gang still stands out that may complete a phase: its exit effect, or an arrival that every live slice has made
(R220, R241, R242). -/
def Gang.releaseDue (g : Gang) : Bool := g.exitDue || (decide (g.live ≠ 0) && g.arrivals.any g.allArrived)

/-- A block is starved on its barriers (R244); it is not while a release of its gangs stands out. -/
def State.starved (s : State) (b : Block) : Bool :=
  let gs := s.gangs.filter (fun g => g.block == b.id && g.life != .ended && decide (g.live ≠ 0) && (match g.kind with
    | .shadow _ => false
    | _ => true))
  b.resident && gs.all (fun g => g.runners.all (fun sl => (g.lead sl).any (·.barHeld))) && s.awaited b.id != [] &&
  (s.awaited b.id).all (fun p => !s.phasePassed b.id p.1 p.2) && !s.gangs.any (fun g => g.block == b.id && g.releaseDue) &&
  !s.fl.copies.any (fun c => c.block == b.id && c.barrier.any (fun o => (s.awaited b.id).any (fun p => p.1 == o)))

/-- An agent held in a barrier wait of a starved block traps (R244). -/
def State.barStarves (s : State) (gang : Nat) (sl : Option Nat) : Option State :=
  (s.gang? gang).bind (fun g => (s.block? g.block).bind (fun b => (g.lead sl).bind (fun x =>
    (s.barrier? b.id x).bind (fun p =>
      if s.starved b && g.runners.contains sl then
        let act := g.activeOf sl
        let t : Trap := ⟨0x0F, x.point.pc, act, 0xFFF0000000000000 + p.1, p.2⟩
        let s1 := s.takeTrap ⟨gang, sl⟩ t (g.replayOf sl)
        some (match s.shadowOf gang with
          | some h => s1.takeTrap ⟨h.id, sl⟩ t (h.replayOf sl)
          | none => s1)
      else none))))

def execBarStarved (gang : Nat) (sl : Option Nat) (s : State) : StepOut := event (s.barStarves gang sl)

end Sys2Proof.Machine
end

