-- ==== Sys2Proof/Machine/EvEngine.lean ====
section
/-!
DEFINITION. Machine/EvEngine.lean: the events of the matrix engine: its entries, rows delivered to registers, the
units of an iteration, its failure and its test (07 R142 to R159, 08 R161 to R171, 20 R344, R351).
-/

namespace Sys2Proof.Machine

/-! ### Order (R142, R143, R162) -/

/-- Runs that meet in the scratchpad. -/
def scratchMeet (l m : List (Nat × Nat)) : Bool :=
  l.any (fun r => decide (scratchBase ≤ r.1) && m.any (fun t => overlaps r.1 r.2 t.1 t.2))

/-- Runs that meet. -/
def runsMeet (l m : List (Nat × Nat)) : Bool := l.any (fun r => m.any (fun t => overlaps r.1 r.2 t.1 t.2))

/-- An earlier operation of the block writes scratchpad bytes that a later one reads (R142). -/
def MxJob.feeds (e j : MxJob) : Bool := e.block == j.block && !e.finished && scratchMeet e.writes j.reads

/-- An operation must wait for an earlier one of its block: a band of a tile in common, scratchpad bytes that one of them writes
and the other reads (R142), or bytes that both write for one gang, whose stores keep the order of issue (R143, R152, R208). -/
def MxJob.after (j e : MxJob) : Bool :=
  e.block == j.block && !e.finished &&
  (j.claims.any (fun p => e.claims.contains p) || e.feeds j || scratchMeet e.reads j.writes ||
   (e.gang == j.gang && runsMeet e.writes j.writes))

/-- The operations that were accepted before `j`. -/
def State.earlier (s : State) (j : MxJob) : List MxJob := s.fl.jobs.takeWhile (fun e => e.id != j.id)

/-- A run of an operation's destination meets an element that its gang has not yet performed. -/
def State.runOpen (s : State) (j : MxJob) (part : Nat) (r : Nat × Nat) : Bool :=
  (s.older j.gang j.id).any (fun o => o.elts.any (fun e => match spaceOf r.1, e.place with
    | .scratch x, .scratch y => overlaps x r.2 y o.bytes
    | .global v, .phys y _ => (pagePoints v r.2).any (fun a => match s.translate part a 1 with
      | .ok p _ => overlaps p (min (v + r.2 - a) 65536) y o.bytes
      | _ => false)
    | _, _ => false))

/-- The engine of an operation serves it: nothing keeps it from its memory (R310, R353, R356). -/
def State.jobServed (s : State) (j : MxJob) : Bool :=
  let e := s.seat j.block j.gang j.id true
  !j.finished && !s.dieOff (wingOf j.cluster) && !s.keyHeld e j.reads && !(s.fabricWaits e.part && (j.reads ++ j.writes != []))

/-- An operation may be performed. -/
def State.jobReady (s : State) (j : MxJob) : Bool :=
  s.jobServed j && !(s.earlier j).any j.after && !j.writes.any (s.runOpen j (s.partOf j.block))

/-- An operation may read its memory, at any time since its acceptance (R143) but before no earlier write of its scratchpad bytes
(R142). -/
def State.jobReads (s : State) (j : MxJob) : Bool := s.jobServed j && j.reads != [] && !(s.earlier j).any (·.feeds j)

/-! ### Cells -/

def cellKey (tile row col : Nat) : Nat := 1024 * tile + 32 * row + col

def State.cell (s : State) (blk tile row col : Nat) : Reg :=
  match s.block? blk with
  | some b => mapGet b.tiles (cellKey tile row col)
  | none => 0

def State.cellBad (s : State) (blk tile row col : Nat) : Bool := s.poisoned (.cell blk (cellKey tile row col))

/-- A cell is written; `whole` clears its poison first, `bad` sets it (R344). -/
def State.setCell (s : State) (blk tile row col : Nat) (v : Reg) (whole bad : Bool) : State :=
  let s1 := s.modBlock blk (fun b => { b with tiles := mapSet b.tiles (cellKey tile row col) v })
  let s2 := if whole then s1.clearPoison (fun e => e == .cell blk (cellKey tile row col)) else s1
  if bad then s2.addPoison (.cell blk (cellKey tile row col)) else s2

/-- The cells of a band by row and column. -/
def bandCells (q : Nat) : List (Nat × Nat) :=
  (List.range 8).flatMap (fun i => (List.range 32).map (fun n => (8 * q + i, n)))
/-- The cells of a tile. -/
def tileCells : List (Nat × Nat) := (List.range 4).flatMap bandCells

/-! ### MMA (R147) -/

/-- The bytes of a planed fragment that hold the element of row `i` and term `t` (R98). -/
def aDeps (code i t : Nat) : List Nat :=
  let b := t / 32 * stripBytes code
  let o := 4 * i + t % 32 / 8
  (if code < 8 then [b + o, b + 32 + 32 * i + t % 32] else []) ++ (if code = 0 then [b + 288 + 32 * i + t % 32] else []) ++
  (List.range (planesOf code)).map (fun p => b + stripHead code + 32 * p + o)

/-- The seats at which an entry reads its elements, each of its own: of A by row and term, of B by term and column, and of the
two scale tables by byte. -/
def Seat.ofA (e : Seat) (i t : Nat) : Seat := e.nth (4 * (8 * t + i))
def Seat.ofB (e : Seat) (t n : Nat) : Seat := e.nth (4 * (32 * t + n) + 1)
def Seat.ofAS (e : Seat) (o : Nat) : Seat := e.nth (4 * o + 2)
def Seat.ofBS (e : Seat) (o : Nat) : Seat := e.nth (4 * o + 3)

/-- The places of the scales of a term in their tables (R141). -/
def scaleAt (fb : FBlock) (t x : Nat) : Nat := 32 * (t / scaleLen fb.sbl) + x

/-- The terms of a cell: row `r`, column `n` (R141, R147). -/
def State.terms (s : State) (e : Seat) (fb : FBlock) (a b k r n : Nat) : List Term :=
  (List.range k).map (fun t =>
    { a := aElem fb.af (s.engByte (e.ofA (r % 8) t)) a (r % 8) t
      b := bElem fb.bf (s.engByte (e.ofB t n)) b t n
      sa := if fb.as then scaleExp (s.engByte (e.ofAS (scaleAt fb t r)) (scratchBase + fb.asoff + scaleAt fb t r)) else some 0
      sb := if fb.bs then scaleExp (s.engByte (e.ofBS (scaleAt fb t n)) (scratchBase + fb.bsoff + scaleAt fb t n)) else some 0 })

/-- A poisoned operand byte reaches the cell (R344). -/
def State.termsBad (s : State) (e : Seat) (fb : FBlock) (a b k r n : Nat) : Bool :=
  let w := codeWidth fb.bf
  !s.allClean && (List.range k).any (fun t =>
    (aDeps fb.af (r % 8) t).any (fun o => s.engBad (e.ofA (r % 8) t) (a + o)) ||
    s.engRangeBad (e.ofB t n) (b + (32 * t + n) * w / 8) (((32 * t + n) * w % 8 + w + 7) / 8) ||
    (fb.as && s.engBad (e.ofAS (scaleAt fb t r)) (scratchBase + fb.asoff + scaleAt fb t r)) ||
    (fb.bs && s.engBad (e.ofBS (scaleAt fb t n)) (scratchBase + fb.bsoff + scaleAt fb t n)))

def State.doMma (s : State) (e : Seat) (j : MxJob) (q a b kn : Nat) : State :=
  let fb := fblockOf j.fb
  let k := termsOf kn
  (bandCells q).foldl (fun t p =>
    t.setCell j.block j.tile p.1 p.2
      (mmaCell fb (s.cell j.block j.tile p.1 p.2) (s.terms e fb a b k p.1 p.2)) false (s.termsBad e fb a b k p.1 p.2)) s

/-! ### ACLD, ACST, ACWR, PLANE (R151 to R157) -/

/-- The address and the bits of element `n` of a row. -/
def State.rowElem (s : State) (e : Seat) (a mf n : Nat) : Nat := runBits (s.engByte e) a (rowWidth mf * n) (rowWidth mf)
def State.rowElemBad (s : State) (e : Seat) (a mf n : Nat) : Bool :=
  let w := rowWidth mf
  s.engRangeBad e (a + w * n / 8) ((w * n % 8 + w + 7) / 8)

def State.doAcld (s : State) (e : Seat) (j : MxJob) (q a pitch mf : Nat) (se : Int) : State :=
  (bandCells q).foldl (fun t p =>
    let x := (a + p.1 % 8 * pitch) % 2 ^ 64
    t.setCell j.block j.tile p.1 p.2 (writeCell (fblockOf j.fb) mf se (s.rowElem (e.nth (32 * p.1 + p.2)) x mf p.2)) true
      (s.rowElemBad (e.nth (32 * p.1 + p.2)) x mf p.2)) s

/-- The bytes of a stored row, each with the poison of the cells it comes from (R152, R154). -/
def State.rowBytes (s : State) (j : MxJob) (r mf : Nat) (se : Int) (sat : Bool) : List (Nat × Bool) :=
  let w := rowWidth mf
  let v := fun (n : Nat) => (readCell (fblockOf j.fb) mf se sat (s.cell j.block j.tile r n)).1 % 2 ^ w
  let row := (List.range 32).foldl (fun acc n => acc + v n * 2 ^ (w * n)) 0
  (List.range (4 * w)).map (fun i => (row / 2 ^ (8 * i) % 256,
    s.errs.poison != [] && (List.range 32).any (fun n => s.cellBad j.block j.tile r n && overlaps (8 * i) 8 (w * n) w)))

/-- The bytes of a row as they lie for a write, when all of them can be reached and are global. -/
def State.globalRow (s : State) (e : Seat) (a : Nat) (row : List (Nat × Bool)) : Option (List RowByte) :=
  let l := ((List.range row.length).zip row).filterMap (fun x => match s.reach e (a + x.1) 1 with
    | .at_ (.phys p k) => some (RowByte.mk (a + x.1) p k x.2.1 x.2.2)
    | _ => none)
  if l.length = row.length then some l else none

/-- A row's bytes, cut where a unit of `m` bytes begins. -/
def cutRow (m : Nat) : List RowByte → List (List RowByte)
  | [] => []
  | x :: t => match cutRow m t with
    | (y :: u) :: r => if y.phys = x.phys + 1 ∧ y.phys % m ≠ 0 then (x :: y :: u) :: r else [x] :: (y :: u) :: r
    | r => [x] :: r

/-- Bytes of one line join the gang's combiner as a store numbered `id`. -/
def State.storePiece (s : State) (j : MxJob) (id : Nat) (l : List RowByte) : State :=
  match l with
  | [] => s
  | b :: _ =>
    let v := l.foldr (fun x n => x.val + 256 * n) 0
    let o : MemOp := { id := id, gang := j.gang, slice := j.slice, kind := .store, bytes := l.length, ord := 1, token := false
                       file := .d, dest := 0, elts := [⟨0, false, b.gen, .phys b.phys b.key, v, 0⟩], parked := false, at_ := j.at_
                       issued := s.pkg.clock, banks := 1, row := some (l.any (·.bad)) }
    { s with fl := { s.fl with ops := insertBy (fun (o : MemOp) => o.id) o s.fl.ops } }

/-- What the agent's matrix operation writes to global memory stands in its gang's combiner, in the place of the operation's issue
(R143, R207): a row's bytes in one line together, each grain of a poisoned row by itself (R344; log 37). What lies in the scratchpad
reaches its bank at once. -/
def State.storeRow (s : State) (e : Seat) (j : MxJob) (r a : Nat) (row : List (Nat × Bool)) : State :=
  match s.globalRow e a row with
  | none => (s.engSettle e a row.length).engRun e a row
  | some l =>
    let cut := cutRow (if l.any (·.bad) then 8 else 256) l
    ((List.range cut.length).zip cut).foldl (fun s p => s.storePiece j (j.id + 1 + rowIds * r + p.1) p.2) s

/-- Rows are written in ascending order (R152). -/
def State.doAcst (s : State) (e : Seat) (j : MxJob) (q a pitch mf : Nat) (se : Int) (sat : Bool) : State :=
  let rows := (List.range 8).map (fun i => (8 * q + i, (a + i * pitch) % 2 ^ 64, s.rowBytes j (8 * q + i) mf se sat))
  rows.foldl (fun t r => t.storeRow e j r.1 r.2.1 r.2.2) s

def State.doAcwr (s : State) (j : MxJob) (r sf : Nat) (vals : List (Nat × Reg)) : State :=
  vals.foldl (fun t p => t.setCell j.block j.tile r p.1
    (writeCell (fblockOf j.fb) sf 0 (p.2.toNat % 2 ^ rowWidth sf)) true false) s

/-- The whole source is read before the destination is written (R157). -/
def State.doPlane (s : State) (e : Seat) (dst src kn fmt : Nat) : State :=
  let k := termsOf kn
  let w := codeWidth fmt
  let get := fun (i t : Nat) => runBits (s.engByte (e.nth (8 * t + i))) (src + i * (k * w / 8)) (w * t) w
  let bad := fun (o : Nat) => !s.allClean && (planedDeps fmt o).any (fun d =>
    s.engRangeBad (e.nth (8 * d.2 + d.1)) (src + d.1 * (k * w / 8) + w * d.2 / 8) ((w * d.2 % 8 + w + 7) / 8))
  let n := planedBytes fmt k
  (s.engSettle e dst n).engRun e dst ((List.range n).map (fun o => (planedByte fmt get o, bad o)))

/-! ### The feedback path (R161, R164, R166) -/

/-- A cell of the square is poisoned. -/
def State.squareBad (s : State) (blk tile size : Nat) : Bool :=
  s.errs.poison != [] && (List.range size).any (fun i => (List.range size).any (fun n => s.cellBad blk tile i n))

/-- Write: every cell of the tile, poisoned in the square when what it comes from is (R161, R344). -/
def State.writeTile (s : State) (blk tile af size : Nat) (m : Mat) (bad : Bool) : State :=
  tileCells.foldl (fun t p => t.setCell blk tile p.1 p.2 (matCell af size m p.1 p.2) true
    (bad && decide (p.1 < size) && decide (p.2 < size))) s

def State.loadTile (s : State) (j : MxJob) (tile size : Nat) : Mat := matLoad (fblockOf j.fb).af size (s.cell j.block tile)

def State.doMpoly (s : State) (j : MxJob) (src size n : Nat) (cs : List Reg) : State :=
  let af := (fblockOf j.fb).af
  s.writeTile j.block j.tile af size (matHorner af size (s.loadTile j src size) cs n) (s.squareBad j.block src size)

/-- MNORM's result stays with its job until the instruction issues, with the poison of the cells that it read (R172, R344). -/
def State.doMnorm (s : State) (j : MxJob) (size kind : Nat) : State :=
  let v := BitVec.ofNat 64 (matNorm (fblockOf j.fb).af size kind (s.loadTile j j.tile size))
  s.modJob j.id (fun j => { j with op := .mnorm size kind (some (v, s.squareBad j.block j.tile size)) })

/-- An entry that meets a package which has left the domain: what it reads there delivers nothing, what it writes there is
written or not (R357), and no trap is raised after acceptance (R160; log 89). -/
def State.lostEntry (s : State) (e : Seat) (j : MxJob) (q : Nat) : State :=
  if (s.goneAt e j.reads 0).isSome then s
  else
    let n := s.choose 2
    if n.1 = 0 then n.2
    else match j.op with
      | .acst a pitch mf se sat => n.2.doAcst e j q a pitch mf se sat
      | .plane dst src kn fmt => n.2.doPlane e dst src kn fmt
      | _ => n.2

/-- An entry that is no ACRD and no MITER does its work and leaves the queue (R142). -/
def State.entryEnds (s : State) (j : MxJob) : Option State :=
  let e := s.seat j.block j.gang j.id true
  let q := (j.claims.map (·.2)).headD 0
  if !s.jobReady j then none
  else
  let s := s.engFill e j.reads
  match (s.goneAt e j.reads 0).orElse (fun _ => s.goneAt e j.writes 1) with
  | some _ => some (((s.lostEntry e j q).dropJob j.id).settleReleases j.gang)
  | none => match j.op with
    | .mma a b kn => some ((s.doMma e j q a b kn).dropJob j.id)
    | .mzero => some (((bandCells q).foldl (fun t p => t.setCell j.block j.tile p.1 p.2 0 true false) s).dropJob j.id)
    | .acld a pitch mf se => some ((s.doAcld e j q a pitch mf se).dropJob j.id)
    | .acst a pitch mf se sat => some (((s.doAcst e j q a pitch mf se sat).dropJob j.id).settleReleases j.gang)
    | .acwr row sf vals => some ((s.doAcwr j row sf vals).dropJob j.id)
    | .plane dst src kn fmt => some (((s.doPlane e dst src kn fmt).dropJob j.id).settleReleases j.gang)
    | .mpoly src size n cs => some ((s.doMpoly j src size n cs).dropJob j.id)
    | .mnorm size kind _ => some (s.doMnorm j size kind)
    | .acrd .. => none
    | .miter .. => none

def execMatrixEntryComplete (op : Nat) (s : State) : StepOut := event ((s.job? op).bind s.entryEnds)

/-! ### ACRD (R155) -/

/-- A row reaches its lanes: value and INVALID; a poisoned cell kills its lane (R155, R345). -/
def State.rowEnds (s : State) (j : MxJob) : Option State :=
  match j.op with
  | .acrd dest pred row tf sat _ =>
    if !s.jobReady j || !s.twinReady j.gang j.at_ then none
    else
      let give := fun (t : State) (l : Nat) =>
        if s.cellBad j.block j.tile row l then t.killLanes j.gang (laneBit l)
        else
          let v := readCell (fblockOf j.fb) tf 0 sat (s.cell j.block j.tile row l)
          (t.deliver j.gang j.at_ 64 .d dest l (BitVec.ofNat 64 (v.1 % 2 ^ rowWidth tf))).deliver j.gang j.at_ 64 .p pred l
            (if v.2 then 1 else 0)
      some ((((lanesOf j.lanes).foldl give s).dropJob j.id).endToken j.gang j.at_)
  | _ => none

def execAcrdDelivery (op : Nat) (s : State) : StepOut := event ((s.job? op).bind s.rowEnds)

/-! ### MITER (R166 to R169) -/

/-- The order of a residual and a threshold: a NaN satisfies neither (R166). -/
def fleq (a b : Reg) : Bool :=
  match (fp64.decode a.toNat).cmp (fp64.decode b.toNat) with
  | some .lt => true
  | some .eq => true
  | _ => false
def fgt (a b : Reg) : Bool := (fp64.decode a.toNat).cmp (fp64.decode b.toNat) == some .gt
def finite64 (a : Reg) : Bool := match fp64.decode a.toNat with
  | .fin .. => true
  | _ => false

/-- A unit's outcome: the square, the count, the residual, and the status: 0 running, 1 CONVERGED, 2 CAPPED, 3
DIVERGED (R167). -/
structure UnitEnd where
  x : Mat
  count : Nat
  resid : Reg
  status : Nat

/-- CONVERGED, then DIVERGED, else what `other` says (R166). -/
def judge (r c14 c15 : Reg) (other : Nat) : Nat :=
  if fleq r c15 then 1 else if !finite64 r || fgt r c14 then 3 else other

/-- One unit after the start (R166). -/
def miterStep (fix : Bool) (af size deg cap count : Nat) (resid : Reg) (cs : List Reg) (c14 c15 : Reg) (x : Mat) : UnitEnd :=
  if fix then
    if count = cap then ⟨x, count, resid, 2⟩
    else
      let y := matHorner af size x cs deg
      let r := BitVec.ofNat 64 (matResid size y x)
      ⟨y, count + 1, r, judge r c14 c15 0⟩
  else
    let g := matStep af size (matT size x) x none
    let r := BitVec.ofNat 64 (matResid size g (matDiag size (.fin false 1 0)))
    let st := judge r c14 c15 (if count = cap then 2 else 0)
    if st = 0 then ⟨matStep af size x (matHorner af size g cs deg) none, count + 1, r, 0⟩ else ⟨x, count, r, st⟩

/-- The registers of R167, which a MITER that stops after one later in engine order leaves, with the poison of its square (R344), and
the deferred trap of R169, in a gang and its twin. -/
def State.miterStops (s : State) (j : MxJob) (te : Bool) (u : UnitEnd) (bad : Bool) : State :=
  match s.gang? j.gang with
  | none => s
  | some g =>
    let regs := fun (r : GangRegs) =>
      if j.id < r.miLast then r
      else { r with miStatus := BitVec.ofNat 64 u.status, miResid := u.resid, miCount := BitVec.ofNat 64 u.count, miLast := j.id
                    miBad := bad }
    let trap : List PendTrap :=
      if te && u.status == 3 && g.agentLive j.slice then [⟨j.slice, 0x13, some j.lanes, [], j.pc, j.id⟩] else []
    let stop := fun (h : Gang) => { h with regs := regs h.regs, pendTraps := h.pendTraps ++ trap }
    { s with gangs := mapWhere (twinOf j.gang g) stop s.gangs }

/-- The block is being saved, and its MITERs stand at their boundaries (R171). -/
def State.saving (s : State) (blk : Nat) : Bool :=
  (s.block? blk).any (fun b => !b.resident || b.stop.saving)

/-- One unit of a MITER: the start, or an iteration, which may stop it (R166 to R169). -/
def State.unitEnds (s : State) (j : MxJob) : Option State :=
  match j.op with
  | .miter fix te deg size cap count started resid cs c14 c15 =>
    if !s.jobReady j || s.saving j.block then none
    else
      let af := (fblockOf j.fb).af
      let x := s.loadTile j j.tile size
      let bad := s.squareBad j.block j.tile size
      let u : UnitEnd :=
        if started then miterStep fix af size deg cap count resid cs c14 c15 x
        else ⟨x, 0, 0x7FF0000000000000, 0⟩
      let zero := fun (t : State) (k : Nat) =>
        tileCells.foldl (fun t p => t.setCell j.block (j.tile + k) p.1 p.2 0 true false) t
      let s1 := ([1, 2, 3] : List Nat).foldl zero (s.writeTile j.block j.tile af size u.x bad)
      if u.status = 0 then
        some (s1.modJob j.id (fun j => { j with op := .miter fix te deg size cap u.count true u.resid cs c14 c15 }))
      else some ((s1.miterStops j te u bad).dropJob j.id)
  | _ => none

def execMiterUnit (op : Nat) (s : State) : StepOut := event ((s.job? op).bind s.unitEnds)

/-! ### What the engines see while they run (R143, R196, R200) -/

/-- An engine may look at its sources now, or later; not while a line of them waits under another key id (R310). -/
def State.maySee (s : State) (e : Seat) (runs : List (Nat × Nat)) : State :=
  if s.keyHeld e runs then s
  else
    let n := s.choose 2
    if n.1 = 0 then n.2 else (n.2.engFill e runs).see e runs

/-- In each cycle every operation under way may read some of its sources, which it does not look at again (log 36). -/
def State.glance (s : State) : State :=
  let ids := s.fl.jobs.map (·.id) ++ s.fl.copies.map (·.id) ++ s.fl.ctxs.flatMap (fun x => x.ops.map (·.id))
  let s0 := { s with fl := { s.fl with sights := s.fl.sights.filter (fun x => ids.contains x.op) } }
  let s1 := (s.fl.jobs.filter s.jobReads).foldl
    (fun s j => s.maySee (s.seat j.block j.gang j.id true) j.reads) s0
  let s2 := (s.fl.copies.filter (fun c => !s.errs.deadCopy.contains c.cluster)).foldl
    (fun s c => s.maySee (s.seat c.block c.gang c.id true) (c.runs.map (·.2))) s1
  s.fl.ctxs.foldl (fun s x => (x.ops.filter (fun o => !o.done && o.result.isNone && !s.errs.deadStream.contains x.wing)).foldl
    (fun s o => s.maySee (s.seat o.block o.gang o.id false) (s.streamRuns x o)) s) s2

/-! ### Errors as they are counted (R347) -/

/-- The cluster of a gang or of a block. -/
def State.clusterOf (s : State) (g : Nat) : Nat := ((s.gang? g).map (fun g => g.easel / 4)).getD 0
def State.clusterOfBlock (s : State) (b : Nat) : Nat := ((s.block? b).map (·.cluster)).getD 0
def stackOf (a : Nat) : Nat := a / 2 ^ 37 % 16

/-- The structure on its cluster, wing or stack under which an error is counted (R347), written as its place 0. -/
def State.countKey (s : State) (e : ErrSite) : ErrSite :=
  match e with
  | .dreg g _ _ => .dreg (s.clusterOf g) 0 0
  | .pred g _ _ => .pred (s.clusterOf g) 0 0
  | .amax g _ => .amax (s.clusterOf g) 0
  | .q g _ => .q (s.clusterOf g) 0
  | .k g _ => .k (s.clusterOf g) 0
  | .c g _ => .c (s.clusterOf g) 0
  | .stack g .. => .stack (s.clusterOf g) 0 0 0
  | .backing g _ _ => .l2 (wingOf (s.clusterOf g)) 0 false
  | .trapState g => .trapState (s.clusterOf g)
  | .scoreboard g => .scoreboard (s.clusterOf g)
  | .code g _ => .code (s.clusterOf g) none
  | .scratch b _ => .scratch (s.clusterOfBlock b) 0
  | .cell b _ => .cell (s.clusterOfBlock b) 0
  | .l2 n _ _ => .l2 n 0 false
  | .l2tag n _ _ => .l2tag n 0 false
  | .hbm u => .hbm (stackOf (64 * u))
  | .engine c => .engine c
  | .copyUnit c => .copyUnit c
  | .streamUnit w => .streamUnit w
  | .sketchUnit w => .sketchUnit w

/-- One more error of a structure: correctable and uncorrectable ones are counted apart. -/
def State.countError (s : State) (e : ErrSite) (corr unc : Nat) : State :=
  let k := s.countKey e
  let l := s.errs.counts
  let old := (l.find? (fun c => c.1 == k)).map (·.2) |>.getD (0, 0)
  { s with errs := { s.errs with counts := (k, old.1 + corr, old.2 + unc) :: l.filter (fun c => c.1 != k) } }

/-- An uncorrectable error is counted and passed to the supervisor OS. -/
def State.reportError (s : State) (e : ErrSite) : State := (s.countError e 0 1).emit (.errorEvent e)

/-! ### Failure and test (R159, R351) -/

/-- The resident blocks of a cluster that use its engine. -/
def State.engineUsers (s : State) (cluster : Nat) : List Block :=
  s.blocks.filter (fun b => b.cluster == cluster && b.resident && !b.ended && (match s.hdrOf b with
    | some h => !h.nomatrix
    | none => false))

/-- The cells of a block's tiles once they are lost: free values (R159; log 96). -/
def State.lostTiles (s : State) (b : Block) : SMap 64 :=
  (List.range (1024 * ((s.hdrOf b).map (·.tiles)).getD 0)).filterMap (fun i =>
    let v := Config.lostCell s.choice b.id i
    if v = 0 then none else some (i, v))

/-- A cluster's engine fails: its work is discarded, its tiles are lost, ACRD tokens are released, and each gang of
the blocks that use it takes MATRIX_ABSENT once (R159). -/
def State.engineFails (s : State) (cluster : Nat) : State :=
  let blks := (s.engineUsers cluster).map (·.id)
  let mine := s.fl.jobs.filter (fun j => j.cluster == cluster)
  let bad := if s.errs.badEngines.contains cluster then s.errs.badEngines else cluster :: s.errs.badEngines
  let jobs := s.fl.jobs.filter (fun j => j.cluster != cluster)
  let lose := fun (b : Block) => { b with tiles := s.lostTiles b, engineLost := true }
  let trap := fun (g : Gang) => { g with pendTraps := g.pendTraps ++ [⟨none, 0x17, none, [], 1, 0⟩] }
  let hit := fun (g : Gang) => blks.contains g.block && decide (g.live ≠ 0)
  let s1 := { s with errs := { s.errs with badEngines := bad }, fl := { s.fl with jobs := jobs }
                     choice := s.choice + 1, blocks := mapWhere (fun b => blks.contains b.id) lose s.blocks
                     gangs := mapWhere hit trap s.gangs }
  mine.foldl (fun s j => match j.op with
    | .acrd .. => s.endToken j.gang j.at_
    | _ => s.settleReleases j.gang) s1

/-- An uncorrectable error in an engine's array, queue or operand collectors: it is counted and reported (R347), and the engine fails
(R351). -/
def execMatrixEngineFail (cluster : Nat) (s : State) : StepOut :=
  alive s (if cluster < Config.clusters ∧ !s.errs.badEngines.contains cluster then
      some ((s.reportError (.engine cluster)).engineFails cluster)
    else none)

/-- A retest that fails is a failure; one that passes changes nothing, the mark included (R351). -/
def execMatrixRetest (cluster : Nat) (pass : Bool) (s : State) : StepOut :=
  running s (if Config.clusters ≤ cluster then none
         else if pass || s.errs.badEngines.contains cluster then some s else some (s.engineFails cluster))

end Sys2Proof.Machine
end

