-- ==== Sys2Proof/Machine/Place.lean ====
section
/-!
DEFINITION. Machine/Place.lean: room on clusters and wings, the choice of a place, the start of a block and its end
(02 R37, R44 to R46, 11 R258 to R262, 12 R292, 17 R307, 18 R338).
-/

namespace Sys2Proof.Machine

/-! ### Room (R44, R261, R292) -/

/-- Nest reservations on a cluster: the gang places that launches have there (R292). -/
def State.nestUsed (s : State) (c : Nat) : Room := s.launches.foldl (fun r l => r.add (placesRoom (s.placesOn l c))) Room.none

/-- What a resident block holds of its cluster: its scratchpad and tiles, and the windows of its gangs that have not ended
(R44, R46). -/
def State.blockRoom (s : State) (b : Block) (h : LaunchHdr) : Room :=
  let gs := s.gangs.filter (fun g => g.block == b.id && g.life != .ended)
  let n := (List.range 4).map (fun e => (gs.filter (fun g => g.easel % 4 == e)).length)
  { scratch := h.scratch, tiles := h.tiles, gangs := n, bytes := n.map (· * h.window) }

/-- What is in use on a cluster. -/
def State.roomUsed (s : State) (c : Nat) : Room :=
  (s.resident c).foldl (fun r b => match s.hdrOf b with
    | some h => r.add (s.blockRoom b h)
    | none => r) (s.nestUsed c)

/-- The record-fed nodes of a graph whose place is free, with their headers. -/
def State.heldNodes (s : State) (g : Graph) : List (Nat × LaunchHdr) :=
  (List.range g.nodes.length).filterMap (fun i => (g.node? i).bind (fun n => n.hdr.bind (fun h =>
    if s.blocks.any (fun b => b.held && !b.ended && (s.launch? b.launch).any (fun l => l.node == some (g.id, i)))
    then none else some (i, h))))

/-- The headers for which the pool holds back a place that is free, for some graphs, save for one node (R261). -/
def State.heldHdrs (s : State) (of : Graph → Bool) (but : Option (Nat × Nat)) : List LaunchHdr :=
  (s.graphs.filter of).flatMap (fun g => ((s.heldNodes g).filter (fun p => but != some (g.id, p.1))).map (·.2))

/-- Room that the pool holds back for a partition on a cluster (R261), save for one node. -/
def State.heldBack (s : State) (part c : Nat) (but : Option (Nat × Nat)) : Room :=
  (s.heldHdrs (fun g => g.part == part && g.reserve == some c) but).foldl (fun r h => (r.add h.room).add h.nestRoom) Room.none

/-- View slots of a wing that reservations take (R292), and that the pool holds back on the wing, for whichever partition (R261). -/
def State.slotsUsed (s : State) (w : Nat) (but : Nat) : Nat :=
  ((s.launches.filter (fun l => l.id != but)).map (fun l => ((List.range 3).map (fun j => s.slotsOn l (j + 1) w)).foldl (· + ·) 0)).foldl
    (· + ·) 0
def State.heldSlots (s : State) (w : Nat) (but : Option (Nat × Nat)) : Nat :=
  ((s.heldHdrs (fun g => g.reserve.any (fun c => wingOf c == w)) but).map (·.slots)).foldl (· + ·) 0

/-! ### Where a partition's blocks may stand (R307, R347, R351) -/

def PartEntry.hasWing (p : PartEntry) (w : Nat) : Bool := bitAt p.wings w || bitAt p.shwings w

/-- A request of the mailbox is in progress: blocks of it are still resident. STATE may read 3 meanwhile, for a write of
REQUEST that was ignored (R335, log 59). -/
def Mailbox.busy (m : Mailbox) : Bool := m.todo != []

/-- Nothing of another partition stands on the cluster: no block, shading gangs' included, and no gang place (R307). A block that is
ended or flushed stands there until what it has issued is done. -/
def State.isFor (s : State) (part c : Nat) : Bool :=
  s.blocks.all (fun b => b.part == part || b.cluster != c || !b.resident || b.ended) &&
  s.launches.all (fun l => l.part == part || (s.placesOn l c).isEmpty)

/-- A running graph of another partition holds back room on the cluster (R261). -/
def State.heldFor (s : State) (part c : Nat) : Bool := s.graphs.any (fun g => g.part != part && g.reserve == some c)

/-- The units of a cluster that a block of the launch needs are in service. A block needs the matrix engine unless its header says
otherwise, the sketch unit if it reserves view slots, the copy and stream engines always (R24, R347, R352; log 88). -/
def State.unitsServe (s : State) (c : Nat) (h : LaunchHdr) : Bool :=
  (h.nomatrix || !s.errs.badEngines.contains c) && !s.errs.deadCopy.contains c && !s.errs.deadStream.contains (wingOf c) &&
  (h.slots == 0 || !s.errs.deadSketch.contains (wingOf c)) && !s.pkg.badDies.contains (wingOf c / 12) &&
  !s.pkg.badStacks.contains (spanOf (wingOf c))

/-- The cluster may take a block of the partition's launch, room aside; one where another partition's graph holds back room takes
only a heat in its own held place (R261). -/
def State.clusterOpen (s : State) (part c : Nat) (h : LaunchHdr) (held : Bool) : Bool :=
  (s.part part).hasWing (wingOf c) && s.isFor part c && (held || !s.heldFor part c) && s.unitsServe c h &&
  !(s.mailbox.busy && s.mailbox.cluster == c)

/-- A block of a launch fits a cluster (R44); `held` lets it take its node's place. -/
def State.fitsOn (s : State) (l : Launch) (c : Nat) (held : Bool) : Bool :=
  let but := if held then l.node else none
  let nest := placesRoom ((List.range l.hdr.places).filter (fun i => !(s.placesOn l c).contains i))
  s.clusterOpen l.part c l.hdr held &&
  (((s.roomUsed c).add (s.heldBack l.part c but)).add (l.hdr.room.add nest)).fits &&
  (l.hdr.slots == 0 || decide (s.slotsUsed (wingOf c) l.id + s.heldSlots (wingOf c) but + l.hdr.slots ≤ 128))

/-- Resident gangs of a cluster as R44 counts them. -/
def State.load (s : State) (c : Nat) : Nat := (s.roomUsed c).gangSum
def State.wingLoad (s : State) (w : Nat) : Nat := ((List.range 4).map (fun i => s.load (4 * w + i))).foldl (· + ·) 0

/-! ### The start of a block (R40, R44, R45) -/

/-- The gangs of a block, and their shadows, at its start. -/
def blockGangs (h : LaunchHdr) (blk cluster first now : Nat) : List Gang :=
  let own := (List.range h.gangs).map (fun i => newGang (first + i) blk i (4 * cluster + easelOf i) .plain h 0 now)
  let twins := (List.range h.gangs).map (fun i =>
    newGang (first + h.gangs + i) blk i (4 * cluster + shadowEasel (easelOf i)) (.shadow (first + i)) h 0 now)
  if h.twin then own ++ twins else own

/-- The heat block of a launch is written (R265). -/
def State.writeHeat (s : State) (l : Launch) : State :=
  match l.heat, (l.node.bind s.node?).bind (·.hdr) with
  | some x, some h => s.coreWrite l.part x.2.1 (heatWords x.1 h.argbase x.2.2)
  | _, _ => s

/-- The area of a heat's block can be written: the page is there and not moving (R265). -/
def State.heatArea (s : State) (l : Launch) : Bool := l.heat.all (fun x => s.coreReads l.part x.2.1 80)

/-- A block starts on a cluster: it acquires at .d (R222), and a heat's block is written before and its records are delivered to it
(R265). -/
def State.startBlock (s : State) (l : Launch) (number cluster : Nat) (held : Bool) : State :=
  let id := s.fresh
  let b := { newBlock id l.id l.part number cluster l.hdr.argbase s.pkg.clock with held := held }
  let gs := blockGangs l.hdr id cluster (id + 1) s.pkg.clock
  let s0 := (s.writeHeat l).forgetCode
  let s1 := { s0 with blocks := s.blocks ++ [b], gangs := s.gangs ++ gs, fresh := id + 1 + gs.length }
  let s2 := match l.node, l.heat with
    | some n, some x => x.2.2.foldl (fun (s : State) a => s.setRec n.1 a (.queued n.2 x.1) (.delivered id)) s1
    | _, _ => s1
  let s2 := s2.modLaunch l.id (fun l => l.nestOn cluster false)
  s2.acquire (wingOf cluster) 4

/-! ### The choice of a place (R37, R259, R260) -/

/-- The first of a list with the least key. -/
def leastBy (key : Nat → Nat) : List Nat → Option Nat
  | [] => none
  | x :: t => match leastBy key t with
    | some y => if key y < key x then some y else some x
    | none => some x

/-- The span that homes a node's first region (R260). -/
def State.regionSpan (s : State) (l : Launch) : Option Nat :=
  (l.node.bind s.node?).bind (fun n =>
    if n.region0 = 0 then none
    else match s.translate l.part n.region0 0 with
      | .ok p _ => if p / 2 ^ 48 = s.pkg.pkgid then some (p % 2 ^ 48 / 2 ^ 37) else none
      | _ => none)

/-- The cluster for a single block, among some (R260). -/
def State.bestCluster (s : State) (l : Launch) (held : Bool) (cs : List Nat) : Option Nat :=
  let fit := cs.filter (fun c => s.fitsOn l c held)
  let near := fit.filter (fun c => s.regionSpan l == some (spanOf (wingOf c)))
  leastBy s.load (if near = [] then fit else near)

/-- Blocks spread, in order, each to the least-loaded cluster that takes it. -/
def State.spread (s : State) (l : Launch) (cs : List Nat) : List Nat → Option State
  | [] => some s
  | n :: t => match leastBy s.load (cs.filter (fun c => s.fitsOn l c false)) with
    | some c => (s.startBlock l n c false).spread l cs t
    | none => none

/-- Where the blocks of a launch that are in the cohort of `c` consecutive numbers with a block stand already, by wing. -/
def State.mates (s : State) (l : Launch) (c number : Nat) : List Nat :=
  (s.blocks.filter (fun b => b.launch == l.id && b.resident && !b.ended && b.number / c == number / c && s.isOwn b)).map
    (fun b => wingOf b.cluster)

/-- A cohort goes to the fitting wing with the fewest gangs (R260); blocks of one that were flushed go to the wing of those
still there (R37, R338; log 25). -/
def State.onWing (s : State) (l : Launch) (ws : List Nat) (blocks : List Nat) : Option State :=
  let own := s.mates l l.hdr.wingco (blocks.headD 0)
  (leastBy s.wingLoad (ws.filter (fun w => own.all (· == w) && (s.spread l (clustersOf w) blocks).isSome))).bind (fun w =>
    s.spread l (clustersOf w) blocks)

/-- The cohorts of `c` consecutive numbers of some blocks. -/
def cohorts (c : Nat) (l : List Nat) : List (List Nat) :=
  ((l.map (· / c)).eraseDups).map (fun j => l.filter (fun n => n / c == j))

/-- The wing cohorts of a span cohort, each whole on a wing of one span (R37). -/
def State.onWings (s : State) (l : Launch) (ws : List Nat) : List (List Nat) → Option State
  | [] => some s
  | x :: t => (s.onWing l ws x).bind (fun s => s.onWings l ws t)

def wingsOfSpan (p : Nat) : List Nat := (List.range 4).map (4 * p + ·)

/-- A span cohort on those wings of a span that are among some. -/
def State.onSpan (s : State) (l : Launch) (ws : List Nat) (p : Nat) (blocks : List Nat) : Option State :=
  let own := (wingsOfSpan p).filter ws.contains
  if l.hdr.wingco = 0 then s.spread l (own.flatMap clustersOf) blocks
  else s.onWings l own (cohorts l.hdr.wingco blocks)

def State.spanLoad (s : State) (p : Nat) : Nat := ((wingsOfSpan p).map s.wingLoad).foldl (· + ·) 0

/-- Blocks of a cohort; 1 when there are none. -/
def LaunchHdr.cohort (h : LaunchHdr) : Nat := if h.spanco ≠ 0 then h.spanco else if h.wingco ≠ 0 then h.wingco else 1

/-- The blocks that a launch would start next, together: a cohort, or those of one that wait again (R37, R338). -/
def Launch.unit (l : Launch) : List Nat :=
  let c := l.hdr.cohort
  match l.again with
  | (_, n) :: _ => sortBy (fun n => n) ((l.again.map (·.2)).filter (fun m => m / c == n / c))
  | [] => (List.range (min c (l.total - l.next))).map (l.next + ·)

/-- Pages cover the addresses from `a` to `e`, walking at most `n` of them. -/
def covered (ps : List PageSpec) : Nat → Nat → Nat → Bool
  | 0, a, e => decide (e ≤ a)
  | n + 1, a, e => decide (e ≤ a) || (match ps.find? (fun p => pageCovers p a) with
    | some p => covered ps n (p.vbase + p.size) e
    | none => false)

/-- The memory firmware has made the pages of a launch node's declared regions resident, as it does before the first block
(R258; log 91). -/
def State.regionsIn (s : State) (l : Launch) : Bool :=
  l.heat.isSome || l.next != 0 || (l.node.bind s.node?).all (fun n =>
    let ps := (s.mem.pages.filter (fun p => p.part == l.part && p.moving.isNone)).map (·.spec)
    [(n.region0, n.size0), (n.region1, n.size1)].all (fun r => r.1 == 0 || covered ps ps.length r.1 (r.1 + r.2)))

/-- Some blocks of a launch have been placed. -/
def State.placed (s : State) (l : Launch) (blocks : List Nat) : State :=
  s.modLaunch l.id (fun l =>
    { l with again := l.again.filter (fun p => !blocks.contains p.2), next := if l.again = [] then l.next + blocks.length else l.next
             waiting := none, wingHeld := none })

/-- The launch's next blocks start, on some of the wings; none when they fit nowhere there. -/
def State.startUnit (s : State) (l : Launch) (ws : List Nat) : Option State :=
  let blocks := l.unit
  let single := l.hdr.spanco == 0 && l.hdr.wingco == 0
  let started :=
    if !s.regionsIn l || !s.heatArea l then none
    else if single then
      match blocks, s.bestCluster l false (ws.flatMap clustersOf) with
      | n :: _, some c => some (s.startBlock l n c false)
      | _, _ => none
    else if l.hdr.spanco = 0 then s.onWing l ws blocks
    else
      let own := s.mates l l.hdr.spanco (blocks.headD 0)
      let ps := (List.range 12).filter (fun p => own.all (fun w => spanOf w == p))
      (leastBy s.spanLoad (ps.filter (fun p => (s.onSpan l ws p blocks).isSome))).bind (fun p => s.onSpan l ws p blocks)
  started.map (fun s => s.placed l blocks)

/-- The wings of a partition. -/
def State.wingsOf (s : State) (part : Nat) : List Nat := (List.range Config.wings).filter (s.part part).hasWing

/-- The cluster on which the pool holds back room for a heat's node, when the heat fits there (R261). -/
def State.heldPlace (s : State) (l : Launch) : Option Nat :=
  let own := (l.node.bind (fun x => s.graph? x.1)).bind (fun (g : Graph) => g.reserve)
  let cs := (s.wingsOf l.part).flatMap clustersOf
  if l.heat.isNone then none else s.bestCluster l true (cs.filter (fun c => own == some c))

/-- A heat's block starts in the place that the pool holds back for its node (R261). -/
def State.startHeld (s : State) (l : Launch) : Option State :=
  match s.heldPlace l, l.unit with
  | some c, n :: _ => if s.heatArea l then some ((s.startBlock l n c true).placed l [n]) else none
  | _, _ => none

/-- The block of a launch fits somewhere on the partition's wings beside the places held back. -/
def State.fitsElsewhere (s : State) (l : Launch) : Bool :=
  (s.bestCluster l false ((s.wingsOf l.part).flatMap clustersOf)).isSome

/-! ### The order of placement (R259) -/

/-- The order of a launch within its level: flushed blocks first, the last flushed first; then by release. -/
def Launch.key (l : Launch) : Nat × Nat :=
  match l.again with
  | p :: _ => (0, 2 ^ 64 - p.1)
  | [] => (1, l.released)

/-- The head of a partition's level. -/
def State.headOf (s : State) (part prio : Nat) : Option Launch :=
  (s.launches.filter (fun l => l.part == part && l.prio == prio && l.waits)).foldl (fun h l => match h with
    | none => some l
    | some m => if l.key.1 < m.key.1 ∨ (l.key.1 = m.key.1 ∧ (l.key.2 < m.key.2 ∨ (l.key.2 = m.key.2 ∧ l.id < m.id)))
                then some l else some m) none

/-- The heads of the levels above one. -/
def State.headsAbove (s : State) (part prio : Nat) : List Launch :=
  (List.range (7 - prio)).filterMap (fun i => s.headOf part (prio + 1 + i))

/-- Wings that no waiting head of a higher level keeps free. -/
def State.freeWings (s : State) (l : Launch) : List Nat :=
  (s.wingsOf l.part).filter (fun w => !(s.headsAbove l.part l.prio).any (fun h => h.wingHeld == some w))

/-- The launch's next blocks can start. -/
def State.fitsNow (s : State) (l : Launch) : Bool := (s.startUnit l (s.freeWings l)).isSome || (s.startHeld l).isSome

/-- It is the turn of a launch's level, and in it the launch's. -/
def State.isHead (s : State) (l : Launch) : Bool := (s.headOf l.part l.prio).map (·.id) == some l.id

/-- A heat can go nowhere but into its held place: it fits nowhere else, or its level's head fits nowhere and holds back what comes
after it (R259, R261, R267; log 52). -/
def State.onlyHeld (s : State) (l : Launch) : Bool :=
  s.isHead l || !s.fitsElsewhere l || (s.headOf l.part l.prio).all (fun h => !s.fitsNow h)

/-- The launch's next blocks start, when it is its level's turn; a heat's in its own place when it can go nowhere else. -/
def State.place (s : State) (l : Launch) : Option State :=
  if (s.headsAbove l.part l.prio).any s.fitsNow then none
  else match (if s.isHead l then s.startUnit l (s.freeWings l) else none) with
    | some t => some t
    | none => (s.startHeld l).bind (fun t => if s.onlyHeld l then some t else none)

/-! ### The end of a block (R46, R258, R262) -/

/-- The gangs of a block. -/
def State.gangsOf (s : State) (blk : Nat) : List Gang := s.gangs.filter (fun g => g.block == blk)

/-- The writes of a block, and those of others that it may have observed in its wing's slice, have reached their homes: its end and
its save are cumulative releases (R208, R219; log 30). -/
def State.sentHome (s : State) (blk : Nat) : Bool :=
  !s.fl.writes.any (fun w => w.block == blk || (w.atWing && (s.block? blk).any (fun b => wingOf b.cluster == w.wing)))

/-- Nothing of a block is outstanding: accesses, writes on their way, copies and engine work (R46). -/
def State.blockQuiet (s : State) (blk : Nat) : Bool :=
  let gs := (s.gangsOf blk).map (·.id)
  !s.fl.ops.any (fun o => gs.contains o.gang) && s.sentHome blk &&
  !s.fl.copies.any (fun c => c.block == blk) && !s.fl.jobs.any (fun j => j.block == blk && !j.finished) &&
  !s.fl.cctls.any (fun c => gs.contains c.gang) && !s.fl.specials.any (fun o => gs.contains o.gang)

/-- Views or stream operations still name a block. -/
def State.blockNamed (s : State) (blk : Nat) : Bool :=
  s.fl.views.any (fun v => v.block == blk) || s.fl.ctxs.any (fun x => x.ops.any (fun o => o.block == blk))

/-- A block that has ended leaves, once nothing names it. -/
def State.forget (s : State) (blk : Nat) : State :=
  if s.blockNamed blk then s
  else
    let gs := (s.gangsOf blk).map (·.id)
    { s with blocks := s.blocks.filter (fun b => b.id != blk), gangs := s.gangs.filter (fun g => g.block != blk)
             fl := { s.fl with fences := s.fl.fences.filter (fun f => !gs.contains f.gang)
                               jobs := s.fl.jobs.filter (fun j => j.block != blk) } }

/-- A launch with no block left leaves, once no view of it is left either (R292); a heat or a launch node is counted off (R258). -/
def State.launchOver (s : State) (l : Launch) : State :=
  if l.waits || l.blocksLeft != 0 then s
  else
    let s1 := { s with launches := s.launches.filter (fun x => x.id != l.id || s.needsLaunch x) }
    match l.node with
    | none => s1
    | some n =>
      let upd := fun (nd : Node) =>
        if l.heat.isSome then { nd with heatsLive := nd.heatsLive - 1 }
        else if nd.state.over then nd else { nd with state := .complete }
      (s1.modNode n.1 n.2 upd).settleGraph n.1

/-- The pre-emption request waits for a block no more (R335); the last one completes it. -/
def State.offRequest (s : State) (blk : Nat) (count : Mailbox → Mailbox) : State :=
  if s.mailbox.todo.contains blk then
    let m := count s.mailbox
    let rest := m.todo.filter (· != blk)
    { s with mailbox := { m with todo := rest, state := if rest = [] then (if m.full then 4 else 2) else m.state } }
  else s

/-- The records that a block holds return (R262). -/
def State.recsBack (s : State) (b : Block) : State :=
  match (s.launch? b.launch).bind (fun l => l.node) with
  | some n => s.returnRecs n.1 (fun _ r => r.heldBy b.id)
  | none => s

/-- A block has ended for good: its records return, and its launch counts it off (R46, R262). -/
def State.blockGone (s : State) (b : Block) : State :=
  let s1 := (s.modBlock b.id (fun b => { b with ended := true, resident := false })).recsBack b
  let s2 := ((s1.forget b.id).modLaunch b.launch (fun l => { l with blocksLeft := l.blocksLeft - 1 })).trimNests
  match s2.launch? b.launch with
  | some l => (s2.launchOver l).settleGraph ((l.node.map (·.1)).getD 0)
  | none => s2

/-- A block is done; a request's block has drained (R335). -/
def State.blockOver (s : State) (b : Block) : State :=
  (s.offRequest b.id (fun m => { m with drained := m.drained + 1 })).blockGone b

/-- What a block that the supervisor OS has ended had issued is done: it leaves (R258). -/
def State.killedOver (s : State) (b : Block) : State := (s.offRequest b.id id).blockGone b

/-- The nodes in whose pools some gangs wait for records. -/
def State.waitedPools (s : State) (gs : List Nat) : List (Nat × Nat) :=
  s.graphs.flatMap (fun g => ((List.range g.nodes.length).zip g.nodes).filterMap (fun p =>
    if p.2.grants.any (fun q => gs.contains q.gang) then some (g.id, p.1) else none))

/-- The requests of a block's gangs that wait for records are withdrawn (R338, R339); those behind them are served (R263). -/
def State.dropGrants (s : State) (gs : List Nat) : State :=
  (s.waitedPools gs).foldl (fun s n =>
    let left := ((s.node? n).map (fun nd => nd.grants.length)).getD 0
    State.serveGrants n left (s.modNodeAt n (fun nd => { nd with grants := nd.grants.filter (fun q => !gs.contains q.gang) }))) s

/-- A gang stops for good: its lanes are gone and nothing reaches them. -/
def Gang.stopped (g : Gang) : Gang :=
  { (g.without g.live) with exited := g.exited ||| g.live, life := .ended, pendTraps := [], arrivals := [] }

/-- Every gang of a block stops at an instruction boundary without a save (R319, R325, R338): loads are discarded,
parks, waiting views and requests dropped; issued stores, atomics, copies and engine work complete by themselves. A flush discards
a running MITER at its boundary (R171); what stands in a unit that is out of service is lost with it, a view once its running shading
gangs, which keep their places, have ended (R301). -/
def State.stopBlock (s : State) (blk : Nat) (flush : Bool) : State :=
  let gs := (s.gangsOf blk).map (·.id)
  let keep := fun (o : MemOp) => !gs.contains o.gang || !o.isRead
  let s1 := { s with
    gangs := mapWhere (fun (g : Gang) => g.block == blk) Gang.stopped s.gangs
    fl := { s.fl with
      ops := (s.fl.ops.filter keep).map (fun (o : MemOp) => if gs.contains o.gang then { o with parked := false } else o)
      parks := s.fl.parks.filter (fun p => !gs.contains p.gang)
      fences := s.fl.fences.filter (fun f => !gs.contains f.gang)
      specials := s.fl.specials.filter (fun o => !gs.contains o.gang)
      jobs := s.fl.jobs.filter (fun j => j.block != blk || !((flush && j.running) || s.dieOff (wingOf j.cluster)))
      copies := s.fl.copies.filter (fun c => c.block != blk || !(s.errs.deadCopy.contains c.cluster || s.dieOff (wingOf c.cluster)))
      views := (s.fl.views.filter (fun (v : View) => !gs.contains v.gang || ((v.refused || v.admitted.isSome) &&
        (!s.sketchOut v.wing || (v.running != 0 && !s.dieOff v.wing))))).map (fun (v : View) =>
          if gs.contains v.gang && s.sketchOut v.wing then { v with toStart := [] } else v) } }
  let open_ := (s1.fl.ops.filter (fun o => gs.contains o.gang && o.elts == [])).map (·.id)
  (open_.foldl (fun s i => s.dropOp i) s1).dropGrants gs

/-- What a flushed block had issued is done (R338): its records go back, those of its heat to the heat, and it is queued again; a
block of a node that has failed meanwhile is not placed any more (log 23). -/
def State.flushedOver (s : State) (b : Block) : State :=
  let s0 := s.offRequest b.id (fun m => { m with flushed := m.flushed + 1 })
  match s0.launch? b.launch with
  | none => s0.blockGone b
  | some l =>
    if (l.node.bind s0.node?).any (fun nd => nd.state.over) then s0.blockGone b
    else
      let s1 := s0.modBlock b.id (fun b => { b with ended := true, resident := false })
      let s2 := match l.node, l.heat with
        | some n, some x => x.2.2.foldl (fun (s : State) a => s.setRec n.1 a (.delivered b.id) (.queued n.2 x.1)) s1
        | _, _ => s1
      let n := (s2.recsBack b).newId
      (n.2.modLaunch b.launch (fun l => { l with again := (n.1, b.number) :: l.again })).trimNests

/-- The supervisor OS, or a refused restore, ends a block: its node fails with BLOCK_KILLED (R258). It leaves when what it has issued
is done, a saved one at once. -/
def State.killBlock (s : State) (b : Block) (detail : Nat) : State :=
  let s1 := s.stopBlock b.id false
  let s2 := match (s1.launch? b.launch).bind (fun l => l.node) with
    | some n => if (s1.node? n).any (fun (nd : Node) => nd.state.over) then s1 else s1.failNode n.1 n.2 3 detail
    | none => s1
  if b.resident then (s2.modBlock b.id (fun b => { b with stop := .kill detail })).settleGraph
      ((((s2.launch? b.launch).bind (·.node)).map (·.1)).getD 0)
  else ({ s2 with saved := s2.saved.filter (fun c => c.block != b.id) }).killedOver b

/-- Blocks that have ended leave once nothing names them, and launches and graphs with their last; graphs whose completion record
waited complete. -/
def State.sweep (s : State) : State :=
  let t := (s.blocks.filter (fun b => b.ended && s.blockQuiet b.id)).foldl (fun s b => s.forget b.id) s
  let due := (t.graphs.filter (fun g => g.over && !g.done)).map (·.id)
  (due.foldl (fun s g => s.settleGraph g) t).forgetGraphs

end Sys2Proof.Machine
end

