-- ==== Sys2Proof/Machine/EvPool.lean ====
section
/-!
DEFINITION. Machine/EvPool.lean: the events of the central ready pool: doorbells, submission entries and the checks
of their graphs, placement, the end of blocks and heats (11 R254 to R265, R369, 02 R46).
-/

namespace Sys2Proof.Machine

/-! ### Submission queues (R254, R319) -/

def State.modQueue (s : State) (part q : Nat) (f : SubQueue → SubQueue) : State :=
  s.modFunc part (fun x => { x with queues := x.queues.modify q f })

/-- The partition is being reset: its function discards memory writes (R319). -/
def State.resetting (s : State) (part : Nat) : Bool := (s.part part).state == 2 || (s.part part).state == 3

/-- A tail as a queue takes it: at or above ENTRIES it sets ERR and is ignored. -/
def SubQueue.ring (x : SubQueue) (tail : Nat) : SubQueue :=
  if x.entries ≤ tail then { x with err := true } else { x with tail := tail }

/-- A host's memory write to an offset of a function's window: it completes with Unsupported Request until the client port
is ready (R22), and is discarded while the partition is being reset (R319). -/
def State.hostWrites (s : State) (part offset : Nat) (w : State → State) : State :=
  if !s.pkg.clientReady then s.emit (.unsupported (part + 1) offset)
  else if s.resetting part then s
  else w s

/-- A host's write of a doorbell (R254). -/
def State.doorbell (s : State) (part q tail : Nat) : State :=
  s.hostWrites part (0x1000 + 8 * q) (fun s => s.modQueue part q (fun x => x.ring tail))

def execDoorbell (part q tail : Nat) (s : State) : StepOut :=
  alive s (if s.pkg.clientUp then some (s.doorbell part q tail) else none)

/-- The supervisor OS resets a queue whose ERR is set: empty again, ERR clear. -/
def execQueueReset (part q : Nat) (s : State) : StepOut :=
  running s (((s.func part).queues[q]?).bind (fun x =>
    if x.err then some (s.modQueue part q (fun x => { x with head := 0, tail := 0, err := false })) else none))

/-! ### Graphs as submitted (R255 to R257, R369) -/

/-- A submission entry (R255). -/
structure SubEntry where
  graph : Nat
  tag : Nat
  prio : Nat
  irq : Bool
  vector : Nat
  compl : Nat
deriving DecidableEq, Repr

def entryAt (rd : Nat → Nat) (a cap : Nat) : SubEntry :=
  let w := word64 rd (a + 8) 0
  { graph := word64 rd a 0, tag := bits w 63 32, prio := min (bits w 18 16) cap, irq := bitAt w 15
    vector := bits w 10 0, compl := word64 rd (a + 16) 0 }

/-- A node descriptor by its words, with the successors that it lists. -/
structure Desc where
  w : List Nat
  succ : List Nat
deriving DecidableEq, Repr

namespace Desc
variable (d : Desc)
def word (i : Nat) : Nat := d.w.getD i 0
def npred : Nat := bits (d.word 1) 31 24
def heat : Nat := bits (d.word 1) 3 0
def timeout : Nat := bits (d.word 3) 63 32
def poolBase : Nat := d.word 4
def rsize : Nat := bits (d.word 5) 47 32
def pooln : Nat := bits (d.word 5) 15 0
def edges : List Nat := (List.range 8).map (fun i => bits (d.word (6 + i / 4)) (16 * (i % 4) + 15) (16 * (i % 4)))
/-- The nodes that follow it, as often as they are named. -/
def outs : List Nat := d.succ ++ d.edges.filter (· != 0xFFFF)
end Desc

def descAt (rd : Nat → Nat) (a : Nat) : Desc :=
  let w := (List.range 16).map (fun i => word64 rd a (8 * i))
  let n := bits (w.getD 1 0) 23 16
  { w := w, succ := (List.range n).map (fun i => leGet rd (w.getD 2 0 + 2 * i) 2) }

/-- The first offset of a list of checks that fails. -/
def firstBad (l : List (Nat × Bool)) : Option Nat :=
  match (l.filter (·.2)).map (·.1) with
  | [] => none
  | x :: t => some (t.foldl min x)

/-- The word of a graph header that breaks R257; one that cannot be read offends in its first. -/
def State.graphHeadBad (s : State) (part a : Nat) : Option Nat :=
  if a % 64 ≠ 0 ∨ !s.coreReads part a 64 then some 0
  else
    let w := fun (i : Nat) => word64 (s.coreRead part) a (8 * i)
    let n := bits (w 0) 15 0
    firstBad ([(0, bits (w 0) 63 16 != 0 || n == 0 || decide (4096 < n)),
               (8, (w 1) % 128 != 0 || !s.coreReads part (w 1) (128 * n))] ++
      (List.range 6).map (fun i => (16 + 8 * i, w (2 + i) != 0)))

/-- The nodes that a list of nodes leads to, `n` steps at most. -/
def reaches (next : Nat → List Nat) : Nat → List Nat → List Nat → List Nat
  | 0, _, seen => seen
  | n + 1, front, seen =>
    let new := ((front.flatMap next).filter (fun x => !seen.contains x)).eraseDups
    if new = [] then seen else reaches next n new (seen ++ new)

/-- The descriptor words that break R257 at a node. -/
def descBad (ds : List Desc) (readable : Nat → Nat → Bool) (i : Nat) (d : Desc) : Option Nat :=
  let n := ds.length
  let named := (ds.map (fun e => (e.outs.filter (· == i)).length)).foldl (· + ·) 0
  let next := fun (j : Nat) => match ds[j]? with
    | some e => e.outs
    | none => []
  let edgeBad := fun (x : Nat) => x != 0xFFFF && (match ds[x]? with
    | some e => e.heat == 0
    | none => true)
  let half := fun (k : Nat) => ((d.edges.drop (4 * k)).take 4).any edgeBad
  let pool := if d.poolBase = 0 then d.rsize != 0 || d.pooln != 0
    else decide (d.rsize < 16) || decide (4096 < d.rsize) || d.rsize % 16 != 0 || d.pooln == 0
  firstBad ([
    (0x08, bits (d.word 1) 63 32 != 0 || bits (d.word 1) 15 4 != 0 || decide (8 < d.heat) || d.npred != named),
    (0x10, d.succ.any (fun x => decide (n ≤ x)) || (reaches next n [i] []).contains i ||
           (d.succ != [] && !readable (d.word 2) (2 * d.succ.length))),
    (0x18, bits (d.word 3) 31 0 != 0 || (d.heat == 0) != (d.timeout == 0)),
    (0x20, d.poolBase % 16 != 0 || (d.poolBase == 0 && d.edges.any (· != 0xFFFF))),
    (0x28, bits (d.word 5) 63 48 != 0 || bits (d.word 5) 31 16 != 0 || pool),
    (0x30, half 0), (0x38, half 1)] ++ (List.range 4).map (fun k => (0x60 + 8 * k, d.word (12 + k) != 0)))

/-- The word of a record-fed node's launch header that breaks R36 or R257. -/
def State.feedHeadBad (s : State) (part a : Nat) : Option Nat :=
  match s.headerRefused part a with
  | some 0 => some 0
  | o =>
    let h := launchAt (s.coreRead part) a
    firstBad ([(0x28, h.gridx != 1 || h.gridy != 1 || h.gridz != 1), (0x30, h.wingco != 0 || h.spanco != 0)] ++
      (match o with
        | some w => [(w, true)]
        | none => []))

/-- The detail of a node that breaks R257 by itself (R369): bit 16 marks its launch header. -/
def State.nodeBad (s : State) (part : Nat) (ds : List Desc) (i : Nat) (d : Desc) : Option Nat :=
  match descBad ds (s.coreReads part) i d with
  | some w => some w
  | none => if d.heat = 0 then none else (s.feedHeadBad part (d.word 0)).map (65536 + ·)

/-! ### The reservation for record-fed nodes (R261) -/

/-- The clusters of a partition that can hold room back for some headers; those where another partition's graph holds back room come
last (log 52). -/
def State.holders (s : State) (part : Nat) (hs : List LaunchHdr) : List Nat :=
  let cs := ((s.wingsOf part).flatMap clustersOf).filter (fun c => hs.all (s.unitsServe c))
  cs.filter (fun c => !s.heldFor part c) ++ cs.filter (s.heldFor part)

/-- The headers for whose nodes some running graphs hold back room (R261, R302). -/
def State.reservedHdrs (s : State) (of : Graph → Bool) : List LaunchHdr :=
  (s.graphs.filter of).flatMap (fun g => g.nodes.filterMap (fun n => n.hdr))

/-- The footprints of some headers: with what they reserve for nested views or without. -/
def footprint (hs : List LaunchHdr) (nest : Bool) : Room :=
  hs.foldl (fun r h => if nest then (r.add h.room).add h.nestRoom else r.add h.room) Room.none

/-- The view slots that some headers reserve. -/
def slotsOf (hs : List LaunchHdr) : Nat := (hs.map (·.slots)).foldl (· + ·) 0

/-- The lowest cluster that holds the footprints, beside those held back there for the partition, and `slots` view slots on its wing,
beside those held back for any. -/
def State.reserveAt (s : State) (part : Nat) (hs : List LaunchHdr) (r : Room) (slots : Nat) : Option Nat :=
  (s.holders part hs).find? (fun c => ((footprint (s.reservedHdrs (fun g => g.part == part && g.reserve == some c)) true).add r).fits &&
    (slots == 0 || decide (slotsOf (s.reservedHdrs (fun g => g.reserve.any (fun d => wingOf d == wingOf c))) + slots ≤ 128)))

/-- The header word that a reservation that does not fit reports (R36, R369). -/
def State.reserveWord (s : State) (part : Nat) (hs : List LaunchHdr) : Nat :=
  let bare := footprint hs false
  if (s.reserveAt part hs { Room.none with scratch := bare.scratch } 0).isNone then 0x18
  else if (s.reserveAt part hs bare 0).isNone then 0x30
  else 0x38

/-! ### Acceptance -/

/-- The outcome of the checks of R257: the node and detail of a refusal. -/
def State.graphBad (s : State) (part a : Nat) (ds : List Desc) : Option (Nat × Nat) :=
  match s.graphHeadBad part a with
  | some w => some (0xFFFF, w)
  | none =>
    let own := ((List.range ds.length).zip ds).findSome? (fun p => (s.nodeBad part ds p.1 p.2).map (fun w => (p.1, w)))
    match own with
    | some x => some x
    | none =>
      let fed := ((List.range ds.length).zip ds).filter (fun p => p.2.heat != 0)
      let hs := fed.map (fun p => launchAt (s.coreRead part) (p.2.word 0))
      match fed with
      | [] => none
      | p :: _ => if (s.reserveAt part hs (footprint hs true) (slotsOf hs)).isSome then none
        else some (p.1, 65536 + s.reserveWord part hs)

/-- A node at the start of its graph (R258, R299). -/
def State.newNode (s : State) (part : Nat) (d : Desc) : Node :=
  { launchAddr := d.word 0, npred := d.npred, succ := d.succ, heat := d.heat, timeout := d.timeout
    poolBase := d.poolBase, rsize := d.rsize, pooln := d.pooln, edges := d.edges, region0 := d.word 8, size0 := d.word 9,
    region1 := d.word 10, size1 := d.word 11
    hdr := if d.heat = 0 then none else some (launchAt (s.coreRead part) (d.word 0))
    state := .waiting, recs := []
    free := (List.range d.pooln).map (fun i => d.poolBase + d.rsize * i)
    open_ := [], deadline := none, seq := 0, grants := [], heatsLive := 0 }

/-- A graph is checked, and starts, or is refused and only its completion record is left to write (R257, R258). -/
def State.submit (s : State) (part : Nat) (e : SubEntry) : State :=
  let rd := s.coreRead part
  let n := if (s.graphHeadBad part e.graph).isSome then 0 else bits (word64 rd e.graph 0) 15 0
  let ds := (List.range n).map (fun i => descAt rd (word64 rd e.graph 8 + 128 * i))
  let nodes := ds.map (s.newNode part)
  let hs := nodes.filterMap (fun (x : Node) => x.hdr)
  let id := s.newId
  let g : Graph :=
    { id := id.1, part := part, tag := e.tag, prio := e.prio, irq := e.irq, vector := e.vector, compl := e.compl, nodes := nodes
      failure := none, reserve := if hs = [] then none else s.reserveAt part hs (footprint hs true) (slotsOf hs), done := false }
  let h := match s.graphBad part e.graph ds with
    | some x => { g with nodes := [], failure := some (x.1, 2, x.2), reserve := none }
    | none => g
  ({ id.2 with graphs := id.2.graphs ++ [h] }).settleGraph g.id

/-- The dispatch core may serve a partition: while a sealed one is enabled, in its turn of a fixed round of 16 (R315; log 92). -/
def State.dispatchTurn (s : State) (part : Nat) : Bool := !s.sealedLive || s.pkg.clock % 16 == part

/-- The device reads a queue's next entry (R254, R365). -/
def State.readEntry (s : State) (part q : Nat) : Option State :=
  ((s.func part).queues[q]?).bind (fun x =>
    let a := x.base + 64 * x.head
    if !s.dispatchTurn part || x.err || x.head == x.tail || (s.part part).state != 1 || s.fw.restarting || !s.coreReads part a 64 then none
    else some ((s.modQueue part q (fun x => { x with head := (x.head + 1) % x.entries })).submit part
      (entryAt (s.coreRead part) a x.cap)))

def execSubmissionEntryRead (part q : Nat) (s : State) : StepOut := event (s.readEntry part q)

/-! ### Placement (R259, R365) -/

def execBlockPlacement (launch : Nat) (s : State) : StepOut :=
  event ((s.launch? launch).bind (fun l => if s.fw.restarting || !l.waits || !s.dispatchTurn l.part then none else s.place l))

/-- When a block is expected to end, in cycles from now; without an estimate, last of all. -/
def State.expected (s : State) (b : Block) : Nat :=
  match s.hdrOf b with
  | some h => if h.expcyc = 0 then 2 ^ 64 else h.expcyc - (b.elapsed + (s.pkg.clock - b.placedAt))
  | none => 2 ^ 64

/-- The soonest that a launch's next blocks would fit on some wings, as those wings' blocks are expected to end. -/
def State.fitsIn (s : State) (l : Launch) (ws : List Nat) : Option Nat :=
  let bs := sortBy s.expected ((ws.flatMap clustersOf).flatMap s.resident)
  (List.range (bs.length + 1)).findSome? (fun n =>
    let gone := (bs.take n).map (·.id)
    let blocks := mapWhere (fun (b : Block) => gone.contains b.id) (fun b => { b with resident := false }) s.blocks
    let t : State := { s with blocks := blocks }
    if (t.startUnit l ws).isSome then some (((bs.take n).getLast?.map s.expected).getD 0) else none)

/-- The wing where a launch's head block would fit soonest (R259). -/
def State.soonestWing (s : State) (l : Launch) : Option Nat :=
  let span := l.hdr.spanco != 0 && l.again == []
  let at_ := fun (w : Nat) => s.fitsIn l (if span then wingsOfSpan (spanOf w) else [w])
  leastBy (fun w => (at_ w).getD 0) ((s.wingsOf l.part).filter (fun w => (at_ w).isSome))

/-- The head block of a level has been unplaced for 1 ms: its soonest wing is kept free of lower levels (R259). -/
def State.headWaits (s : State) (l : Launch) : Option State :=
  match l.waiting, l.wingHeld with
  | some t, none =>
    if t + 1000000 ≤ s.pkg.nano && s.isHead l && s.dispatchTurn l.part then
      (s.soonestWing l).map (fun w => s.modLaunch l.id (fun l => { l with wingHeld := some w }))
    else none
  | _, _ => none

def execHeadOfLevelTimeout (launch : Nat) (s : State) : StepOut := event ((s.launch? launch).bind s.headWaits)

/-! ### Ends (R46, R265) -/

/-- All gangs of a block have ended, nothing of it is outstanding, and every write of it is performed: it ends, or leaves as the
supervisor OS has ended or flushed it (R46, R258, R338). -/
def State.endsBlock (s : State) (b : Block) : Option State :=
  if b.ended || !b.resident || !s.isOwn b || !(s.gangsOf b.id).all (fun g => g.life == .ended) || !s.blockQuiet b.id then none
  else some (match b.stop with
    | .kill _ => s.killedOver b
    | .flush => s.flushedOver b
    | _ => s.blockOver b)

def execBlockEnd (block : Nat) (s : State) : StepOut := event ((s.block? block).bind s.endsBlock)

/-- TIMEOUT cycles have passed since an open heat's first record joined: it launches (R265). -/
def execHeatTimeout (graph node : Nat) (s : State) : StepOut :=
  event ((s.node? (graph, node)).bind (fun nd => match nd.deadline with
    | some t => if t ≤ s.pkg.clock ∧ nd.open_ ≠ [] ∧ (s.graph? graph).any (fun g => s.dispatchTurn g.part)
      then some (s.launchHeat graph node) else none
    | none => none))

end Sys2Proof.Machine
end

