-- ==== Sys2Proof/Machine/EvPart.lean ====
section
/-!
DEFINITION. Machine/EvPart.lean: the events of isolation: the partition table, resets, keys and scrubs, pages,
interrupts and devices (17 R304 to R319, 18 R334, 01 R19 to R22).
-/

namespace Sys2Proof.Machine

/-! ### The partition table (R304 to R306) -/

/-- An entry with one word written; the last word is read-only. -/
def PartEntry.put (p : PartEntry) (word v : Nat) : PartEntry :=
  match word with
  | 0 => { p with wings := v }
  | 1 => { p with shwings := v }
  | 2 => { p with keys := p.keys / 2 ^ 64 * 2 ^ 64 + v }
  | 3 => { p with keys := v * 2 ^ 64 + p.keys % 2 ^ 64 }
  | 4 => { p with hbmslot := v }
  | 5 => { p with fabw := v }
  | 6 => { p with cfg := v, state := if !p.enabled && bitAt v 25 then 1 else p.state }
  | _ => p

/-- A reserved field of a word, or bit 0 of KEYMASK0, is not zero. -/
def wordReserved (word v : Nat) : Bool :=
  match word with
  | 0 => bits v 63 48 != 0
  | 1 => bits v 63 48 != 0
  | 2 => bitAt v 0
  | 4 => bits v 63 60 != 0
  | 6 => bits v 63 26 != 0
  | 7 => bits v 63 16 != 0
  | _ => false

/-- The slots of a stack and the weight of a plane. -/
def PartEntry.slots (p : PartEntry) (k : Nat) : Nat := bits p.hbmslot (5 * k + 4) (5 * k)
def PartEntry.weight (p : PartEntry) (j : Nat) : Nat := bits p.fabw (8 * j + 7) (8 * j)

/-- A key id of the entry has a background scrub running (R311). -/
def State.scrubbing (s : State) (p : PartEntry) : Bool := s.mem.scrubs.any p.hasKey

/-- Every two of a list, in order. -/
def pairsOf {α : Type} : List α → List (α × α)
  | [] => []
  | x :: t => t.map (fun y => (x, y)) ++ pairsOf t

def total (l : List Nat) : Nat := l.foldl (· + ·) 0

/-- What R305 refuses of a table as it would stand, by cause; `held` has the entries counted for causes 3 and 4. -/
def tableFails (live held : List PartEntry) : List (Nat × Bool) :=
  let any2 := fun (f : PartEntry → PartEntry → Bool) => (pairsOf live).any (fun x => f x.1 x.2)
  [(2, any2 (fun p q => (p.wings &&& q.wings) != 0 || (p.wings &&& q.shwings) != 0 || (p.shwings &&& q.wings) != 0)),
   (3, (pairsOf held).any (fun x => (x.1.keys &&& x.2.keys) != 0)),
   (4, (List.range 12).any (fun k => decide (31 < total (held.map (·.slots k))))),
   (5, (List.range 8).any (fun j => decide (255 < total (live.map (·.weight j))))),
   (6, live.any (fun p => p.sealed && p.shwings != 0) ||
       any2 (fun p q => (p.sealed || q.sealed) && (p.ways &&& q.ways) != 0)),
   (7, live.any (fun p => (p.wings == 0 && p.shwings == 0) || p.keys == 0 || (List.range 12).any (fun k => p.slots k == 0) ||
       (List.range 8).any (fun j => p.weight j == 0) || p.irqBudget == 0 || p.ways == 0))]

/-- The causes for which a write to an entry is refused (R305, R306). -/
def State.refusals (s : State) (part word v : Nat) : List Nat :=
  let old := s.part part
  let new := old.put word v
  let table := s.parts.set part new
  let live := table.filter (·.enabled)
  let held := table.filter (fun p => p.enabled || s.scrubbing p)
  let changes := old.wings != new.wings || old.shwings != new.shwings || old.keys != new.keys || old.sealed != new.sealed
  ([(1, wordReserved word v)] ++ tableFails live held ++
   [(8, (changes && old.state != 0) || (old.enabled && !new.enabled)),
    (9, word == 6 && new.enabled && (old.state == 2 || old.state == 3)),
    (10, (old.hbmslot != new.hbmslot || old.keys != new.keys) && s.scrubbing old)]).filterMap
      (fun (c : Nat × Bool) => if c.2 then some c.1 else none)

/-- The arithmetic clock changes; the part of a nanosecond that has passed stays what it is, so that NANOTIME goes on in
wall-clock time (R25). -/
def State.setClock (s : State) (mhz : Nat) : State :=
  { s with pkg := { s.pkg with mhz := mhz, nanoRem := s.pkg.nanoRem * mhz / s.pkg.mhz } }

/-- The arithmetic clock is the sealed one while a sealed partition is enabled (R315). -/
def State.sealClock (s : State) : State := if s.sealedLive then s.setClock s.pkg.sealedMhz else s

/-- A write to an entry, applied whole or refused whole with one of its causes (R305). -/
def State.tableWrite (s : State) (part word v : Nat) : State :=
  match s.refusals part word v with
  | [] =>
    let new := (s.part part).put word v
    let s1 := (s.modPart part (fun _ => new)).sealClock
    if (s.part part).enabled then s1 else s1.modFunc part (fun f => { f with budget := new.irqBudget })
  | c :: t =>
    let n := s.choose (t.length + 1)
    n.2.modPart part (fun p => { p with cause := (c :: t).getD n.1 c })

def execPartitionTableWrite (part word : Nat) (val : Reg) (s : State) : StepOut :=
  running s (if part < 16 ∧ word < 8 then some (s.tableWrite part word val.toNat) else none)

/-! ### Keys (R311) -/

/-- A key id is rekeyed: its epoch advances and its background scrub begins; one whose scrub runs waits. -/
def State.rekey (s : State) (key : Nat) : State :=
  if s.mem.scrubs.contains key then
    { s with mem := { s.mem with rekeys := if s.mem.rekeys.contains key then s.mem.rekeys else s.mem.rekeys ++ [key] } }
  else
    { s with mem := { s.mem with epochs := mapSet s.mem.epochs key (mapGet s.mem.epochs key + 1)
                                 scrubs := s.mem.scrubs ++ [key], rekeys := s.mem.rekeys.filter (· != key) } }

/-- The key ids of an entry. -/
def PartEntry.keyIds (p : PartEntry) : List Nat := (List.range 128).filter p.hasKey

/-- The units of a key id whose epoch is stale. -/
def Mem.stale (m : Mem) (key : Nat) : List Nat :=
  (m.units.filter (fun u => (u.2.toNat - 1) % 256 == key && u.2.toNat != m.tag key)).map (·.1)

/-- Poison of physical units. -/
def unitPoison (us : List Nat) (e : ErrSite) : Bool :=
  match e with
  | .hbm u => us.contains u
  | .l2 _ w _ => us.contains (w / 8)
  | _ => false

/-- Stale units are rewritten with zeros under the current epoch. -/
def State.scrubUnits (s : State) (key : Nat) : State :=
  let us := s.mem.stale key
  let m := { s.mem with bytes := s.mem.bytes.filter (fun b => !us.contains (b.1 / 64))
                        units := s.mem.units.map (fun u => if us.contains u.1 then (u.1, BitVec.ofNat 32 (s.mem.tag key)) else u) }
  ({ s with mem := m }).clearPoison (unitPoison us)

/-- Some rekey of the entry's key ids waits. -/
def State.rekeyWaits (s : State) (p : PartEntry) : Bool := s.mem.rekeys.any p.hasKey

/-- A background scrub ends: a rekey that waited for it is made, and a reset that waited for it goes on (R311, R319). -/
def State.scrubEnds (s : State) (key : Nat) : State :=
  let s1 := s.scrubUnits key
  let s2 := { s1 with mem := { s1.mem with scrubs := s1.mem.scrubs.filter (· != key) } }
  let s3 := if s2.mem.rekeys.contains key then s2.rekey key else s2
  { s3 with parts := s3.parts.map (fun p => if p.state = 3 ∧ !s3.rekeyWaits p then { p with state := 2 } else p) }

def execBackgroundScrubEnd (key : Nat) (s : State) : StepOut :=
  alive s (if s.mem.scrubs.contains key then some (s.scrubEnds key) else none)

/-! ### Resets (R22, R319) -/

/-- A poisoned place of some gangs or blocks, which is lost with them. -/
def sitesOf (gs bs : List Nat) (e : ErrSite) : Bool :=
  match e with
  | .dreg g _ _ => gs.contains g
  | .pred g _ _ => gs.contains g
  | .amax g _ => gs.contains g
  | .q g _ => gs.contains g
  | .k g _ => gs.contains g
  | .c g _ => gs.contains g
  | .stack g .. => gs.contains g
  | .backing g .. => gs.contains g
  | .trapState g => gs.contains g
  | .scoreboard g => gs.contains g
  | .code g _ => gs.contains g
  | .scratch b _ => bs.contains b
  | .cell b _ => bs.contains b
  | _ => false

/-- What is in flight, without what a partition's gangs and blocks have. -/
def Flight.without (f : Flight) (part : Nat) (gs bs : List Nat) : Flight :=
  { ops := f.ops.filter (fun o => !gs.contains o.gang)
    writes := f.writes.filter (fun w => !bs.contains w.block)
    fences := f.fences.filter (fun x => !gs.contains x.gang)
    cctls := f.cctls.filter (fun x => x.part != part)
    parks := f.parks.filter (fun p => !gs.contains p.gang)
    jobs := f.jobs.filter (fun j => !bs.contains j.block)
    copies := f.copies.filter (fun c => !bs.contains c.block)
    ctxs := f.ctxs.filter (fun x => x.part != part)
    sights := f.sights
    views := f.views.filter (fun v => !bs.contains v.block)
    specials := f.specials.filter (fun x => !gs.contains x.gang) }

/-- A partition's work ends and its state is gone (R319, steps 2 and 3). -/
def State.dropPart (s : State) (part : Nat) : State :=
  let bs := (s.blocks.filter (fun b => b.part == part)).map (·.id)
  let gs := (s.gangs.filter (fun g => bs.contains g.block)).map (·.id)
  let s1 := bs.foldl (fun s b => s.offRequest b id) s
  let key := fun (c : L2Copy) => (s.part part).hasKey c.key
  ({ s1 with
    fl := s1.fl.without part gs bs
    launches := s1.launches.filter (fun l => l.part != part)
    graphs := s1.graphs.filter (fun g => g.part != part)
    blocks := s1.blocks.filter (fun b => b.part != part)
    gangs := s1.gangs.filter (fun g => !gs.contains g.id)
    saved := s1.saved.filter (fun c => c.part != part)
    issuing := s1.issuing.filter (fun a => !gs.contains a.gang)
    mem := { s1.mem with copies := s1.mem.copies.filter (fun c => !key c) } }).clearPoison (sitesOf gs bs)

/-- A partition's reset begins: its work ends, its messages are dropped and its keys are changed (R319, steps 1 to 4). -/
def State.resetPart (s : State) (part : Nat) : State :=
  if s.resetting part then s
  else
    let s1 := (s.dropPart part).modFunc part (fun f => { f with pending := [] })
    let s2 := (s.part part).keyIds.foldl (fun s k => s.rekey k) s1
    s2.modPart part (fun p => { p with state := if s2.rekeyWaits p then 3 else 2 })

/-- A configuration request is retried until the port is ready, and while its function is being reset (R22, R319). -/
def State.configRetry (s : State) (fn : Nat) : Bool := !s.pkg.clientReady || (decide (1 ≤ fn) && s.resetting (fn - 1))

/-- A function-level reset is asked for by a configuration request, which may be retried. -/
def execFunctionLevelReset (fn : Nat) (s : State) : StepOut :=
  alive s (if s.pkg.clientUp ∧ 1 ≤ fn ∧ fn ≤ 16 then
      some (if s.configRetry fn then s.emit (.config fn true) else s.resetPart (fn - 1))
    else none)

/-- A function after a reset: its queues are empty and its MSI-X table has its reset values, every entry masked (R319, step
5; log 83). -/
def Func.reset (f : Func) : Func :=
  { f with queues := f.queues.map (fun q => { q with head := 0, tail := 0, err := false }), unmasked := [], pending := [],
           msix := [], sent := 0 }

/-- The reset ends (R319, step 5). -/
def State.resetEnds (s : State) (part : Nat) : State :=
  let put := fun (p : PartEntry) => { p with state := 0, cfg := if p.enabled then p.cfg - 2 ^ 25 else p.cfg }
  (s.modPart part put).modFunc part Func.reset

def execPartitionResetEnd (part : Nat) (s : State) : StepOut :=
  alive s (if (s.part part).state = 2 then some (s.resetEnds part) else none)

/-- A reset of the client link resets the port's functions: each live partition as for its function's reset, the function
of one that is off at once (R22). -/
def State.linkReset (s : State) : State :=
  (List.range 16).foldl (fun s n =>
      if (s.part n).state = 1 then s.resetPart n else if s.resetting n then s else s.modFunc n Func.reset)
    { s with pkg := { s.pkg with clientUp := true } }

def execClientLinkReset (s : State) : StepOut := alive s (some s.linkReset)

/-! ### Interrupts (R318) -/

/-- The messages of a partition that may leave in a new window, in order. -/
def State.irqsDue (s : State) (part : Nat) : List Nat :=
  let f := s.func part
  (f.pending.filter f.unmasked.contains).take f.budget

/-- A new window: budgets as the table now has them (R306); pending messages leave within them, the partitions taking turns. -/
def State.newWindow (s : State) : State :=
  let next := fun (p : Nat × Func) => { p.2 with sent := 0, budget := (s.part p.1).irqBudget }
  let s1 := { s with funcs := ((List.range s.funcs.length).zip s.funcs).map next, pkg := { s.pkg with irqWin := s.pkg.nano / 10000 } }
  let due := (List.range 16).map s1.irqsDue
  let rounds := due.foldl (fun n l => max n l.length) 0
  (List.range rounds).foldl (fun s k => (List.range 16).foldl (fun s part => match (due.getD part [])[k]? with
    | some v => s.raiseIrq part v
    | none => s) s) s1

def execIrqWindow (s : State) : StepOut := alive s (if s.pkg.irqWin < s.pkg.nano / 10000 then some s.newWindow else none)

/-- An entry is unmasked; its pending message leaves (R318). -/
def State.unmask (s : State) (part v : Nat) : State :=
  let s1 := s.modFunc part (fun f => { f with unmasked := if f.unmasked.contains v then f.unmasked else f.unmasked ++ [v] })
  if (s.func part).pending.contains v then s1.raiseIrq part v else s1

/-- The entry is unmasked by a host's write of its vector control (R317). -/
def execMsixUnmask (part vector : Nat) (s : State) : StepOut :=
  alive s (if s.pkg.clientUp ∧ part < 16 ∧ vector < 2048 then
      some (s.hostWrites part (0x200C + 16 * vector) (fun s => s.unmask part vector))
    else none)

/-! ### Pages (R177, R334) -/

/-- A page as R177 allows it. -/
def pageValid (p : PageSpec) : Bool :=
  (p.size == 65536 || p.size == 2097152 || p.size == 1073741824) && p.vbase % p.size == 0 && p.pbase % p.size == 0 &&
  decide (p.vbase + p.size ≤ 2 ^ 56)

/-- A matrix operation has locked the page (R145). -/
def State.locked (s : State) (part : Nat) (p : PageSpec) : Bool :=
  s.fl.jobs.any (fun j => !j.finished && (s.block? j.block).any (fun b => b.part == part) &&
    (j.reads ++ j.writes).any (fun r => overlaps r.1 r.2 p.vbase p.size))

/-- An access already translated to the page has not been performed. -/
def State.pageBusy (s : State) (p : PageSpec) : Bool :=
  s.fl.ops.any (fun o => o.elts.any (fun e => match e.place with
    | .phys a _ => overlaps a o.bytes p.pbase p.size
    | _ => false)) ||
  s.fl.writes.any (fun w => overlaps w.addr w.bytes p.pbase p.size)

/-- Memory with a page's bytes moved, under the page's key id. -/
def Mem.movePage (m : Mem) (p : PageSpec) (pbase : Nat) : Mem :=
  let us := m.units.filter (fun u => decide (p.pbase / 64 ≤ u.1) && decide (u.1 < (p.pbase + p.size) / 64))
  let cells := us.flatMap (fun u => (List.range 64).map (fun i => (pbase + (64 * u.1 + i - p.pbase), m.read p.key (64 * u.1 + i))))
  let m1 := { m with bytes := mapClear m.bytes pbase (pbase + p.size), units := mapClear m.units (pbase / 64) ((pbase + p.size) / 64) }
  cells.foldl (fun m c => m.write p.key c.1 c.2) m1

/-- A poisoned place of memory, moved. -/
def movedSite (lo size new : Nat) (e : ErrSite) : Option ErrSite :=
  let inPage := fun (a : Nat) => decide (lo ≤ a) && decide (a < lo + size)
  match e with
  | .l2 n w c => if inPage (8 * w) then some (.l2 n ((new + (8 * w - lo)) / 8) c) else none
  | .hbm u => if inPage (64 * u) then some (.hbm ((new + (64 * u - lo)) / 64)) else none
  | .l2tag n l d => if inPage (256 * l) then some (.l2tag n ((new + (256 * l - lo)) / 256) d) else none
  | _ => none

/-- Earlier code words of a page go with it; what its new home held is gone (R67). -/
def movedCode (lo size new : Nat) (l : List (Nat × Nat × Word)) : List (Nat × Nat × Word) :=
  (l.filter (fun w => !(decide (new / 4 ≤ w.1) && decide (w.1 < (new + size) / 4)))).map (fun w =>
    if lo / 4 ≤ w.1 ∧ w.1 < (lo + size) / 4 then (new / 4 + (w.1 - lo / 4), w.2) else w)

/-- A page's contents at its new home, with no copy of a line of either home left in any L2 slice (R212, R334). -/
def Mem.rehome (m : Mem) (p : PageSpec) (pbase : Nat) : Mem :=
  let of := fun (a line : Nat) => decide (a / 256 ≤ line) && decide (line < (a + p.size) / 256)
  { m.movePage p pbase with copies := m.copies.filter (fun c => !of p.pbase c.line && !of pbase c.line)
                            was := movedCode p.pbase p.size pbase m.was }

/-- The page's contents and poison go to their new home, its translation with them, and parked accesses replay. -/
def State.movePage (s : State) (part : Nat) (p : PageSpec) (pbase : Nat) : State :=
  let stay := s.errs.poison.filter (fun e => (movedSite pbase p.size 0 e).isNone)
  let s1 : State := if pbase = p.pbase then s
    else { s with mem := s.mem.rehome p pbase
                  errs := { s.errs with poison := stay ++ s.errs.poison.filterMap (movedSite p.pbase p.size pbase) } }
  let mine := fun (q : Page) => q.part == part && q.spec.vbase == p.vbase
  let waits := fun (k : Park) => (s.gang? k.gang).any (fun g => (s.block? g.block).any (fun b => b.part == part)) &&
    k.faults.any (fun f => pageCovers p f.2.1)
  { s1 with
    mem := { s1.mem with pages := mapWhere mine (fun q => { q with spec := { q.spec with pbase := pbase }, moving := none }) s1.mem.pages }
    fl := { s1.fl with parks := mapWhere waits (fun k => { k with ready := true }) s1.fl.parks } }

/-- A page is moved to a new home (R334): it faults from here on, and is moved there, as an event of its own, once every access
already translated to it has been performed. A move begun goes where it was to go. -/
def State.migrate (s : State) (part vbase pbase : Nat) : Option State :=
  (s.mem.pages.find? (fun p => p.part == part && p.spec.vbase == vbase)).bind (fun p =>
    if s.locked part p.spec || !pageValid { p.spec with pbase := pbase } || !backed s pbase || !backed s (pbase + p.spec.size - 1) ||
        p.moving.any (· != pbase) || (p.moving.isSome && s.pageBusy p.spec) then none
    else if s.pageBusy p.spec then
      let mine := fun (q : Page) => q.part == part && q.spec.vbase == vbase
      some { s with mem := { s.mem with pages := mapWhere mine (fun q => { q with moving := some pbase }) s.mem.pages } }
    else some (s.movePage part p.spec pbase))

def execPageMigration (part vbase pbase : Nat) (s : State) : StepOut := running s (s.migrate part vbase pbase)

/-! ### Devices (R19) -/

/-- Where a device's access to a byte lands, if a translation that the supervisor OS installed for it allows it. -/
def State.deviceByte (s : State) (dev a kind : Nat) : Option (Nat × Nat) :=
  (s.mem.devicePages.find? (fun p => p.1 == dev && pageCovers p.2 a && pageGrants p.2 kind)).bind (fun p =>
    let x := p.2.pbase + (a - p.2.vbase)
    if backed s x then some (x, p.2.key) else none)

/-- The poison grains that begin at an address and that `n` bytes from there cover whole (R344). -/
def State.cleanRun (s : State) (a n : Nat) : State :=
  if s.errs.poison = [] then s
  else ([8, 64, 256].filter (fun m => a % m == 0 && decide (m ≤ n))).foldl (fun s m => s.clearPoison (coversPhys a m)) s

/-- A device's access reaches memory through its translations only; one that does not translate does nothing. -/
def State.deviceAccess (s : State) (dev a : Nat) (w : Option (List (BitVec 8))) (n : Nat) : State :=
  match w with
  | some l =>
    let at_ := (List.range l.length).map (fun i => s.deviceByte dev (a + i) 1)
    if at_.any (·.isNone) then s
    else
      let s1 := (at_.zip l).foldl (fun s p => match p.1 with
        | some x => s.physWrite x.2 x.1 1 p.2.toNat
        | none => s) s
      ((List.range l.length).zip at_).foldl (fun s p => match p.2 with
        | some x => s.cleanRun x.1 (l.length - p.1)
        | none => s) s1
  | none =>
    let at_ := (List.range n).map (fun i => s.deviceByte dev (a + i) 0)
    if at_.any (·.isNone) then s.emit (.device dev [])
    else s.emit (.device dev (at_.filterMap (fun x => x.map (fun x => (s.mem.read x.2 x.1, s.physBad x.1 1)))))

def execRootPortDeviceAccess (device addr : Nat) (write : Option (List (BitVec 8))) (bytes : Nat) (s : State) : StepOut :=
  alive s (some (s.deviceAccess device addr write bytes))

end Sys2Proof.Machine
end

