-- ==== Sys2Proof/Machine/Flags.lean ====
section
/-!
DEFINITION. Machine/Flags.lean: the status values that the part computes for software: the special registers
(02 R42, R43), view status words (12 R287), MISTAT's summary (08 R173) and deferred-trap details.
-/

namespace Sys2Proof.Machine

/-! ### Special registers (R42) -/

/-- BLOCKIDX, BLOCKIDY and BLOCKIDZ (R35, R265, R290). -/
def State.blockIds (s : State) (b : Block) (h : LaunchHdr) : Nat × Nat × Nat :=
  match (s.launch? b.launch).bind (·.heat) with
  | some x => (x.1 % 2 ^ 32, 0, 0)
  | none => (b.number % h.gridx, b.number / h.gridx % h.gridy, b.number / (h.gridx * h.gridy))

/-- SLICEMASK (R42): the live slices of the gang over those of the reading agent. -/
def Gang.sliceMask (g : Gang) (sl : Option Nat) : Nat := g.memberBits none * 256 + g.memberBits sl

/-- The value of a special register (R42, R43); a reserved selector reads zero. -/
def Ctx.special (c : Ctx) (s : State) (sel lane : Nat) : Reg :=
  let n := fun (x : Nat) => BitVec.ofNat 64 x
  let ids := s.blockIds c.blk c.hdr
  match sel with
  | 0x00 => n lane
  | 0x01 => n (lane / 4)
  | 0x02 => n (lane / 8)
  | 0x03 => n c.g.index
  | 0x04 => n c.hdr.gangs
  | 0x05 => n ids.1
  | 0x06 => n ids.2.1
  | 0x07 => n ids.2.2
  | 0x08 => n (wingOf c.blk.cluster)
  | 0x09 => n (spanOf (wingOf c.blk.cluster))
  | 0x0A => n s.pkg.pkgid
  | 0x0B => n c.g.nest
  | 0x0C => n c.hdr.nestlim
  | 0x10 => c.act.setWidth 64
  | 0x11 => c.g.dead.setWidth 64
  | 0x12 => n (c.g.sliceMask c.aid.slice)
  | 0x18 => n s.pkg.clock
  | 0x19 => n s.pkg.nano
  | 0x20 => c.g.readAmax c.now c.choice lane
  | 0x21 => n c.hdr.check.toNat
  | 0x22 => c.g.signature.setWidth 64
  | 0x28 => c.g.regs.trapCode
  | 0x29 => c.g.regs.trapPc
  | 0x2A => c.g.regs.trapLanes
  | 0x2B => c.g.regs.trapAddr
  | 0x2C => c.g.regs.trapAux
  | 0x30 => c.g.regs.miStatus
  | 0x31 => c.g.regs.miResid
  | 0x32 => c.g.regs.miCount
  | 0x38 => n c.blk.argbase
  | 0x39 => n c.hdr.scratch
  | _ => 0

end Sys2Proof.Machine
end

