-- ==== Sys2Proof/Machine/EvPreempt.lean ====
section
/-!
DEFINITION. Machine/EvPreempt.lean: the supervisor OS's answers to escalated traps and calls, and pre-emption: drain,
flush, save and restore (18 R325, R327, R335 to R341, R371, 19 R342).
-/

namespace Sys2Proof.Machine

/-! ### Escalated traps and calls (R325, R327) -/

/-- The code of the trap with which a block waits for the supervisor OS; 0 without one. -/
def State.killCode (s : State) (blk : Nat) : Nat :=
  ((s.gangsOf blk).findSome? (fun g => g.slices.findSome? (fun x => match x.hold with
    | .escalated code _ => some code
    | _ => none))).getD 0

/-- The supervisor OS has ended the block already. -/
def StopMode.killed : StopMode → Bool
  | .kill _ => true
  | _ => false

def execSupervisorEndBlock (block : Nat) (s : State) : StepOut :=
  running s ((s.block? block).bind (fun b =>
    if b.ended || b.stop.killed || !s.isOwn b then none else some (s.killBlock b (s.killCode block))))

/-- The agent waits with an escalated trap. -/
def Hold.isTrap : Hold → Bool
  | .escalated .. => true
  | _ => false

/-- The agent waits for the supervisor OS. -/
def Slice.asks (x : Slice) : Bool :=
  match x.hold with
  | .escalated .. => true
  | .call .. => true
  | _ => false

/-- The slices of an agent that wait for the supervisor OS go on. -/
def Gang.answer (g : Gang) (sl : Option Nat) (f : Slice → Slice) : Gang :=
  { (g.modAgent sl (fun x => if x.asks then f x else x)) with stallSince := none }

/-- A gang and its shadow, as both wait with an escalated trap; a call is the gang's alone (R348, R349). -/
def State.bothAsk (s : State) (g : Gang) (sl : Option Nat) : Bool :=
  match g.kind with
  | .shadow _ => false
  | _ => (s.shadowOf g.id).all (fun h => (h.lead sl).any Slice.asks ||
      (g.lead sl).any (fun x => x.asks && !x.hold.isTrap))

/-- The agent and its twin's go on. -/
def State.answerBoth (s : State) (g : Gang) (sl : Option Nat) (f : Slice → Slice) : State :=
  { s with gangs := mapWhere (twinOf g.id g) (fun h => h.answer sl f) s.gangs }

/-- The supervisor's writes of q registers, in both copies of a twin (R327, R348). -/
def State.supervisorWrites (s : State) (g : Gang) (ws : List (Nat × Reg)) : State :=
  let put := fun (h : Gang) => ws.foldl (fun h w => if w.1 < 32 then h.setQ w.1 w.2 else h) h
  let ids := (s.gangs.filter (twinOf g.id g)).map (·.id)
  ({ s with gangs := mapWhere (twinOf g.id g) put s.gangs }).clearPoison (fun e => match e with
    | .q i r => ids.contains i && ws.any (fun w => w.1 == r)
    | _ => false)

/-- The agent resumes at its trapped word under the replay mask, or behind its TRAP (R325, R327). Only a call lets the
supervisor write. -/
def State.resumeAgent (s : State) (gang : Nat) (sl : Option Nat) (ws : List (Nat × Reg)) : Option State :=
  (s.gang? gang).bind (fun g => (g.lead sl).bind (fun x =>
    if !s.bothAsk g sl then none
    else match x.hold with
      | .escalated .. => if ws != [] then none else some (s.answerBoth g sl (fun x => x.resume (x.replay.getD 0xFFFFFFFF) none))
      | .call .. => some ((s.supervisorWrites g ws).answerBoth g sl (fun x => { x with hold := .none }))
      | _ => none))

def execSupervisorResume (gang : Nat) (slice : Option Nat) (writes : List (Nat × Reg)) (s : State) : StepOut :=
  running s (s.resumeAgent gang slice writes)

/-- Nothing of an escalated trap can be skipped: it names no instruction word. -/
def Hold.unskippable : Hold → Bool
  | .escalated _ wordless => wordless
  | _ => true

/-- The agent resumes behind its trapped instruction; not where no instruction word trapped (R325, R330). -/
def State.skipAgent (s : State) (gang : Nat) (sl : Option Nat) : Option State :=
  (s.gang? gang).bind (fun g => (g.lead sl).bind (fun x => (s.block? g.block).bind (fun b =>
    if x.hold.unskippable || !s.bothAsk g sl || !x.point.inside || x.point.pc == x.point.stop then none
    else
      let n := match s.code b.part x.point.pc with
        | some w => if w.getLsbD 28 then 2 else 1
        | none => 1
      some (s.answerBoth g sl (fun x => x.resume 0 (some n))))))

def execSupervisorResumeSkip (gang : Nat) (slice : Option Nat) (s : State) : StepOut := running s (s.skipAgent gang slice)

/-! ### The size and the image of a context (R340, R371) -/

def alignUp (n a : Nat) : Nat := (n + a - 1) / a * a

/-- BYTES of a launch's contexts. -/
def LaunchHdr.ctxBytes (h : LaunchHdr) : Nat := 8576 + h.gangs * (8192 + h.window) + 8192 * h.tiles + alignUp h.scratch 64

/-- Where the palette tiles lie. -/
def LaunchHdr.ctxTiles (h : LaunchHdr) : Nat := 8576 + h.gangs * (8192 + h.window)

/-- The ten words of a MITER state record (R170); RESID is 0 before unit 0 has run (log 99). -/
def MxJob.record (j : MxJob) : List Nat :=
  match j.op with
  | .miter fix te deg size cap count started resid cs c14 c15 =>
    [cap * 2 ^ 48 + count * 2 ^ 32 + (size - 1) * 2 ^ 24 + deg * 2 ^ 22 + fix.toNat * 2 ^ 21 + te.toNat * 2 ^ 20 +
       started.toNat * 2 ^ 19 + j.tile * 2 ^ 16,
     resid.toNat, j.fb.toNat] ++ (List.range 4).map (fun i => (cs.getD i 0).toNat) ++ [c14.toNat, c15.toNat, j.pc]
  | _ => []

/-- The elapsed cycles of a block (R336). -/
def State.elapsed (s : State) (b : Block) : Nat := b.elapsed + (s.pkg.clock - b.placedAt)

/-- The header of a context; NODE names the block to the dispatch core. -/
def State.ctxHeader (s : State) (b : Block) (l : Launch) (jobs : List MxJob) (views : Nat) : List Nat :=
  let p := s.blockIds b l.hdr
  let m := (jobs.filter (·.isMiter)).length
  [s.fw.writes * 2 ^ 32 + l.hdr.ctxBytes, l.hdrAddr, p.2.2 * 2 ^ 48 + p.2.1 * 2 ^ 32 + p.1, s.elapsed b % 2 ^ 48,
   b.pacer * 2 ^ 32 + (if m = 0 then 0 else 0x40 * 2 ^ 16) + m * 2 ^ 8 + views, b.id, 0, 0]

/-- A word of a context: header, records and cells are as R340, R170 and R342 give them, the rest is private. -/
def State.ctxWord (s : State) (b : Block) (l : Launch) (jobs : List MxJob) (views : Nat) (i : Nat) : Nat :=
  let recs := (jobs.filter (·.isMiter)).flatMap MxJob.record
  let t := l.hdr.ctxTiles / 8
  if i < 8 then (s.ctxHeader b l jobs views).getD i 0
  else if i < 8 + recs.length then recs.getD (i - 8) 0
  else if t ≤ i ∧ i < t + 1024 * l.hdr.tiles then (mapGet b.tiles (i - t)).toNat
  else Config.contextWord s.choice i % 2 ^ 64

/-- The local address of the save area as a domain physical address. -/
def State.local_ (s : State) (a : Nat) : Nat := s.pkg.pkgid * 2 ^ 48 + a

/-- The memory that takes a cell of a block's tiles in a context at an address (R342). -/
def State.cellAt (s : State) (h : LaunchHdr) (addr i : Nat) : Nat := s.local_ addr + h.ctxTiles + 8 * i

/-- A context is written to memory, a poisoned cell as poisoned memory (R344). -/
def State.writeCtx (s : State) (b : Block) (l : Launch) (addr key : Nat) (jobs : List MxJob) (views : Nat) : State :=
  let t := (List.range (l.hdr.ctxBytes / 8)).foldl (fun t i =>
    t.physWrite key (s.local_ addr + 8 * i) 8 (s.ctxWord b l jobs views i)) s
  let bad := s.errs.poison.filterMap (fun e => match e with
    | .cell x i => if x == b.id then some (s.cellAt l.hdr addr i) else none
    | _ => none)
  bad.foldl (fun t a => t.addPoison (.l2 (homeWing (a % 2 ^ 48)) (a / 8) false)) { t with choice := t.choice + 1 }

/-! ### Requests (R335, R336) -/

def State.modMail (s : State) (f : Mailbox → Mailbox) : State := { s with mailbox := f s.mailbox }

/-- AREA's key id and base. -/
def Mailbox.key (m : Mailbox) : Nat := bits m.area 63 56
def Mailbox.base (m : Mailbox) : Nat := bits m.area 47 0

/-- The area lies in one stack and is backed (R11). -/
def State.areaGood (s : State) (m : Mailbox) : Bool :=
  let last := m.base + m.limit - 1
  m.base != 0 && m.limit != 0 && m.base % 4096 == 0 && m.limit % 4096 == 0 && m.base / 2 ^ 37 == last / 2 ^ 37 &&
  backed s (s.local_ m.base) && backed s (s.local_ last)

/-- A request is ignored (R335). -/
def State.requestBad (s : State) (r : Nat) : Bool :=
  let m := s.mailbox
  bits r 31 10 != 0 || bits m.area 55 48 != 0 || bits r 9 8 == 3 || decide (191 < bits r 7 0) || m.busy ||
  !s.areaGood m || (s.resident (bits r 7 0)).any (fun b => !(s.part b.part).hasKey m.key)

/-- A block may be flushed: IDEM, and SE clear in every gang of it; a shadow has no effects of its own (R336, R348). -/
def State.mayFlush (s : State) (b : Block) : Bool :=
  (s.hdrOf b).any (·.idem) && (s.gangsOf b.id).all (fun g => !g.se || (match g.kind with
    | .shadow _ => true
    | _ => false))

/-- A block of the request is flushed (R338): its gangs stop, and it is queued again when what it has issued is done. -/
def State.flushBlock (s : State) (b : Block) : State :=
  (s.stopBlock b.id true).modBlock b.id (fun b => { b with stop := .flush })

/-- Blocks of the request that have not stopped stay and run on; it completes with the area full (R335). -/
def State.areaFull (s : State) : State :=
  let stopped := fun (i : Nat) => (s.block? i).any (fun b => b.stop.saving || b.stop.leaving)
  let rest := s.mailbox.todo.filter stopped
  let on := fun (b : Block) => s.mailbox.todo.contains b.id && !stopped b.id
  { s with blocks := mapWhere on (fun b => { b with stop := .none }) s.blocks
           mailbox := { s.mailbox with todo := rest, full := true, state := if rest = [] then 4 else s.mailbox.state } }

/-- The bytes of the area that a block's context takes. -/
def State.areaOf (s : State) (b : Block) : Nat := alignUp (((s.hdrOf b).map (·.ctxBytes)).getD 0) 4096

/-- The bytes that the contexts of the blocks being saved will take. -/
def State.areaDue (s : State) : Nat := total ((s.blocks.filter (fun b => b.stop.saving && !b.ended)).map s.areaOf)

/-- From the receipt of an activation to its decision no save and no restore starts (R364). -/
def Firmware.holdsSaves (f : Firmware) : Bool := f.stage.getD 0 0 == 3

/-- A block of the request stops to be saved, if its context still fits the area behind those of the blocks that have stopped (R335,
R339), and when a save may start (R364). -/
def State.beginSave (s : State) (b : Block) : State :=
  let m := s.mailbox
  let stop := fun (m : StopMode) => s.modBlock b.id (fun b => { b with stop := m })
  if s.fw.holdsSaves then stop .toSave
  else if m.base + m.limit < m.next + s.areaDue + s.areaOf b then s.areaFull
  else stop .save

/-- Saves that waited for the firmware core's decision start (R364). -/
def State.resumeSaves (s : State) : State :=
  (s.blocks.filter (fun b => b.stop == .toSave && !b.ended)).foldl (fun s b => if s.mailbox.full then s else s.beginSave b) s

/-- What a request does with a block by its mode (R336); one that is on its way out already leaves by itself. -/
def State.stopOne (s : State) (mode drain : Nat) (b : Block) : State :=
  let exp := ((s.hdrOf b).map (·.expcyc)).getD 0
  if b.stop.leaving then s
  else if mode = 0 ∧ exp ≠ 0 ∧ exp ≤ drain + s.elapsed b then
    s.modBlock b.id (fun b => { b with stop := .drain (s.pkg.clock + drain) })
  else if mode ≠ 1 ∧ s.mayFlush b then s.flushBlock b
  else s.beginSave b

/-- A write of REQUEST (R335). -/
def State.request (s : State) (r : Nat) : State :=
  if s.requestBad r then s.modMail (fun m => { m with state := 3 })
  else
    let c := bits r 7 0
    let bs := s.resident c
    let s1 := s.modMail (fun m =>
      { m with state := if bs = [] then 2 else 1, drained := 0, flushed := 0, saved := 0, cluster := c, next := m.base
               todo := bs.map (·.id), full := false })
    bs.foldl (fun s b => if s.mailbox.full then s else s.stopOne (bits r 9 8) (bits r 63 32) b) s1

def execPreemptAdaptive (request : Reg) (s : State) : StepOut :=
  running s (if bits request.toNat 9 8 = 0 then some (s.request request.toNat) else none)
def execPreemptSave (request : Reg) (s : State) : StepOut :=
  running s (if bits request.toNat 9 8 = 1 then some (s.request request.toNat) else none)
def execPreemptFlush (request : Reg) (s : State) : StepOut :=
  running s (if bits request.toNat 9 8 = 2 then some (s.request request.toNat) else none)

/-- A drained block has not ended in time: it is flushed or saved (R336). -/
def State.drainOver (s : State) (b : Block) : Option State :=
  match b.stop with
  | .drain t =>
    if b.ended || decide (s.pkg.clock < t) then none
    else if s.mayFlush b then some (s.flushBlock b)
    else some (s.beginSave b)
  | _ => none

def execDrainTimeout (block : Nat) (s : State) : StepOut := event ((s.block? block).bind s.drainOver)

/-! ### Saving (R339, R340) -/

/-- The jobs of a block that a save keeps: its MITERs and what waits behind them, in engine order. -/
def keptJobs (l : List MxJob) : List MxJob :=
  l.foldl (fun k j => if j.finished || j.isMiter || k.any (fun e => j.after e) then k ++ [j] else k) []

def State.jobsOf (s : State) (blk : Nat) : List MxJob := s.fl.jobs.filter (fun j => j.block == blk)

/-- What a block had in flight has settled: parked instructions, parked views, waiting requests, fences and what stands behind a
MITER are kept (R339). -/
def State.settled (s : State) (blk : Nat) : Bool :=
  let gs := (s.gangsOf blk).map (·.id)
  s.fl.ops.all (fun o => !gs.contains o.gang || (o.parked && o.elts == [])) && s.sentHome blk &&
  !s.fl.copies.any (fun c => c.block == blk) && !s.fl.cctls.any (fun c => gs.contains c.gang) &&
  !s.fl.specials.any (fun o => gs.contains o.gang) &&
  (s.jobsOf blk).all (fun j => (keptJobs (s.jobsOf blk)).any (fun k => k.id == j.id))

/-- An instruction that holds the issue is not yet issued in a saved context (R339); a BARSYNC that has arrived and a TRET that waits for
its handler's others keep what they have done (log 59). -/
def Hold.asSaved (h : Hold) : Hold :=
  match h with
  | .barsync .. | .tret _ => h
  | h => if h.issued then .none else h

/-- A gang as it is saved (R45, R86, R348): fixed-latency writes have landed. -/
def Gang.asSaved (g : Gang) : Gang :=
  { g with life := if g.life = .ended then .ended else .saved, olds := g.olds.filter (fun o => decide (2 ^ 63 ≤ o.lands))
           twin := [], readySince := none, stallSince := none, cede := false
           slices := g.slices.map (fun x => { x with readySince := none, hold := x.hold.asSaved }) }

/-- The requests of some gangs that wait for records, with their nodes. -/
def State.waitingGrants (s : State) (gs : List Nat) : List ((Nat × Nat) × Grant) :=
  s.graphs.flatMap (fun g => ((List.range g.nodes.length).zip g.nodes).flatMap (fun p =>
    (p.2.grants.filter (fun q => gs.contains q.gang)).map (fun q => ((g.id, p.1), q))))

/-- The block's context is written, behind the one before it, and the block leaves its cluster (R335, R339, R340). -/
def State.saveBlock (s : State) (b : Block) (l : Launch) : State :=
  let addr := s.mailbox.next
  let gs := (s.gangsOf b.id).map (·.id)
  let own := ((s.gangsOf b.id).filter (fun g => match g.kind with
    | .shadow _ => false
    | _ => true)).map (·.id)
  let mine := fun (v : View) => v.block == b.id
  let parked := s.fl.views.filter (fun v => mine v && !v.refused && v.admitted.isNone)
  let running := (s.fl.views.filter (fun v => mine v && v.admitted.isSome)).length % 256
  let jobs := s.jobsOf b.id
  let c : Saved := { addr := addr, key := s.mailbox.key, layout := s.fw.writes, block := b.id, part := b.part, jobs := jobs
                     views := parked, grants := s.waitingGrants gs, fences := s.fl.fences.filter (fun f => own.contains f.gang) }
  let s1 := (s.writeCtx b l addr s.mailbox.key jobs running).dropGrants gs
  let out := fun (b : Block) => { b with resident := false, stop := .none, elapsed := s.elapsed b, held := false, starvedSince := none }
  let s2 : State := { s1 with
    saved := s1.saved ++ [c]
    gangs := (mapWhere (fun (g : Gang) => g.block == b.id) Gang.asSaved s1.gangs).filter (fun g => g.block != b.id || (match g.kind with
      | .shadow _ => false
      | _ => true))
    fl := { s1.fl with jobs := s1.fl.jobs.filter (fun j => j.block != b.id)
                       fences := s1.fl.fences.filter (fun f => !gs.contains f.gang)
                       views := s1.fl.views.filter (fun v => !parked.any (fun p => p.id == v.id)) } }
  let s3 := s2.modBlock b.id out
  let last := !(s3.resident b.cluster).any (fun x => x.launch == l.id)
  ((if last then s3.modLaunch l.id (fun l => l.nestOn b.cluster true) else s3).trimNests).offRequest b.id
    (fun m => { m with saved := m.saved + 1, next := m.next + s.areaOf b })

def execBlockSaved (block : Nat) (s : State) : StepOut :=
  event ((s.block? block).bind (fun b => (s.launch? b.launch).bind (fun l =>
    if b.stop != .save || b.ended || !s.settled block then none else some (s.saveBlock b l))))

/-! ### Restoring (R341) -/

/-- A word of a context at a local address, as read under its key id. -/
def State.ctxRead (s : State) (c : Saved) (a o : Nat) : Nat := s.mem.readN c.key (s.local_ a + o) 8

/-- The context of which the words at an address are a copy. -/
def State.savedAt (s : State) (a : Nat) : Option Saved := s.saved.find? (fun c => s.ctxRead c a 0x28 == c.block)

/-- A MITER state record breaks R170. -/
def recordBad (w : Nat) : Bool :=
  bits w 31 29 != 0 || bits w 15 8 != 0 || bits w 7 0 != 0 || decide (bits w 63 48 < bits w 47 32)

/-- The restore of a context is refused (R341). -/
def State.ctxBad (s : State) (c : Saved) (h : LaunchHdr) (a : Nat) : Bool :=
  let w := s.ctxRead c a
  !s.fw.lists.contains (bits (w 0) 47 32) || bits (w 0) 63 48 != 0 || bits (w 0x18) 63 48 != 0 || w 0x30 != 0 || w 0x38 != 0 ||
  bits (w 0) 31 0 != h.ctxBytes || (List.range (bits (w 0x20) 15 8)).any (fun i => recordBad (w (0x40 + 80 * i)))

/-- A gang at its restore: Pending, on the cluster where its block stands (R341). -/
def Gang.restored (g : Gang) (cluster now : Nat) : Gang :=
  { g with life := if g.life = .ended then .ended else .pending, easel := 4 * cluster + easelOf g.index, placedAt := now }

/-- A poisoned place of a gang, in the gang that starts as its copy. -/
def siteOfCopy (old new : Nat) (e : ErrSite) : Option ErrSite :=
  match e with
  | .dreg g r l => if g = old then some (.dreg new r l) else none
  | .pred g r l => if g = old then some (.pred new r l) else none
  | .amax g l => if g = old then some (.amax new l) else none
  | .q g r => if g = old then some (.q new r) else none
  | .k g r => if g = old then some (.k new r) else none
  | .c g r => if g = old then some (.c new r) else none
  | .stack g i f n => if g = old then some (.stack new i f n) else none
  | .backing g l n => if g = old then some (.backing new l n) else none
  | .trapState g => if g = old then some (.trapState new) else none
  | .scoreboard g => if g = old then some (.scoreboard new) else none
  | _ => none

/-- The shadows that start from copies of a twin block's gangs (R349). -/
def shadowsOf (cluster first : Nat) (gs : List Gang) : List Gang :=
  ((List.range gs.length).zip gs).map (fun p =>
    { p.2 with id := first + p.1, kind := .shadow p.2.id, easel := 4 * cluster + shadowEasel (easelOf p.2.index) })

/-- The palette tiles of a block as its context at an address holds them (R342). -/
def State.ctxCells (s : State) (c : Saved) (h : LaunchHdr) (a : Nat) : SMap 64 :=
  (List.range (1024 * h.tiles)).filterMap (fun i =>
    let v : Reg := BitVec.ofNat 64 (s.mem.readN c.key (s.cellAt h a i) 8)
    if v = 0 then none else some (i, v))

/-- The cells are written into the tiles, with the poison of the memory that held them (R342, R344). -/
def State.loadCells (s : State) (c : Saved) (b : Block) (h : LaunchHdr) (a : Nat) : State :=
  let s1 := (s.modBlock b.id (fun b => { b with tiles := s.ctxCells c h a })).clearPoison (fun e => match e with
    | .cell x _ => x == b.id
    | _ => false)
  if s.errs.poison = [] then s1
  else (List.range (1024 * h.tiles)).foldl (fun t i =>
    if s.physBad (s.cellAt h a i) 8 then t.addPoison (.cell b.id i) else t) s1

/-- The block resumes on a cluster (R339, R341), its shadows with the poison of what they are copies of (R344).
The engine queue takes all its entries, beyond 64 too (R171; log 107). -/
def State.restore (s : State) (c : Saved) (b : Block) (l : Launch) (cluster : Nat) (held : Bool) : State :=
  let now := s.pkg.clock
  let wing := wingOf cluster
  let gs := (s.gangsOf b.id).map (fun g => g.restored cluster now)
  let ids := gs.map (·.id)
  let shadows := if l.hdr.twin then shadowsOf cluster s.fresh gs else []
  let copied := ((gs.zip shadows).flatMap (fun p => s.errs.poison.filterMap (siteOfCopy p.1.id p.2.id)))
  let in_ := fun (b : Block) => { b with resident := true, cluster := cluster, placedAt := now, held := held }
  let s1 : State := { s with
    saved := s.saved.filter (fun x => x.block != b.id)
    gangs := mapWhere (fun (g : Gang) => g.block == b.id) (fun g => g.restored cluster now) s.gangs ++ shadows
    fresh := s.fresh + shadows.length + c.fences.length, errs := { s.errs with poison := s.errs.poison ++ copied }
    fl := { s.fl with jobs := s.fl.jobs ++ c.jobs.map (fun j => { j with cluster := cluster })
                      fences := s.fl.fences ++ ((List.range c.fences.length).zip c.fences).map (fun p =>
                        { p.2 with id := s.fresh + shadows.length + p.1 })
                      views := s.fl.views ++ c.views.map (fun v => { v with wing := wing })
                      parks := mapWhere (fun (p : Park) => ids.contains p.gang) (fun p => { p with ready := true }) s.fl.parks } }
  let s2 := c.views.foldl (fun s v => s.seatNext v.launch v.level wing)
    ((s1.modBlock b.id in_).modLaunch l.id (fun l => l.nestOn cluster false))
  let s3 := c.grants.foldl (fun s q =>
    let n := ((s.node? q.1).map (fun nd => nd.grants.length)).getD 0
    State.serveGrants q.1 (n + 1) (s.modNodeAt q.1 (fun nd => { nd with grants := nd.grants ++ [q.2] }))) s2
  s3.acquire wing 4

/-- What waits before a launch, of which a block is to be restored, at its own level (R259, R341). -/
def State.before? (s : State) (l : Launch) : Option Launch :=
  (s.headOf l.part l.prio).filter (fun h => h.again != [] ||
    !(h.id == l.id || decide (l.released < h.released ∨ (l.released = h.released ∧ l.id < h.id))))

/-- It is the turn of a block of a launch that is to be restored: nothing placeable of a higher level waits, nor anything before it
at its own, and its wing is kept free for no other (R259, R341). -/
def State.restoreTurn (s : State) (l : Launch) (cluster : Nat) : Bool :=
  !(s.headsAbove l.part l.prio).any s.fitsNow && (s.freeWings l).contains (wingOf cluster) && (s.before? l).isNone

/-- The cohorts of a block stay whole: it goes to the wing, and the span, of their blocks that are there (R37, R341). -/
def State.withMates (s : State) (l : Launch) (number cluster : Nat) : Bool :=
  let w := wingOf cluster
  (l.hdr.wingco == 0 || (s.mates l l.hdr.wingco number).all (· == w)) &&
  (l.hdr.spanco == 0 || (s.mates l l.hdr.spanco number).all (fun x => spanOf x == spanOf w))

/-- Where a saved block fits a cluster: beside the places held back in its turn, or, of a heat that fits nowhere else, or that waits
behind what fits nowhere, in its node's (R261, R267; log 52). -/
def State.restorePlace (s : State) (l : Launch) (b : Block) (cluster : Nat) : Option Bool :=
  if s.restoreTurn l cluster && s.fitsOn l cluster false && s.withMates l b.number cluster then some false
  else if s.heldPlace l == some cluster && (!s.fitsElsewhere l || (s.before? l).any (fun h => !s.fitsNow h)) then some true
  else none

/-- A saved block is placed as a block of its node and its context checked (R341). -/
def State.restoreAt (s : State) (a cluster : Nat) : Option State :=
  (s.savedAt a).bind (fun c => (s.block? c.block).bind (fun b => (s.launch? b.launch).bind (fun l =>
    if s.fw.restarting || s.fw.holdsSaves || decide (Config.clusters ≤ cluster) || !s.dispatchTurn l.part then none
    else (s.restorePlace l b cluster).map (fun held =>
      if s.ctxBad c l.hdr a then s.killBlock b 0
      else (s.restore c b l cluster held).loadCells c b l.hdr a))))

def execBlockRestore (addr cluster : Nat) (s : State) : StepOut := running s (s.restoreAt addr cluster)

/-- The supervisor OS discards a live saved context; its block is lost with it (R258, R364). -/
def execSavedContextDiscard (addr : Nat) (s : State) : StepOut :=
  running s ((s.savedAt addr).bind (fun c => (s.block? c.block).map (fun b => s.killBlock b 0)))

end Sys2Proof.Machine
end

