-- ==== Sys2Proof/Machine/EvError.lean ====
section
/-!
DEFINITION. Machine/EvError.lean: soft errors and the comparison of twins (20 R343 to R349, R351).
-/

namespace Sys2Proof.Machine

/-! ### Where an error lies (R343) -/

/-- The place of an error exists. -/
def State.siteThere (s : State) (e : ErrSite) : Bool :=
  match e with
  | .dreg g _ _ => (s.gang? g).isSome
  | .pred g _ _ => (s.gang? g).isSome
  | .amax g _ => (s.gang? g).isSome
  | .q g _ => (s.gang? g).isSome
  | .k g _ => (s.gang? g).isSome
  | .c g _ => (s.gang? g).isSome
  | .stack g sl file pos => (s.gang? g).any (fun g => (g.slice? sl).any (fun x => x.stackKey file pos != none))
  | .backing g _ _ => (s.gang? g).isSome
  | .trapState g => (s.gang? g).isSome
  | .scoreboard g => (s.gang? g).isSome
  | .code g _ => (s.gang? g).isSome
  | .scratch b _ => (s.block? b).isSome
  | .cell b _ => (s.block? b).isSome
  | .l2 n w _ => decide (n < Config.wings) && backed s (8 * w)
  | .l2tag n l _ => decide (n < Config.wings) && backed s (256 * l)
  | .hbm u => backed s (64 * u)
  | .engine c => decide (c < Config.clusters)
  | .copyUnit c => decide (c < Config.clusters)
  | .streamUnit w => decide (w < Config.wings)
  | .sketchUnit w => decide (w < Config.wings)

/-! ### CORRECTABLE_ERROR, UNCORRECTABLE_ERROR (R343, R344, R347, R351) -/

/-- A correctable error is counted and changes nothing else (R347). -/
def execCorrectableError (e : ErrSite) (s : State) : StepOut :=
  alive s (if s.siteThere e then some (s.countError e 1 0) else none)

/-- A unit is out of service. -/
def insertOnce (n : Nat) (l : List Nat) : List Nat := if l.contains n then l else l ++ [n]

/-- An error among `n` bytes of a line that a wing's slice holds for another home (R343). A dirty line, one with writes on their way,
holds the bytes from then on as a poisoned write, written or not, which goes home as the others do (log 71); a clean line is fetched
again. -/
def State.strikeSlice (s : State) (wing a n : Nat) : State :=
  let dirty := s.fl.writes.find? (fun w => w.atWing && w.wing == wing && w.addr / 256 == a / 256)
  let t := match dirty with
    | none => s
    | some w =>
      let v := leGet (fun x => (s.sliceByte wing w.key x).toNat) a n
      { s with fl := { s.fl with writes := s.fl.writes ++ [{ w with addr := a, bytes := n, data := v, bad := true, mute := true }] } }
  t.dropCopies (fun c => c.wing == wing && c.line == a / 256)

/-- What an uncorrectable error does to the place where it lies (R343): its grain is poisoned, a clean line is fetched
again, an engine fails, a unit is taken out of service. -/
def State.strike (s : State) (e : ErrSite) : State :=
  match e with
  | .l2 n w true => s.dropCopies (fun c => c.wing == n && c.line == w / 32)
  | .l2 n w false => if s.homedAt n (8 * w) then s.addPoison (.l2 n w false) else s.strikeSlice n (8 * w) 8
  | .l2tag n l false => s.dropCopies (fun c => c.wing == n && c.line == l)
  | .l2tag n l true => if s.homedAt n (256 * l) then s.addPoison (.l2tag n l true) else s.strikeSlice n (256 * l) 256
  | .engine c => if s.errs.badEngines.contains c then s else s.engineFails c
  | .copyUnit c => { s with errs := { s.errs with deadCopy := insertOnce c s.errs.deadCopy } }
  | .streamUnit w => { s with errs := { s.errs with deadStream := insertOnce w s.errs.deadStream } }
  | .sketchUnit w => { s with errs := { s.errs with deadSketch := insertOnce w s.errs.deadSketch } }
  | _ => s.addPoison e

/-- An uncorrectable error is counted, passed to the supervisor OS, and strikes its place. -/
def execUncorrectableError (e : ErrSite) (s : State) : StepOut :=
  alive s (if s.siteThere e then some ((s.reportError e).strike e) else none)

/-! ### TWIN_STORE_COMPARE (R349) -/

/-- The lanes in which the addresses or data of two signatures differ. -/
def twinDiff (a b : TwinSig) : List Nat :=
  (lanesOf (a.mask &&& b.mask)).filter (fun l => a.data.filter (fun x => x.1 == l) != b.data.filter (fun x => x.1 == l))

/-- The signatures are equal as a whole. -/
def twinSame (a b : TwinSig) : Bool := a.word == b.word && a.ext == b.ext && a.mask == b.mask && a.data == b.data && a.sig == b.sig

/-- Both copies' signatures are compared: a match lets the operation go on, a mismatch traps both (R349). `key` is a
slice, or 8 for the whole gang. -/
def State.twinCompare (s : State) (gang key : Nat) : Option State :=
  (s.gang? gang).bind (fun g => (s.shadowOf gang).bind (fun h =>
    match g.twin.find? (fun t => t.slice == key), h.twin.find? (fun t => t.slice == key) with
    | some a, some b =>
      let sl := if key = 8 then none else some key
      if a.ok then none
      else if twinSame a b then
        some (s.modGang gang (fun g => { g with twin := mapWhere (fun t => t.slice == key) (fun t => { t with ok := true }) g.twin }))
      else
        let s1 := (s.modGang gang (fun g => { g with twin := g.twin.filter (fun t => t.slice != key) })).modGang h.id
          (fun g => { g with twin := g.twin.filter (fun t => t.slice != key) })
        some (s1.twinMismatch ⟨gang, sl⟩ ⟨h.id, sl⟩ a.pc a.mask ((twinDiff a b).headD 0xFF))
    | _, _ => none))

def execTwinStoreCompare (gang slice : Nat) (s : State) : StepOut := event (s.twinCompare gang slice)

end Sys2Proof.Machine
end

