-- ==== Sys2Proof/Machine/EvLink.lean ====
section
/-!
DEFINITION. Machine/EvLink.lean: links, planes and the rehash (20 R352 to R357).
-/

namespace Sys2Proof.Machine

/-! ### Planes and the plane map (R354, R355) -/

/-- The first live plane counting upward from a plane. -/
def liveFrom (live p : Nat) : Nat := (((List.range 8).map (fun i => (p + i) % 8)).find? (bitAt live)).getD p

/-- The map with each entry of a dead plane moved to the first live plane (R355). -/
def newMap (m live : Nat) : Nat := (List.range 8).foldl (fun acc i => acc + liveFrom live (mapEntry m i) * 8 ^ i) 0

/-- The planes of a mask that are live without those of another. -/
def maskMinus (live dead : Nat) : Nat := (List.range 8).foldl (fun acc j => if bitAt live j && !bitAt dead j then acc + 2 ^ j else acc) 0

/-- The plane map as the supervisor OS reads it (R355). -/
def Package.planeWord (p : Package) : Nat := p.planeEpoch * 2 ^ 32 + p.planeLive * 2 ^ 24 + p.planeMap

/-! ### The death of a plane (R356) -/

/-- The remote requests that wait for no other access and no other write: they have been sent (R356). -/
def State.sentNow (s : State) : List (Nat × Nat) :=
  let sent := fun (o : MemOp) (e : Elt) => (s.wayOf o.gang).any (fun w => match o.kind with
    | .load _ => s.loadReady o e w.1 w.2
    | .store => decide (4 ≤ o.ord) && s.storeReady o e w.1 w.2
    | .atomic _ _ => s.atomReady o e w.1 w.2)
  s.fl.ops.flatMap (fun o => o.elts.filterMap (fun e => e.phys?.bind (fun a =>
    if (s.otherPkg a).isSome && sent o e then some (o.id, a) else none))) ++
  s.fl.writes.filterMap (fun w => if (s.otherPkg w.addr).isSome && w.atWing && s.writeReady w then some (w.id, w.addr) else none)

/-- Planes die: a rehash starts, or starts again with the union of the masks. -/
def State.startRehash (s : State) (dead : Nat) : State :=
  let old := s.pkg.rehash.getD ⟨0, s.fresh, false, s.sentNow⟩
  { s with pkg := { s.pkg with rehash := some { old with dead := old.dead ||| dead, installed := false } } }

/-- The fabric core detects the loss of a plane and sends QUIESCE with the dead planes on every live one. -/
def State.planeDies (s : State) (p : Nat) : State :=
  let s1 := s.startRehash (2 ^ p)
  s1.emit (.quiesce (match s1.pkg.rehash with
    | some r => r.dead
    | none => 2 ^ p))

/-- A plane that is live and not already being rehashed around. -/
def State.planeAlive (s : State) (p : Nat) : Bool :=
  bitAt s.pkg.planeLive p && !(match s.pkg.rehash with
    | some r => bitAt r.dead p
    | none => false)

def execSignalLoss (plane : Nat) (s : State) : StepOut :=
  alive s (if plane < 8 ∧ s.planeAlive plane then some (s.planeDies plane) else none)

/-- A QUIESCE from the domain: its dead planes join those of the rehash; one that names no new plane changes nothing (R356). -/
def execQuiesce (planes : Nat) (s : State) : StepOut :=
  alive s (some (if (List.range 8).any (fun j => bitAt planes j && s.planeAlive j) then s.startRehash (planes % 256) else s))

/-! ### Links (R352, R353) -/

def State.modLink (s : State) (l : Link) (f : LinkState → LinkState) : State :=
  { s with pkg := { s.pkg with links := mapWhere (fun x => x.link == l) f s.pkg.links } }

def State.link? (s : State) (l : Link) : Option LinkState := s.pkg.links.find? (fun x => x.link == l)

/-- The compute die that carries a plane's port (R17). -/
def dieOfPlane (p : Nat) : Nat := p / 2

/-- A plane that still lives dies. -/
def State.planeOut (s : State) (p : Nat) : State := if s.planeAlive p then s.planeDies p else s

/-- A compute die goes out of service, which the management interface reports (R353), and with it the ports that it carries:
their planes die (R17; log 74). -/
def State.dieOut (s : State) (n : Nat) : State :=
  let s1 := ({ s with pkg := { s.pkg with badDies := insertOnce n s.pkg.badDies } }).emit (.report 0 n)
  ((List.range 8).filter (fun p => dieOfPlane p == n)).foldl (fun s p =>
    (s.modLink (.port p) (fun x => { x with up := false, retraining := false })).planeOut p) s1

/-- A link is down: a port's plane dies; a UCIe link takes its compute die out of service (R352, R353). -/
def State.linkDown (s : State) (l : Link) : State :=
  let s1 := s.modLink l (fun x => { x with up := false, retraining := false })
  match l with
  | .port n => s1.planeOut n
  | .ring n => s1.dieOut n
  | .hub n => s1.dieOut n

/-- A link steps down one notch and retrains; below the last notch it is down (R353). -/
def State.stepDown (s : State) (l : Link) : Option State :=
  (s.link? l).bind (fun x =>
    if !x.up then none
    else if x.notch = 3 then some (s.linkDown l)
    else some (s.modLink l (fun x => { x with notch := x.notch + 1, retraining := true, replays := 0 })))

def execEyeMarginLow (link : Link) (s : State) : StepOut := alive s (s.stepDown link)
def execSymbolCountExceeded (link : Link) (s : State) : StepOut := alive s (s.stepDown link)

/-- A flit fails its CRC and is replayed. Whether it is the one that failed before is free; after eight failed replays of
one flit a port is down, and a UCIe link steps down (R352, R353). -/
def State.crcFail (s : State) (l : Link) : Option State :=
  (s.link? l).bind (fun x =>
    if !x.up then none
    else
      let n := s.choose 2
      let k := if n.1 = 0 then 1 else x.replays + 1
      if k ≤ 8 then some (n.2.modLink l (fun x => { x with replays := k }))
      else match l with
        | .port _ => some (n.2.linkDown l)
        | _ => n.2.stepDown l)

def execFlitCrcFail (link : Link) (s : State) : StepOut := alive s (s.crcFail link)

/-- A port has finished retraining and sends again. -/
def execRetrainComplete (link : Link) (s : State) : StepOut :=
  alive s ((s.link? link).bind (fun x =>
    if x.up && x.retraining then some (s.modLink link (fun x => { x with retraining := false })) else none))

/-- The supervisor OS asks for a retrain, which may step the rate up. -/
def execRetrainRequest (link : Link) (up : Bool) (s : State) : StepOut :=
  running s ((s.link? link).bind (fun x =>
    if x.up then some (s.modLink link (fun x => { x with retraining := true, notch := if up then x.notch - 1 else x.notch })) else none))

/-! ### The rehash (R356, R357) -/

/-- The elements of an operation that had been sent on a plane that is dead: they are lost (R356). -/
def State.lostElts (s : State) (r : Rehash) (o : MemOp) (plane : Nat) : List Elt :=
  o.elts.filter (fun e => e.phys?.any (fun a => r.sent o.id a && bitAt r.dead plane && s.planeOf a == plane))

/-- The lost elements of an atomic, plane by plane: each has been performed or not, freely (R357). -/
def State.loseAtomic (s : State) (r : Rehash) (op : Nat) : State :=
  (List.range 8).foldl (fun (s : State) p => match s.op? op with
    | none => s
    | some o => match o.kind, s.wayOf o.gang with
      | .atomic aop _, some w =>
        let es := s.lostElts r o p
        if es = [] then s else s.loseElts o es p (fun s e => s.atomOne o aop false w.1 w.2 e)
      | _, _ => s) s

/-- What was outstanding on live planes has been answered, lost atomics are reported, and the new map is installed; packages
whose every port is down have left the domain (R355 to R357). Lost requests that are no atomics are replayed: here they are
still to be performed, once. -/
def State.drained (s : State) (r : Rehash) (gone : List Nat) : State :=
  let ops := s.fl.ops.map (·.id)
  let s1 := ops.foldl (fun s i => s.loseAtomic r i) s
  let live := maskMinus s.pkg.planeLive r.dead
  { s1 with pkg := { s1.pkg with
      planeLive := live, planeMap := newMap s.pkg.planeMap live, planeEpoch := (s.pkg.planeEpoch + 1) % 2 ^ 16
      rehash := s1.pkg.rehash.map (fun r => { r with installed := true })
      departed := gone.foldl (fun l g => if g = s.pkg.pkgid then l else insertOnce g l) s1.pkg.departed } }

/-- A remote request that was on its way when the rehash began, on a plane for which `p` holds, is not answered yet (R356). -/
def State.unanswered (s : State) (r : Rehash) (p : Nat → Bool) : Bool :=
  s.remotes.any (fun q => r.sent q.1 q.2 && p (s.planeOf q.2))

def execRehashDrainDone (gone : List Nat) (s : State) : StepOut :=
  alive s (match s.pkg.rehash with
    | some r => if r.installed || s.unanswered r (fun p => !bitAt r.dead p) then none
                else some (s.drained r gone)
    | none => none)

/-- Every package has installed the map, and what was lost has been replayed: held requests go out (R356). -/
def execRehashResume (s : State) : StepOut :=
  alive s (match s.pkg.rehash with
    | some r => if r.installed && !s.unanswered r (fun _ => true) then some { s with pkg := { s.pkg with rehash := none } } else none
    | none => none)

end Sys2Proof.Machine
end

