-- ==== Sys2Proof/Machine/EvFirm.lean ====
section
/-!
DEFINITION. Machine/EvFirm.lean: the firmware complex: mailboxes, images, measurement and update (21 R358 to R365).
-/

namespace Sys2Proof.Machine

/-- The management interface answers as long as there is power (R23, R24). -/
def managed (s : State) (o : Option State) : StepOut := if s.pkg.powered then event o else .fault .notEnabled

/-! ### Mailboxes (R358) -/

def State.modFw (s : State) (f : Firmware → Firmware) : State := { s with fw := f s.fw }

def Firmware.box (f : Firmware) (core : Nat) : List MailMsg := f.boxes.getD core []

/-- A message sent to a core: into its mailbox, or held by its sender while that is full or an earlier message of the
sender is held. -/
def Firmware.post (f : Firmware) (core : Nat) (m : MailMsg) : Firmware :=
  if (f.box core).length < 32 && !f.held.any (fun h => h.1 == core && h.2.sender == m.sender) then
    { f with boxes := f.boxes.modify core (· ++ [m]) }
  else { f with held := f.held ++ [(core, m)] }

/-- A core takes its first message; the first held for it enters. -/
def Firmware.take (f : Firmware) (core : Nat) : Firmware :=
  let g := { f with boxes := f.boxes.modify core (·.drop 1) }
  match g.held.find? (fun h => h.1 == core) with
  | some h => { g with boxes := g.boxes.modify core (· ++ [h.2]), held := g.held.erase h }
  | none => g

/-- A message reaches a core's mailbox, or the core takes the first of it. -/
def execMailboxMessage (core : Nat) (msg : Option MailMsg) (s : State) : StepOut :=
  managed s (if 8 ≤ core then none
    else match msg with
      | some m => if m.sender < 8 ∧ m.body.length ≤ 64 then some (s.modFw (fun f => f.post core m)) else none
      | none => if s.fw.box core = [] then none else some (s.modFw (fun f => f.take core)))

/-! ### Images (R359, R360) -/

/-- A little-endian word of a header. -/
def imgWord (i : Image) (o n : Nat) : Nat := leGet (fun a => (i.header.getD a 0).toNat) o n
def imgKind (i : Image) : Nat := bits (imgWord i 0 8) 47 32
def imgSvn (i : Image) : Nat := bits (imgWord i 8 8) 63 32
def imgRaise (i : Image) : Bool := bitAt (imgWord i 0x10 8) 16
def imgWrites (i : Image) : Nat := bits (imgWord i 0x10 8) 15 0
def imgLayouts (i : Image) : List Nat := ((List.range 8).map (fun k => imgWord i (0x18 + 2 * k) 2)).filter (· != 0)
def imgPayload (i : Image) : List (BitVec 8) := i.payload.take (bits (imgWord i 8 8) 31 0)

/-- A range of header bytes that is reserved. -/
def imgZeros (i : Image) (lo hi : Nat) : Bool := ((i.header.drop lo).take (hi - lo)).all (· == 0)

/-- A digest as its 48 bytes. -/
def digestBytes (d : BitVec 384) : List (BitVec 8) := (List.range 48).map (fun k => BitVec.ofNat 8 (d.toNat / 2 ^ (8 * k)))

/-- The image verifies as an image of a kind (R360). -/
def imgVerifies (i : Image) (kind minSvn : Nat) : Bool :=
  decide (bits (imgWord i 8 8) 31 0 ≤ i.payload.length) &&
  let sig := fun (lo hi : Nat) => (i.header.drop lo).take (hi - lo)
  decide (i.header.length = 4096) && bits (imgWord i 0 8) 31 0 == 0x4F5A4657 && bits (imgWord i 0 8) 63 48 == 0 &&
  bits (imgWord i 0x10 8) 63 17 == 0 && imgZeros i 0x58 0x80 && imgZeros i 0xDAD 0x1000 && (imgKind i) == kind &&
  Config.ed25519Verifies (i.header.take 128) (sig 0x80 0xC0) && Config.mldsaVerifies (i.header.take 128) (sig 0xC0 0xDAD) &&
  sig 0x28 0x58 == digestBytes (Config.sha384 (imgPayload i)) && decide (minSvn ≤ (imgSvn i)) &&
  (kind != 1 || (imgLayouts i).contains (imgWrites i))

/-! ### Measurements (R361) -/

/-- The measurement of an image: its header and the payload that its header declares. -/
def imgMeasure (i : Image) : BitVec 384 := Config.sha384 (i.header ++ imgPayload i)

/-- The measurement of the activation count. -/
def countMeasure (n : Nat) : BitVec 384 := Config.sha384 ((leCells 0 8 n).map (·.2))

/-- The minimum SVNs and the fuse configuration. -/
def fuseMeasure (minSvn : List Nat) : BitVec 384 :=
  Config.sha384 (minSvn.flatMap (fun n => (leCells 0 4 n).map (·.2)) ++ Config.fuses)

/-- The measurement of an index 1 to 5. -/
def Firmware.measured (f : Firmware) (index : Nat) : BitVec 384 := f.measure.getD (index - 1) 0

/-! ### SPDM (R362) -/

def State.answer (s : State) (what : String) (l : List Nat) : State := s.emit (.answer what l)

/-- The versions answered, and the algorithms each offers: 1 Ed25519, 2 ML-DSA-65. -/
def spdmVersions : List Nat := [0x12, 0x14]
def offered (ver : Nat) : List Nat := if ver = 0x14 then [1, 2] else if ver = 0x12 then [1] else []

def execGetVersion (s : State) : StepOut := managed s (some (s.answer "VERSION" spdmVersions))

def execGetCapabilities (ver : Nat) (s : State) : StepOut :=
  managed s (some (if spdmVersions.contains ver then s.answer "CAPABILITIES" (Config.spdmAnswer "CAPABILITIES" [ver])
    else s.answer "ERROR" [ver]))

/-- The algorithm asked for, when the version offers it; the hash is SHA-384 in both. -/
def execNegotiateAlgorithms (ver alg : Nat) (s : State) : StepOut :=
  managed s (some (if (offered ver).contains alg then s.answer "ALGORITHMS" [alg, 384] else s.answer "ERROR" [ver, alg]))

def execGetDigests (s : State) : StepOut := managed s (some (s.answer "DIGESTS" (Config.spdmAnswer "DIGESTS" [])))

/-- An answer made under a connection, which is 256 times the version that the requester has negotiated plus the algorithm; ERROR where
that version does not offer it (R362; log 93). -/
def State.signed (s : State) (conn : Nat) (what : String) (l : List Nat) : State :=
  if (offered (conn / 256)).contains (conn % 256) then s.answer what l else s.answer "ERROR" [conn]

def execGetCertificate (conn offset length : Nat) (s : State) : StepOut :=
  managed s (some (s.signed conn "CERTIFICATE" (Config.spdmAnswer "CERTIFICATE" [conn, offset, length])))

def execChallenge (conn nonce : Nat) (s : State) : StepOut :=
  managed s (some (s.signed conn "CHALLENGE_AUTH"
    (Config.spdmAnswer "CHALLENGE_AUTH" (conn :: nonce :: s.fw.measure.map (·.toNat)))))

/-- The measurement asked for, with its signature. -/
def execGetMeasurements (conn index nonce : Nat) (s : State) : StepOut :=
  managed s (some (if 1 ≤ index ∧ index ≤ 5 then
      let v := (s.fw.measured index).toNat
      s.signed conn "MEASUREMENTS" (index :: v :: Config.spdmAnswer "MEASUREMENTS" [conn, index, nonce, v])
    else s.answer "ERROR" [index]))

/-- Any other request: ERROR, UnsupportedRequest. -/
def execSpdmUnsupportedRequest (code : Nat) (s : State) : StepOut :=
  managed s (some (s.answer "ERROR_UNSUPPORTED_REQUEST" [code]))

/-! ### Update (R363 to R365) -/

/-- The staging bank of a component and its stage. -/
def Firmware.stage_ (f : Firmware) (c : Nat) (image : Option Image) (n : Nat) : Firmware :=
  { f with staging := f.staging.set c image, stage := f.stage.set c n }

/-- The stages of an update before its activation, each with its answer, 0 for success and 1 for its failure: the image is written
to the staging bank, verified there and marked ready; a failure clears the bank (R363). -/
def State.transfer (s : State) (c : Nat) (image : Image) (ok : Bool) : State :=
  if !ok then (s.modFw (fun f => f.stage_ c none 0)).answer "TRANSFER_COMPLETE" [1]
  else ((s.modFw (fun f => f.stage_ c (some image) 1)).answer "TRANSFER_COMPLETE" [0])
def State.verify (s : State) (c : Nat) : State :=
  match s.fw.staging.getD c none with
  | none => s
  | some i =>
    if imgVerifies i (c + 1) (s.fw.minSvn.getD c 0) then s.answer "VERIFY_COMPLETE" [0]
    else (s.modFw (fun f => f.stage_ c none 0)).answer "VERIFY_COMPLETE" [1]
def State.apply (s : State) (c : Nat) : State :=
  match s.fw.staging.getD c none with
  | none => s
  | some i => (s.modFw (fun f => f.stage_ c (some i) 2)).answer "APPLY_COMPLETE" [0]

/-- The transfer fails while an activation of the component waits for its decision, which is about the image that is staged (R364;
log 93). -/
def execRequestFirmwareData (component : Nat) (image : Image) (ok : Bool) (s : State) : StepOut :=
  managed s (if component = 1 ∧ s.fw.holdsSaves then some (s.answer "TRANSFER_COMPLETE" [1])
    else if component = 1 ∨ component = 2 then
      some (((s.transfer (component - 1) image ok).verify (component - 1)).apply (component - 1))
    else none)

/-- A staged image becomes the active one, with its measurement and the activation count (R361, R365). -/
def Firmware.activate (f : Firmware) (c : Nat) (i : Image) : Firmware :=
  let svns := if (imgRaise i) then f.minSvn.set c (imgSvn i) else f.minSvn
  let m := ((f.measure.set (c + 1) (imgMeasure i)).set 3 (fuseMeasure svns)).set 4 (countMeasure (f.activations + 1))
  { f with active := f.active.set c i, staging := f.staging.set c none, stage := f.stage.set c 0, minSvn := svns
           measure := m, activations := f.activations + 1 }

/-- A layout of a live saved context that the image does not list (R364). -/
def State.blocked (s : State) (i : Image) : Bool := s.saved.any (fun c => !(imgLayouts i).contains c.layout)

/-- The activation of component 1 is decided: made, or deferred with the image kept staged; saves that waited for it start (R364,
R365). -/
def State.decideFw (s : State) (i : Image) : State :=
  if s.blocked i then ((s.modFw (fun f => { (f.stage_ 0 (some i) 2) with reason := 200 })).resumeSaves).answer "ACTIVATE_FIRMWARE" [1]
  else ((s.modFw (fun f => { (f.activate 0 i) with restarting := true, reason := 0, writes := imgWrites i
                                                   lists := (imgLayouts i) })).resumeSaves).answer "ACTIVATE_FIRMWARE" [0]

/-- The blocks whose saves are in progress. -/
def State.savesNow (s : State) : List Nat := (s.blocks.filter (fun b => b.stop.saving && !b.ended)).map (·.id)

/-- ActivateFirmware: component 1 is activated or deferred in one event, once the saves in progress have completed; component 2 at
the next supervisor OS restart. The answer is 0 for success, 1 deferred, 2 nothing ready (R364). -/
def State.activateFw (s : State) (c : Nat) : State :=
  match s.fw.staging.getD c none with
  | none => s.answer "ACTIVATE_FIRMWARE" [2]
  | some i =>
    if c = 1 then (s.modFw (fun f => { f with stage := f.stage.set 1 3 })).answer "ACTIVATE_FIRMWARE" [0]
    else if s.savesNow = [] then s.decideFw i
    else if s.fw.holdsSaves then s
    else s.modFw (fun f => { f with stage := f.stage.set 0 3, deciding := s.savesNow })

/-- An activation that awaited saves is decided, once they have completed. -/
def State.decideDue (s : State) : State :=
  match s.fw.staging.getD 0 none with
  | some i => if s.fw.holdsSaves ∧ s.fw.deciding.all (fun b => !s.savesNow.contains b) then s.decideFw i else s
  | none => s

def execActivateFirmware (component : Nat) (s : State) : StepOut :=
  managed s (if component = 1 ∨ component = 2 then some (s.activateFw (component - 1)) else none)

/-- The update state that GetStatus reports: 2 READY XFER while an image is staged, 0 idle (log 93). -/
def Firmware.updateState (f : Firmware) : Nat := if f.stage.all (· == 0) then 0 else 2

/-- GetStatus: the update state, the reason code and the stage of each component. -/
def execGetStatus (s : State) : StepOut :=
  managed s (some (s.answer "GET_STATUS" (s.fw.updateState :: s.fw.reason :: s.fw.stage)))

/-- A cancelled update leaves the active image and the measurements as they were. -/
def execCancelUpdate (component : Nat) (s : State) : StepOut :=
  managed s (if component = 1 ∨ component = 2 then
      some (s.modFw (fun f => { (f.stage_ (component - 1) none 0) with reason := if component = 1 then 0 else f.reason })).resumeSaves
    else none)

/-- The cores have restarted: placement and the parser go on (R365). -/
def execFirmwareRestartDone (s : State) : StepOut :=
  alive s (if s.fw.restarting then some (s.modFw (fun f => { f with restarting := false })) else none)

/-- The supervisor OS restarts: a staged image that was to be activated becomes its active one (R365). -/
def execSupervisorOsRestart (s : State) : StepOut :=
  running s (some (match s.fw.staging.getD 1 none with
    | some i => if s.fw.stage.getD 1 0 = 3 then s.modFw (fun f => f.activate 1 i) else s
    | none => s))

end Sys2Proof.Machine
end

