-- ==== Sys2Proof/Machine/EvPackage.lean ====
section
/-!
DEFINITION. Machine/EvPackage.lean: power, start-up and the client port (01 R17, R20 to R25, R253, 17 R315, 20 R351, R355),
and the writes of registers that have no event of their own (01 R20, 09 R177, R199, 11 R254, R265, 17 R315, R318).
-/

namespace Sys2Proof.Machine

/-! ### Start-up (R24) -/

/-- The package as it is when its power returns or it is reset: what the active banks and fuses hold is kept, and the
model's own fields go on. -/
def State.cold (s : State) : State :=
  { State.reset with
    fw := { State.reset.fw with active := s.fw.active, minSvn := s.fw.minSvn, writes := s.fw.writes, lists := s.fw.lists }
    fresh := s.fresh, choice := s.choice, inputs := s.inputs, out := s.out }

/-- Start-up stops at a step, which the management interface reports. -/
def State.halt (s : State) (step : Nat) : State := ({ s with pkg := { s.pkg with halted := true } }).emit (.report step 0)

/-- A part of the package that is lost in a step, which the management interface reports. -/
def State.reduced (s : State) (step unit : Nat) : State := s.emit (.report step unit)

def State.booted (s : State) (step : Nat) : State := { s with pkg := { s.pkg with boot := step } }

def State.active (s : State) (c : Nat) : Image := s.fw.active.getD c (shippedImage c)

/-- An active image verifies. -/
def State.verifies (s : State) (c : Nat) : Bool := imgVerifies (s.active c) (c + 1) (s.fw.minSvn.getD c 0)

/-- Step 1 measures the boot ROM, the image, the fuses and the activation count. -/
def State.measureBoot (s : State) : State :=
  s.modFw (fun f => { f with measure :=
    [Config.sha384 Config.bootRom, imgMeasure (s.active 0), 0, fuseMeasure f.minSvn, countMeasure 0] })

/-- Step 2: stacks that fail take their spans out of service; engines are tested (R351). -/
def State.trainStacks (s : State) (b : Boot) : State :=
  let s1 : State := { s with pkg := { s.pkg with badStacks := b.badStacks }, errs := { s.errs with badEngines := b.badEngines } }
  b.badStacks.foldl (fun s n => s.reduced 2 n) s1

/-- The planes of some ports. -/
def portMask (l : List Nat) : Nat := (List.range 8).foldl (fun m j => if l.contains j then m + 2 ^ j else m) 0

/-- Step 4: ports that fail mark their planes dead, and the domain gives PKGID and its map (R17, R355). -/
def State.joinDomain (s : State) (b : Boot) : State :=
  let dead := portMask b.badPorts
  let w := match b.planeMap with
    | some m => m.toNat
    | none => s.pkg.planeWord
  let live := maskMinus (bits w 31 24) dead
  let s1 : State := { s with pkg := { s.pkg with
    pkgid := b.pkgid % 256, planeLive := live, planeEpoch := bits w 47 32
    planeMap := if b.planeMap.isSome then bits w 23 0 else newMap (bits w 23 0) live
    links := mapWhere (fun (x : LinkState) => match x.link with
      | .port n => b.badPorts.contains n
      | _ => false) (fun x => { x with up := false }) s.pkg.links } }
  b.badPorts.foldl (fun s n => s.reduced 4 n) s1

/-- Start-up, steps 1 to 5; step 6 is the supervisor OS's (R24). -/
def State.boot (s : State) (b : Boot) : State :=
  let s0 := s.cold
  if !s0.verifies 0 then s0.halt 1
  else
    let s1 := s0.measureBoot.booted 1
    if !b.step2 then s1.halt 2
    else
      let s2 := (s1.trainStacks b).booted 2
      if !b.step3 then s2.halt 3
      else
        let s3 := s2.booted 3
        if !b.step4 then s3.halt 4
        else
          let s4 := (s3.joinDomain b).booted 4
          if !s4.verifies 1 then s4.halt 5
          else (s4.modFw (fun f => { f with measure := f.measure.set 2 (imgMeasure (s4.active 1)) })).booted 5

/-- A reset of the package, by the management interface or with the return of power; no event of the client port is
one (R22). -/
def execPackageReset (b : Boot) (s : State) : StepOut := event (some (s.boot b))

/-- Power is removed: nothing goes on until it returns and the package is reset (R22). -/
def execPowerRemoval (s : State) : StepOut :=
  managed s (some { s.cold with pkg := { State.reset.pkg with powered := false } })

/-! ### The clock (R25, R315) -/

/-- The power core lowers the arithmetic clock; while a sealed partition is enabled it stays as it is. -/
def State.throttle (s : State) (mhz : Nat) : Option State :=
  if s.sealedLive || mhz = 0 || decide (s.pkg.mhz < mhz) then none else some (s.setClock mhz)

def execPowerLimitThrottle (mhz : Nat) (s : State) : StepOut := alive s (s.throttle mhz)

/-! ### The client port (R22, R23) -/

/-- Step 6 ends with the port ready. -/
def execClientPortReady (s : State) : StepOut :=
  running s (some { s with pkg := { s.pkg with clientReady := true, boot := 7 } })

def execClientConfigRequest (fn : Nat) (s : State) : StepOut :=
  alive s (if s.pkg.clientUp ∧ fn ≤ 16 then some (s.emit (.config fn (s.configRetry fn))) else none)

/-- The client link goes down; nothing else does (R22, R23). -/
def execClientLinkDown (s : State) : StepOut :=
  alive s (some { s with pkg := { s.pkg with clientUp := false } })

/-! ### The supervisor cores' address space (R20) -/

/-- An aligned 64-bit store to the register window; one to an offset that holds no writable register is ignored. -/
def State.windowWrite (s : State) (o v : Nat) : State :=
  if o < 1024 then s.tableWrite (o / 64) (o % 64 / 8) v
  else if o = 0x10000 then s.request v
  else if o = 0x10008 then (if s.mailbox.busy then s else s.modMail (fun m => { m with area := v }))
  else if o = 0x10010 then (if s.mailbox.busy then s else s.modMail (fun m => { m with limit := v }))
  else s

/-- A word of a partition entry as it reads (R304). -/
def PartEntry.get (p : PartEntry) (word : Nat) : Nat :=
  match word with
  | 0 => p.wings
  | 1 => p.shwings
  | 2 => p.keys % 2 ^ 64
  | 3 => p.keys / 2 ^ 64
  | 4 => p.hbmslot
  | 5 => p.fabw
  | 6 => p.cfg
  | _ => p.state + 2 ^ 8 * p.cause

/-- STATUS of the pre-emption mailbox (R335). -/
def Mailbox.status (m : Mailbox) : Nat :=
  m.state + 2 ^ 16 * (m.saved % 65536) + 2 ^ 32 * (m.flushed % 65536) + 2 ^ 48 * (m.drained % 65536)

/-- What an aligned 64-bit load of the register window returns (R20): an offset that holds no register reads zero, and so
do the write-only REQUEST and the reserved field of AREA (R5, R335). -/
def State.windowRead (s : State) (o : Nat) : Nat :=
  if o < 1024 then (s.part (o / 64)).get (o % 64 / 8)
  else if o = 0x10008 then s.mailbox.area - bits s.mailbox.area 55 48 * 2 ^ 48
  else if o = 0x10010 then s.mailbox.limit
  else if o = 0x10018 then s.mailbox.status
  else if o = 0x20000 then s.pkg.planeWord
  else if 0x100000 ≤ o ∧ o < 0x100000 + 128 * Config.easels then
    (mapGet s.counters (16 * ((o - 0x100000) / 128) + (o - 0x100000) % 128 / 8)).toNat
  else 0

/-- Where the register window begins, and its bytes. -/
def windowBase : Nat := 0x80000000000000
def windowBytes : Nat := 0x10000000

/-- A supervisor core's access of `n` bytes at a supervisor physical address (R20): the register window by aligned 64-bit
accesses only, the local memory under key id 0 (R308). Any other address is an access fault of the core (log 83). -/
def State.superAccess (s : State) (core addr n : Nat) (val : Option Reg) : State :=
  let fault := s.emit (.accessFault core addr)
  if windowBase ≤ addr ∧ addr < windowBase + windowBytes then
    let o := addr - windowBase
    if n ≠ 8 ∨ o % 8 ≠ 0 then fault
    else match val with
      | some v => s.windowWrite o v.toNat
      | none => s.emit (.loaded core addr (s.windowRead o) false)
  else
    let a := s.pkg.pkgid * 2 ^ 48 + addr
    if addr + n ≤ 2 ^ 48 ∧ backed s a ∧ backed s (a + n - 1) then match val with
      | some v => s.physWrite 0 a n (v.toNat % 2 ^ (8 * n))
      | none => s.emit (.loaded core addr (s.mem.readN 0 a n) (s.physBad a n))
    else fault

/-! ### A function's memory window (R254, R317) -/

/-- The bits of a list of numbers that lie in one 32-bit word of a bit array. -/
def arrayWord (l : List Nat) (k : Nat) : Nat :=
  (List.range 32).foldl (fun n i => if l.contains (32 * k + i) then n + 2 ^ i else n) 0

/-- A 32-bit word of the window as a host reads it; a doorbell is only written, and reads zero. -/
def State.hostWord (s : State) (part o : Nat) : Nat :=
  let f := s.func part
  if o = 0 then (s.part part).state
  else if 0x1000 ≤ o ∧ o < 0x1080 then
    if o % 8 = 0 then 0
    else match f.queues[(o - 0x1000) / 8]? with
      | some q => q.head * 2 ^ 16 + q.err.toNat
      | none => 0
  else if 0x2000 ≤ o ∧ o < 0xA000 then
    let v := (o - 0x2000) / 16
    if o % 16 = 12 then (!f.unmasked.contains v).toNat else (mapGet f.msix ((o - 0x2000) / 4)).toNat
  else if 0xA000 ≤ o ∧ o < 0xA100 then arrayWord f.pending ((o - 0xA000) / 4)
  else 0

/-- A 32-bit word of the window written by a host: a doorbell, or a word of an MSI-X entry, whose last holds the mask in bit
0. -/
def State.hostPut (s : State) (part o v : Nat) : State :=
  if 0x1000 ≤ o ∧ o < 0x1080 ∧ o % 8 = 0 then s.modQueue part ((o - 0x1000) / 8) (fun x => x.ring v)
  else if 0x2000 ≤ o ∧ o < 0xA000 then
    let e := (o - 0x2000) / 16
    if o % 16 ≠ 12 then s.modFunc part (fun f => { f with msix := mapSet f.msix ((o - 0x2000) / 4) (BitVec.ofNat 32 v) })
    else if v % 2 = 0 then s.unmask part e
    else s.modFunc part (fun f => { f with unmasked := f.unmasked.filter (· != e) })
  else s

/-- A range of the window that R317 lists. -/
def hostRange (o : Nat) : Bool := decide (o < 8) || (decide (0x1000 ≤ o) && decide (o < 0x1080)) ||
  (decide (0x2000 ≤ o) && decide (o < 0xA000)) || (decide (0xA000 ≤ o) && decide (o < 0xA100))

/-- A host's aligned read or write of 4 or 8 bytes in memory window 0 of a function (R22, R317, R319). -/
def State.hostAccess (s : State) (fn o n : Nat) (val : Option Reg) : State :=
  let refused := s.emit (.unsupported fn o)
  if !s.pkg.clientReady || fn == 0 || !hostRange o then refused
  else match val with
    | none =>
      if s.resetting (fn - 1) then refused
      else s.emit (.host fn o (s.hostWord (fn - 1) o + if n = 8 then 2 ^ 32 * s.hostWord (fn - 1) (o + 4) else 0))
    | some v => s.hostWrites (fn - 1) o (fun s =>
        let s1 := s.hostPut (fn - 1) o (v.toNat % 2 ^ 32)
        if n = 8 then s1.hostPut (fn - 1) (o + 4) (v.toNat / 2 ^ 32) else s1)

/-! ### What the supervisor OS sets up -/

/-- A submission queue's configuration (R254). -/
def queueGood (part q base entries cap : Nat) : Bool :=
  decide (part < 16) && decide (q < 16) && base % 4096 == 0 && decide (cap < 8) &&
  [16, 32, 64, 128, 256, 512, 1024, 2048, 4096].contains entries

/-- A context created by the supervisor OS (R199). -/
def newCtx (wing ctx part scope : Nat) : StreamCtx :=
  { wing := wing, ctx := ctx, part := part, scope := scope, sub := 0, time := 0, errNum := 0, errMore := 0, errCause := 0, ops := [] }

/-- An access to a register without an event of its own, or an act of the supervisor OS. -/
def State.regWrite (s : State) (w : RegWrite) : Option State :=
  match w with
  | .super core addr n v =>
    if core < 32 ∧ addr < 2 ^ 64 ∧ (n = 1 ∨ n = 2 ∨ n = 4 ∨ n = 8) then some (s.superAccess core addr n v) else none
  | .host fn o n v =>
    if s.pkg.clientUp ∧ fn ≤ 16 ∧ (n = 4 ∨ n = 8) ∧ o % n = 0 then some (s.hostAccess fn o n v) else none
  | .queue part q base entries cap =>
    if queueGood part q base entries cap then
      some (s.modQueue part q (fun _ => { base := base, entries := entries, cap := cap, head := 0, tail := 0, err := false }))
    else none
  | .pageMap part page => if part < 16 ∧ pageValid page then some (s.mapPages part [page]) else none
  | .pageUnmap part vbase =>
    if part < 16 then
      some { s with mem := { s.mem with pages := s.mem.pages.filter (fun p => !(p.part == part && p.spec.vbase == vbase)) } }
    else none
  | .context wing ctx part scope =>
    if wing < Config.wings ∧ ctx < 64 ∧ part < 16 ∧ (s.part part).enabled ∧ (s.part part).hasWing wing ∧ 2 ≤ scope ∧ scope ≤ 4 then
      some { s with fl := { s.fl with ctxs := s.fl.ctxs.filter (fun x => !(x.wing == wing && x.ctx == ctx)) ++ [newCtx wing ctx part scope] } }
    else none
  | .heatArea part base bytes =>
    if part < 16 then some (s.modFunc part (fun f => { f with heatBase := base, heatBytes := bytes })) else none
  | .deviceMap dev page =>
    if pageValid page then some { s with mem := { s.mem with devicePages := (dev, page) :: s.mem.devicePages.filter (fun p =>
      !(p.1 == dev && overlaps p.2.vbase p.2.size page.vbase page.size)) } }
    else none
  | .sealedClock mhz => if mhz = 0 then none else some ({ s with pkg := { s.pkg with sealedMhz := mhz } }).sealClock
  | .clock mhz => if s.sealedLive ∨ mhz = 0 ∨ 940 < mhz then none else some (s.setClock mhz)

/-- A host's request needs no supervisor core (R22). -/
def execRegisterWrite (w : RegWrite) (s : State) : StepOut :=
  match w with
  | .host .. => alive s (s.regWrite w)
  | _ => running s (s.regWrite w)

end Sys2Proof.Machine
end

