-- ==== Sys2Proof/Machine/EvView.lean ====
section
/-!
DEFINITION. Machine/EvView.lean: the events of the sketch unit (12 R268, R285 to R287, R290, R295, 13 R297).
-/

namespace Sys2Proof.Machine

/-! ### SKETCH_TURN (R268) -/

/-- A slot that a turn of its wing's unit can serve. -/
def State.turnable (s : State) (wing : Nat) (v : View) : Bool :=
  v.wing == wing && v.admitted.isSome && s.viewReleased v && !(s.block? v.block).any (fun b => s.fabricWaits b.part) && !s.viewHeld v &&
  (s.viewTurn v).isSome

/-- The occupied slots that can be served, the one served longest ago first. -/
def State.slotsInTurn (s : State) (wing : Nat) : List View :=
  sortBy (fun v => v.served) (sortBy (fun v => v.admitted.getD 0) (s.fl.views.filter (s.turnable wing)))

/-- One turn of a wing's traversal unit; the start of a traversal acquires at .s (R219). -/
def State.sketchTurn (s : State) (wing : Nat) : Option State :=
  if s.errs.deadSketch.contains wing || s.dieOff wing then none
  else match s.slotsInTurn wing with
  | [] => none
  | v :: _ =>
    let s1 := if v.prepared then s else s.acquire wing 3
    let last := ((s1.fl.views.filter (fun x => x.wing == wing)).map (·.served)).foldl max 0
    (s1.viewTurn v).map (fun w =>
      (((s1.engFill (s1.viewSeat v) (s1.viewRuns v)).modView v.id (fun _ => { w with served := last + 1 })).viewLost v (s1.viewGone v)))

def execSketchTurn (wing : Nat) (s : State) : StepOut := event (s.sketchTurn wing)

/-! ### SHADING_GANG_START (R290, R301) -/

/-- The view's next shading gang starts, when the view is the first that waits for a place of its level. -/
def State.shadeStart (s : State) (id : Nat) : Option State :=
  (s.view? id).bind (fun v =>
    match s.shadeWaiters v.launch v.level v.wing with
    | w :: _ => if w.id = id then s.startNext v.launch v.level v.wing else none
    | [] => none)

def execShadingGangStart (view : Nat) (s : State) : StepOut := event (s.shadeStart view)

/-! ### VIEW_DELIVERY (R285 to R287, R294, R295, R297) -/

/-- A view with all that its tile needs: a refused one reads its cut now; none while it is not complete. -/
def State.viewDone (s : State) (v : View) : Option View :=
  if s.pkg.clock < v.issued + 64 ∨ !s.twinReady v.gang v.at_ ∨ s.errs.deadSketch.contains v.wing ∨ s.dieOff v.wing ∨
      !s.viewReleased v then none
  else if v.refused then (s.loadSrcs v v.srcs).map (fun r => { v with srcs := r.1 })
  else if v.admitted.isSome && v.prepared && v.nextRay.isNone && v.toStart == [] && v.running == 0 &&
    s.shadeWritesDone v then some v
  else none

/-- VIEW_FAULT of a view that has recorded MALFORMED under TRAPMAL, the malformed ray's own lane's cut deciding (R286; log 112). -/
def View.fault (v : View) (live : Bool) : List PendTrap :=
  let bad := v.rays.any (fun r => r.status == .malformed && ((v.src? r.lane).bind (·.cut)).any (·.trapMal))
  if bad && live then
    [⟨v.slice, 0x18, some v.lanes, v.srcs.map (fun x => (if v.perLane then x.lane else 32, x.cutAddr)), v.pc, v.id⟩]
  else []

/-- A shading gang of the view that nothing outstanding names any more. -/
def State.shadeSpent (s : State) (v : View) (g : Gang) : Bool :=
  (match g.kind with
   | .shading i _ _ => i == v.id
   | _ => false) &&
  g.life == .ended && !s.fl.ops.any (fun o => o.gang == g.id) && !s.fl.views.any (fun x => x.gang == g.id) &&
  !s.fl.copies.any (fun x => x.gang == g.id) && !s.fl.ctxs.any (fun x => x.ops.any (fun o => o.gang == g.id))

/-- The view's ended shading gangs leave, with their blocks and launches. -/
def State.sweepShades (s : State) (v : View) : State :=
  let gone := s.gangs.filter (s.shadeSpent v)
  let blks := gone.map (·.block)
  let lns := (s.blocks.filter (fun b => blks.contains b.id)).map (·.launch)
  { s with gangs := s.gangs.filter (fun g => !s.shadeSpent v g)
           blocks := s.blocks.filter (fun b => !blks.contains b.id)
           launches := s.launches.filter (fun l => !lns.contains l.id) }

/-- The tile, the status word, the token and the slot in one event (R285). -/
def State.deliverView (s : State) (v : View) : State :=
  let s1 := v.tile.foldl (fun s p => s.deliver v.gang v.at_ 64 .d p.1 p.2.1 (BitVec.ofNat 64 p.2.2)) s
  let put := fun (g : Gang) =>
    { g with viewStatus := mapSet g.viewStatus v.token (viewStatus v (mapGet g.viewStatus v.token))
             pendTraps := g.pendTraps ++ v.fault (g.agentLive v.slice) }
  let s2 := match s1.gang? v.gang with
    | some g => { s1 with gangs := mapWhere (twinOf v.gang g) put s1.gangs }
    | none => s1
  let s3 := ((s2.endToken v.gang v.at_).dropView v.id).acquire v.wing 3
  ((if v.refused then s3 else s3.seatNext v.launch v.level v.wing).sweepShades v).trimNests

def execViewDelivery (view : Nat) (s : State) : StepOut :=
  event ((s.view? view).bind (fun v => (s.viewDone v).map (fun w => (s.viewLost v (if v.refused then s.viewGone v else none)).deliverView w)))

end Sys2Proof.Machine
end

