-- ==== Sys2Proof/Machine/Agenda.lean ====
section
/-!
DEFINITION. Machine/Agenda.lean: what the package may do next of itself: the events that are due, those that may
happen at any time, and the turn of the easels (95; 04 R80, 11 R244, R248, R259, R265, 17 R318, 18 R336).
-/

namespace Sys2Proof.Machine

/-! ### What is noticed as time passes -/

/-- The block is starved from now on, or no longer (R244). -/
def State.noteStarved (s : State) (b : Block) : Block :=
  { b with starvedSince := if s.starved b then some (b.starvedSince.getD s.pkg.clock) else none }

/-- The launch is the head of its level and fits nowhere, from now on or no longer (R259). -/
def State.noteWaiting (s : State) (l : Launch) : Launch :=
  { l with waiting := if l.waits && s.isHead l && !s.fitsNow l then some (l.waiting.getD s.pkg.nano) else none }

/-- The parks of gangs without a live lane are over: a shading gang whose trap has escalated may have left some (R46, R291). -/
def State.dropDeadParks (s : State) : State :=
  (s.fl.parks.map (·.gang)).foldl (fun s i => if (s.gang? i).any (fun g => g.live == 0) then s.dropParks i else s) s

/-- At the start of a cycle: what the engines see of their sources, starved blocks, waiting launches, and what is left of ended
blocks. -/
def State.tidy (s : State) : State :=
  if s.turn = 0 then
    let t := s.dropDeadParks.glance.sweep.decideDue
    { t with blocks := t.blocks.map t.noteStarved, launches := t.launches.map t.noteWaiting }
  else s

/-! ### Events that are due -/

/-- The agents of a block that a starved state traps (R244). -/
def State.starvedAgents (s : State) (b : Block) : List Instr :=
  ((s.gangsOf b.id).filter (fun g => match g.kind with
    | .shadow _ => false
    | _ => true)).flatMap (fun g => g.runners.map (fun sl => Instr.barStarved g.id sl))

/-- Some of the runs, of generic addresses, lie in the scratchpad. -/
def anyBanked (l : List (Nat × Nat)) : Bool := l.any (fun r => r.2 != 0 && (match spaceOf r.1 with
  | .scratch _ => true
  | _ => false))

/-- A copy uses the scratchpad: its source, its destination or its barrier lies there (R195, R196). -/
def Copy.banked (c : Copy) : Bool := anyBanked (c.runs.flatMap (fun r => [(r.1, r.2.2), (r.2.1, r.2.2)])) || c.barrier.isSome

/-- A stream operation uses the scratchpad: its descriptor, or what one of the descriptor's addresses names, lies there (R201, R202). -/
def State.streamBanked (s : State) (o : StreamOp) : Bool :=
  let e := s.seat o.block o.gang o.id false
  anyBanked ((o.desc, 1) :: [0, 8, 16, 24].map (fun k => (s.descWord e o.desc k, 1)))

/-- Nothing else uses the scratchpad of an operation's cluster (R180). -/
def State.alone (s : State) (o : MemOp) : Bool :=
  let at_ := fun (b : Nat) => (s.block? b).map (·.cluster)
  let cl := fun (g : Nat) => (s.gang? g).bind (fun g => at_ g.block)
  let mine := cl o.gang
  s.fl.ops.all (fun p => p.id == o.id || cl p.gang != mine || !p.elts.any (·.place.inBank)) &&
  s.fl.copies.all (fun c => some c.cluster != mine || !c.banked) &&
  s.fl.jobs.all (fun j => some j.cluster != mine || !anyBanked (j.reads ++ j.writes)) &&
  s.fl.ctxs.all (fun x => x.ops.all (fun p => p.done || at_ p.block != mine || !s.streamBanked p))

/-- Scratchpad loads that return in this cycle (R180). -/
def State.bankEvents (s : State) : List Instr :=
  s.fl.ops.flatMap (fun o => if o.isRead && o.elts.all (·.place.inBank) && decide (o.returnsAt ≤ s.pkg.clock) && s.alone o then
    o.elts.map (fun e => Instr.loadSectorArrival o.id e.lane) else [])

/-- Each node of each graph. -/
def State.heatEvents (s : State) : List Instr :=
  s.graphs.flatMap (fun (g : Graph) => (List.range g.nodes.length).map (fun n => Instr.heatTimeout g.id n))

/-- A poisoned code word that an agent is fetching. -/
def State.codeEvents (s : State) : List Instr :=
  s.errs.poison.filterMap (fun e => match e with
    | .code g sl => some (Instr.codeFetchArrival g sl true)
    | _ => none)

/-- Signatures of a twin to be compared. -/
def State.twinEvents (s : State) : List Instr :=
  s.gangs.flatMap (fun g => g.twin.map (fun t => Instr.twinStoreCompare g.id t.slice))

/-- Events that happen at a time of their own: what is enabled of these comes first. -/
def State.due (s : State) : List Instr :=
  s.gangs.map (fun g => Instr.resultWriteback g.id) ++ s.heatEvents ++ s.blocks.map (fun b => Instr.drainTimeout b.id) ++
  s.launches.map (fun l => Instr.headOfLevelTimeout l.id) ++ [Instr.irqWindow] ++ s.codeEvents ++ s.twinEvents ++ s.bankEvents ++
  (s.blocks.filter (fun b => b.starvedSince.any (fun t => decide (t + 4096 ≤ s.pkg.clock)))).flatMap s.starvedAgents

/-! ### Events that may happen -/

/-- The memory system. -/
def State.memEvents (s : State) : List Instr :=
  s.fl.ops.flatMap (fun o => o.elts.map (fun e => match o.kind with
    | .load _ => Instr.loadSectorArrival o.id e.lane
    | .store => Instr.storePerformed o.id e.lane
    | .atomic _ _ => Instr.atomicPerform o.id e.lane)) ++
  s.fl.writes.map (fun w => Instr.storePerformed w.id w.lane) ++ s.fl.specials.map (fun o => Instr.specialFunctionDelivery o.id) ++
  s.fl.fences.map (fun f => Instr.fenceComplete f.id) ++ s.fl.cctls.map (fun c => Instr.cctlComplete c.id) ++
  s.fl.parks.map (fun p => Instr.parkReplay p.id)

/-- The engines and sketch units. -/
def State.engineEvents (s : State) : List Instr :=
  s.fl.copies.map (fun c => Instr.copyComplete c.id) ++
  s.fl.ctxs.flatMap (fun x => x.ops.map (fun o => Instr.streamOpComplete x.wing x.ctx o.num)) ++
  s.fl.jobs.flatMap (fun j => [Instr.matrixEntryComplete j.id, Instr.acrdDelivery j.id, Instr.miterUnit j.id]) ++
  (s.fl.views.map (·.wing)).eraseDups.map (fun w => Instr.sketchTurn w) ++
  s.fl.views.flatMap (fun v => [Instr.shadingGangStart v.id, Instr.viewDelivery v.id])

/-- The ready pool, the partitions and the firmware complex. -/
def State.poolEvents (s : State) : List Instr :=
  (List.range 16).flatMap (fun p => (List.range 16).map (fun q => Instr.submissionEntryRead p q)) ++
  s.launches.map (fun l => Instr.blockPlacement l.id) ++ s.blocks.flatMap (fun b => [Instr.blockEnd b.id, Instr.blockSaved b.id]) ++
  s.blocks.flatMap s.starvedAgents ++ s.mem.scrubs.map (fun k => Instr.backgroundScrubEnd k) ++
  (List.range 16).map (fun p => Instr.partitionResetEnd p) ++ s.pkg.links.map (fun l => Instr.retrainComplete l.link) ++
  s.mem.pages.filterMap (fun p => p.moving.map (fun a => Instr.pageMigration p.part p.spec.vbase a)) ++ [Instr.firmwareRestartDone]

/-- Events that happen at no fixed time, of which what is enabled may come next. -/
def State.agenda (s : State) : List Instr := s.memEvents ++ s.engineEvents ++ s.poolEvents

/-- The turn of the easel: the row of the table whose event it is. -/
def State.turnEvent (s : State) : Instr :=
  match (s.opened s.turn).swap s.turn with
  | some (.promotion, _) => .gangPromotion s.turn
  | some (.limit, _) => .residencyLimit s.turn
  | _ => .easelCycle s.turn

/-- What happens next, of events that `ok` says are enabled: one that is due, else a free choice between the easel's turn
and what may happen (log 3). With the choice, the state in which it happens. -/
def State.chooseNext (s : State) (ok : Instr → Bool) : Instr × State :=
  match s.due.find? ok with
  | some i => (i, s)
  | none =>
    match s.agenda.filter ok with
    | [] => (s.tidy.turnEvent, s.tidy)
    | l =>
      let n := s.choose (l.length + 1)
      match l[n.1]? with
      | some i => (i, n.2)
      | none => (n.2.tidy.turnEvent, n.2.tidy)

/-- The agent that was to issue can no longer: the cycle of its easel passes (R67, R252). -/
def State.missed (s : State) (aid : AgentId) : State :=
  let e := match s.gang? aid.gang with
    | some g => g.easel
    | none => s.turn
  ({ s with issuing := none }).endTurn e 13

end Sys2Proof.Machine
end

