-- ==== Sys2Proof/Machine/Asy.lean ====
section
/-!
DEFINITION. Machine/Asy.lean: the ASY instructions (11 R263 to R266, 12 R283 to R295).
-/

namespace Sys2Proof.Machine

/-! ### VIEW, VIEWL (R283, R284, R294, R295) -/

/-- The ADDRESS cause of a camera or a cut (R284). -/
def viewCause (a : Nat) : Nat :=
  match spaceOf a with
  | .global _ => 0
  | .nowhere => 1
  | _ => 3

/-- The lanes for which a view reads addresses. -/
def Ctx.viewLanes (c : Ctx) (perLane : Bool) : List Nat := if perLane then lanesOf c.exec else [c.low]

/-- The checks of R284: the trap of the first condition that a lane meets; TRAPADDR is the lowest such lane's camera, or else its cut
(log 114). -/
def Ctx.viewCheck (c : Ctx) (s : State) (perLane : Bool) : Option Res :=
  let l := c.viewLanes perLane
  let cam := fun (x : Nat) => (c.A x).toNat
  let cut := fun (x : Nat) => (c.B x).toNat
  let raise := fun (code : Nat) (bad : List Nat) (camBad : Nat → Bool) (aux : Nat → Nat) => match bad with
    | [] => none
    | x :: _ =>
      let a := if camBad x then cam x else cut x
      some (c.raiseAt s code (if perLane then maskOf bad else c.exec) a (aux a))
  match raise 0x0B (l.filter (fun x => viewCause (cam x) != 0 || viewCause (cut x) != 0))
      (fun x => viewCause (cam x) != 0) viewCause with
  | some t => some t
  | none => raise 0x0E (l.filter (fun x => cam x % 128 != 0 || cut x % 256 != 0)) (fun x => cam x % 128 != 0) (fun _ => 0)

/-- The view that the instruction requests. A twin's 64 cycles count from the primary's issue (R297; log 115). -/
def Ctx.newView (c : Ctx) (s : State) (perLane : Bool) (id : Nat) : View :=
  { id := id, gang := c.g.id, slice := c.aid.slice, block := c.g.block, launch := s.rootLaunch c.g, wing := c.wing
    level := c.g.nest + 1, perLane := perLane, kind := viewKind c.f, res := viewRes c.f, dest := c.f.d.toNat
    token := tokOf c.f, lanes := c.exec, pc := c.pc, at_ := c.tag, issued := c.now
    refused := decide (c.hdr.nestlim ≤ c.g.nest), admitted := none
    srcs := (c.viewLanes perLane).map (fun x =>
      ⟨if perLane then x else 0, (c.A x).toNat, (c.B x).toNat, none, none, false, false, false⟩)
    shade := none, rays := [], pixels := [], toStart := [], running := 0, prepared := false, shadeFail := false
    served := 0 }

/-- VIEW and VIEWL from their checks to their admission, refusal or parking (R284, R294, R295). -/
def Ctx.viewIssue (c : Ctx) (s : State) (perLane : Bool) : Res :=
  if !c.any then .done s
  else match c.viewCheck s perLane with
  | some t => t
  | none =>
    let n := s.newId
    let v := c.newView s perLane n.1
    let s1 := n.2.modGang c.g.id (fun g => g.track c (tokOf c.f) 2000 (c.e.written c.f) 0xFFFFFFFF)
    let s2 := { s1 with fl := { s1.fl with views := s1.fl.views ++ [v] } }
    let s3 := if v.kind = 3 then c.markSe s2 else s2
    if v.refused then .done s3
    else if s3.slotFree v.launch v.level v.wing then .done (s3.letIn v.id)
    else .done (s3.modGang c.g.id (fun g => g.modAgent c.aid.slice (fun x => { x with hold := .view v.id })))

def viewBody (perLane : Bool) : Body :=
  { outward := true, ghost := true, run := fun (c : Ctx) s => c.gated s (fun s => c.viewIssue s perLane) }

def execView (f : Fields) (s : State) : StepOut := issueOp 4 0x01 f (viewBody false) s
def execViewl (f : Fields) (s : State) : StepOut := issueOp 4 0x02 f (viewBody true) s

/-! ### VSTAT (R288) -/

def execVstat (f : Fields) (s : State) : StepOut :=
  issueOp 4 0x03 f
    { outside := true
      run := fun (c : Ctx) s =>
        let j := modF f 2 0
        let s1 := c.putQ s .q f.d.toNat (mapGet c.g.viewStatus j)
        .done (if modBit f 3 && c.any then s1.modGang c.g.id (fun g => { g with viewStatus := mapSet g.viewStatus j 0 })
               else s1) } s

/-! ### NDALLOC (R263) -/

/-- The pool of the block's node; none without a node or without a pool. -/
def Ctx.pool (c : Ctx) (s : State) : Option ((Nat × Nat) × Node) :=
  (s.nodeOf c.g).bind (fun n => (s.node? n).bind (fun nd => if nd.poolBase = 0 then none else some (n, nd)))

def execNdalloc (f : Fields) (s : State) : StepOut :=
  issueOp 4 0x10 f
    { outward := true, ghost := true
      met := fun (c : Ctx) s => match c.pool s with
        | some p => State.serveGrants p.1 p.2.grants.length s
        | none => s
      late := fun (c : Ctx) s => match c.pool s with
        | some p => decide (p.2.pooln < (lanesOf c.exec).length)
        | none => false
      run := fun (c : Ctx) s =>
        if !c.any then .done s
        else match c.pool s with
        | none => c.raiseAt s 0x0D c.exec 0 0
        | some p =>
          let q : Grant :=
            { gang := c.g.id, slice := c.aid.slice, lanes := c.exec, dest := f.d.toNat, token := tokOf f, op := c.tag }
          let s1 := (s.modGang c.g.id (fun g => g.track c (tokOf f) 64 [(.d, f.d.toNat)] c.exec)).modNodeAt p.1 (fun nd =>
            { nd with grants := nd.grants ++ [q] })
          let s2 := if (s.shadowOf c.g.id).isSome then s1 else State.serveGrants p.1 (p.2.grants.length + 1) s1
          if (s2.node? p.1).any (fun nd => nd.grants.contains q) then
            .done (s2.modGang c.g.id (fun g => g.modAgent c.aid.slice (fun x => { x with hold := .pool c.tag })))
          else .done s2 } s

/-! ### NDEMIT, NDDONE, NDLAUNCH (R264, R266) -/

/-- The consumer of an edge of the block's node; none for 0xFFFF or without a node. -/
def Ctx.consumer (c : Ctx) (s : State) (edge : Nat) : Option (Nat × Nat) :=
  (s.nodeOf c.g).bind (fun n => (s.node? n).bind (fun nd =>
    let e := nd.edges.getD edge 0xFFFF
    if e = 0xFFFF then none else some (n.1, e)))

/-- The executing lanes whose record does not stand as `ok` says, or that a lower executing lane names too. -/
def Ctx.badRecs (c : Ctx) (ok : Nat → Bool) : List Nat :=
  let l := lanesOf c.exec
  l.filter (fun x => !ok (c.A x).toNat || l.any (fun y => decide (y < x) && (c.A y).toNat == (c.A x).toNat))

/-- A record of the graph stands so in one of its pools. -/
def State.recIs (s : State) (gr a : Nat) (p : RecState → Bool) : Bool :=
  match s.graph? gr with
  | some g => g.nodes.any (fun n => p (n.recAt a))
  | none => false

def execNdemit (f : Fields) (s : State) : StepOut :=
  issueOp 4 0x11 f
    { outward := true, ghost := true
      run := fun (c : Ctx) s => c.gated s (fun s =>
        let edge := modF f 2 0
        if !c.any then .done s
        else match c.consumer s edge with
        | none => c.raiseAt s 0x0D c.exec 0 edge
        | some n =>
          match c.badRecs (fun a => s.recIs n.1 a (· == .allocated c.g.block)) with
          | x :: t => c.raiseAt s 0x0D (maskOf (x :: t)) 0 edge
          | [] => c.releasing s 4 (fun s =>
            let recs := (lanesOf c.exec).map (fun l => (c.A l).toNat)
            .done ((c.markSe s).emitRecs c.g.block n recs))) } s

def execNddone (f : Fields) (s : State) : StepOut :=
  issueOp 4 0x12 f
    { outward := true, ghost := true
      run := fun (c : Ctx) s =>
        if !c.any then .done s
        else match s.nodeOf c.g with
        | none => c.raiseAt s 0x0D c.exec 0 0
        | some n =>
          match c.badRecs (fun a => s.recIs n.1 a (RecState.heldBy c.g.block)) with
          | x :: t => c.raiseAt s 0x0D (maskOf (x :: t)) 0 0
          | [] => .done ((c.markSe s).returnRecs n.1 (fun a r => (lanesOf c.exec).any (fun l => (c.A l).toNat == a) && r.heldBy c.g.block)) } s

/-- The consumer's open heat launches, when it still may (R258, R266). -/
def State.launchNow (s : State) (g : Graph) (n : Nat × Nat) : State :=
  if g.doomed n.2 then s else s.launchHeat n.1 n.2

def execNdlaunch (f : Fields) (s : State) : StepOut :=
  issueOp 4 0x13 f
    { outward := true, ghost := true
      run := fun (c : Ctx) s =>
        if !c.any then .done s
        else match c.consumer s (modF f 2 0) with
        | none => c.raiseAt s 0x0D c.exec 0 (modF f 2 0)
        | some n =>
          match s.graph? n.1 with
          | some g => .done ((c.markSe s).launchNow g n)
          | none => .done s } s

end Sys2Proof.Machine
end

