-- ==== Sys2Proof/Machine/Cross.lean ====
section
/-!
DEFINITION. Machine/Cross.lean: the cross-lane instructions (06 R128 to R134). Their participating set is the
executing lanes of the agent.
-/

namespace Sys2Proof.Machine

/-- The source lane that LXCH names (R129); none when it is outside 0 to 31. -/
def lxchSource (mode lane v : Nat) : Option Nat :=
  match mode with
  | 0 => some (v % 32)
  | 1 => if v ≤ lane then some (lane - v) else none
  | 2 => if lane + v < 32 then some (lane + v) else none
  | _ => some (lane ^^^ (v % 32))

/-- The dead lanes that the agent sees: a lane of another slice counts as inactive (R29, R129; log 42). -/
def Ctx.deadSeen (c : Ctx) : Mask :=
  match c.aid.slice with
  | none => c.g.dead
  | some i => c.g.dead &&& sliceLanes i

/-- LXCH's value and flag in a lane (R129). -/
def Ctx.exchange (c : Ctx) (lane : Nat) : Reg × Bool :=
  let own := (c.A lane, false)
  match lxchSource (fnOf c.f % 4) lane (elem 32 0 (c.B lane)) with
  | none => own
  | some t => if hasLane c.exec t then (c.A t, false)
              else if hasLane c.deadSeen t then (0, true)
              else own

/-- The lane exchange (R129). -/
def execLxch (f : Fields) (s : State) : StepOut :=
  issueOp 0 0x60 f
    { run := fun (c : Ctx) s =>
        .done (c.put (c.put s .d f.d.toNat (fun l => c.each l (fun k => elem c.w k (c.exchange l).1)))
          .p f.c.toNat (fun l => boolReg (c.exchange l).2)) } s

/-- The lanes in which POLL's predicate, inverted with NEG, is true (R130). -/
def Ctx.polled (c : Ctx) : Mask := maskWhere (fun l => hasLane c.exec l && ((c.A l != 0) != c.fnBit 2))

/-- POLL (R130). -/
def execPoll (f : Fields) (s : State) : StepOut :=
  issueOp 0 0x61 f
    { run := fun (c : Ctx) s =>
        let m := c.polled
        .done (match fnOf f % 4 with
          | 0 => c.put s .p f.d.toNat (fun _ => boolReg (decide (m = c.exec)))
          | 1 => c.put s .p f.d.toNat (fun _ => boolReg (decide (m ≠ 0)))
          | 2 => c.put s .p f.d.toNat (fun _ => boolReg (decide (m = c.exec ∨ m = 0)))
          | _ => c.put s .d f.d.toNat (fun _ => m.setWidth 64)) } s

/-- RFAL gives every lane the lowest lane's value (R131). -/
def execRfal (f : Fields) (s : State) : StepOut :=
  issueOp 0 0x62 f (vecD (fun (c : Ctx) l => c.each l (fun k => elem c.w k (c.A c.low)))) s

/-- Two keys are one for PEERS (R132). -/
def sameKey (w : Nat) (flt : Bool) (a b : Nat) : Bool :=
  if flt then
    match (fmtOfW w).decode a, (fmtOfW w).decode b with
    | .nan, .nan => true
    | x, y => x.cmp y == some .eq
  else a == b

/-- PEERS (R132). -/
def execPeers (f : Fields) (s : State) : StepOut :=
  issueOp 0 0x63 f (vecD (fun (c : Ctx) l =>
    let key := fun (m : Nat) => elem c.w c.form.key (c.A m)
    (maskWhere (fun m => hasLane c.exec m && sameKey c.w (c.fnBit 0) (key l) (key m))).setWidth 64)) s

/-- LFOLD's value of element `k` (R133). -/
def Ctx.folded (c : Ctx) (k : Nat) : Nat :=
  lfoldTree (fnOf c.f) c.w ((List.range 32).map (fun i =>
    if hasLane c.exec i then elem c.w k (c.A i) else foldId (fnOf c.f) c.w))

/-- The lane fold (R133). -/
def execLfold (f : Fields) (s : State) : StepOut :=
  issueOp 0 0x64 f (vecD (fun (c : Ctx) l => c.each l c.folded)) s

/-- SCAN's value of element `k` in a lane: the lanes before it, and its own unless exclusive (R134). -/
def Ctx.scanned (c : Ctx) (lane k : Nat) : Nat :=
  let upTo := (lanesOf c.exec).filter (fun i => decide (i < lane) || (i == lane && !modBit c.f 5))
  upTo.foldl (fun acc i => foldOp (fnOf c.f) c.w acc (elem c.w k (c.A i))) (foldId (fnOf c.f) c.w)

/-- SCAN (R134). -/
def execScan (f : Fields) (s : State) : StepOut :=
  issueOp 0 0x65 f (vecD (fun (c : Ctx) l => c.each l (c.scanned l))) s

end Sys2Proof.Machine
end

