-- ==== Sys2Proof/Machine/Sys.lean ====
section
/-!
DEFINITION. Machine/Sys.lean: the SYS instructions (18 R326 to R332).
-/

namespace Sys2Proof.Machine

/-- TRAP parks its agent with a call to the supervisor; the agent goes on behind it (R327). -/
def execTrap (f : Fields) (s : State) : StepOut :=
  issueOp 6 0x01 f
    { outward := true, ghost := true
      run := fun (c : Ctx) s =>
        if !c.any then .done s
        else .done ((c.markSe s).modGang c.g.id (fun g => g.modAgent c.aid.slice (fun x =>
          { x with hold := .call f.mod.toNat c.pc }))) } s

/-- BRK (R328). -/
def execBrk (f : Fields) (s : State) : StepOut :=
  issueOp 6 0x02 f
    { run := fun (c : Ctx) s => if c.any then c.raiseAt s 0x16 c.exec 0 f.mod.toNat else .done s } s

/-- SREAD (R42, R329). -/
def execSread (f : Fields) (s : State) : StepOut :=
  issueOp 6 0x03 f
    { outside := true
      run := fun (c : Ctx) s => .done (c.put s .d f.d.toNat (fun l => c.special s (modF f 7 0) l)) } s

/-- SWRITE sets AMAX; of CHECKMODE it raises PRIV (R316, R329). -/
def execSwrite (f : Fields) (s : State) : StepOut :=
  issueOp 6 0x04 f
    { run := fun (c : Ctx) s =>
        if modF f 7 0 = 0x20 then
          .done (s.modGang c.g.id (fun g => (lanesOf c.exec).foldl
            (fun g l => g.writeAmax c.now c.choice c.e.lat l (BitVec.ofNat 64 (amxset (c.A l)))) g))
        else if c.any then c.raise s 0x14 (modF f 7 0) else .done s } s

/-! ### The return from the handler (R330) -/

/-- A TRET that raises ILLEGAL_OP, cause 12: outside the handler, or with a stack that is not empty; a TRET.skip by the
handler's agent of a trap that names no word (R330). -/
def Ctx.badTret (c : Ctx) (skip : Bool) : Bool :=
  match c.g.trapState with
  | none => true
  | some ts =>
    !ts.has c.aid.slice ||
    (c.g.members c.aid.slice).any (fun i => match c.g.slice? i with
      | some x => x.deferred != [] || x.loops != [] || x.calls != []
      | none => false) || (skip && ts.wordless && (c.aid.slice.isNone || decide ((c.g.handlerSlices ts).length ≤ 1)))

/-- What the issue of a TRET leaves before the trap state returns (R66, R350). -/
def Ctx.tretIssue (c : Ctx) (h : Hold) (cedes : Bool) (g : Gang) : Gang :=
  { (g.modAgent c.aid.slice (fun x =>
      { x with hold := h, earliest := c.now + c.f.stall.toNat + 1 })) with
    signature := c.signature false g.signature, lastIssue := c.now, readySince := none, cede := g.cede || cedes }

/-- TRET ends the handler once every live slice of its agent waits at one (R330). A whole agent's slices all do. -/
def Ctx.tret (c : Ctx) (s : State) (skip : Bool) : Res :=
  let h : Hold := .tret skip
  let s1 := (s.modGang c.g.id (c.tretIssue h (c.cedes s))).trets c.g.id
  match (s1.gang? c.g.id).bind (fun g => g.trapState) with
  | some _ => if (c.g.members c.aid.slice).all (fun i => match (s1.gang? c.g.id).bind (fun g => g.slice? i) with
        | some x => x.hold == h
        | none => true)
      then .hold (s.modGang c.g.id (fun g => g.modAgent c.aid.slice (fun x => { x with hold := h }))) h
      else .gone s1
  | none => .own s1

def tretBody (skip : Bool) : Body :=
  { late := fun (c : Ctx) _ => c.badTret skip, run := fun (c : Ctx) s => c.tret s skip }

def execTret (f : Fields) (s : State) : StepOut := issueOp 6 0x05 f (tretBody false) s
def execTretSkip (f : Fields) (s : State) : StepOut := issueOp 6 0x05 f (tretBody true) s

/-! ### CHKPT, DEADRD (R331, R332) -/

/-- CHKPT is a FENCE.rel.d that clears SE when it completes (R331). -/
def execChkpt (f : Fields) (s : State) : StepOut :=
  issueOp 6 0x06 f
    { ghost := true
      run := fun (c : Ctx) s => c.gated s (fun s => .done (if c.any then c.beginFence s 1 4 true else s)) } s

/-- DEADRD (R332). -/
def execDeadrd (f : Fields) (s : State) : StepOut :=
  issueOp 6 0x07 f
    { outside := true
      run := fun (c : Ctx) s =>
        let v := c.g.dead.setWidth 64 ||| (c.g.newDead.setWidth 64 <<< 32)
        let s1 := c.put s .d f.d.toNat (fun _ => v)
        .done (if modBit f 0 && c.any then s1.modGang c.g.id (fun g => { g with newDead := 0 }) else s1) } s

end Sys2Proof.Machine
end

