-- ==== Sys2Proof/Machine/Uni.lean ====
section
/-!
DEFINITION. Machine/Uni.lean: the UNI instructions (06 R135 to R138). An agent computes once, when its guard
holds in some active lane. ULD stands with the loads in MemInstr.lean.
-/

namespace Sys2Proof.Machine

/-- An instruction whose only effect is qD, once for the agent (R135). -/
def uniQ (v : Ctx → Reg) : Body :=
  { run := fun (c : Ctx) (s : State) => .done (c.putQ s .q c.f.d.toNat (v c)) }

/-- An elementwise UNI instruction (R136). -/
def uniEach (op : Ctx → Nat → Nat → Nat → Nat) : Body :=
  uniQ (fun (c : Ctx) => packW c.w (fun k => op c (elem c.w k (c.A 0)) (elem c.w k (c.Bi 0)) (elem c.w k (c.C 0))))

def uniInt (op : IntOp) : Body := uniEach (fun (c : Ctx) => intOp op c.w (c.fnBit 0) c.f.sat)
def uniLogic (op : LogicOp) : Body := uniQ (fun (c : Ctx) => logic op (c.A 0) (c.Bi 0))
def uniShift (op : ShiftOp) : Body := uniEach (fun (c : Ctx) a b _ => shift op c.w a b)

def execUadd (f : Fields) (s : State) : StepOut := issueOp 1 0x01 f (uniInt .add) s
def execUsub (f : Fields) (s : State) : StepOut := issueOp 1 0x02 f (uniInt .sub) s
def execUmul (f : Fields) (s : State) : StepOut := issueOp 1 0x03 f (uniInt .mul) s
def execUmulh (f : Fields) (s : State) : StepOut := issueOp 1 0x04 f (uniInt .mulh) s
def execUmad (f : Fields) (s : State) : StepOut := issueOp 1 0x05 f (uniInt .mad) s
def execUmin (f : Fields) (s : State) : StepOut := issueOp 1 0x06 f (uniInt .min) s
def execUmax (f : Fields) (s : State) : StepOut := issueOp 1 0x07 f (uniInt .max) s
def execUand (f : Fields) (s : State) : StepOut := issueOp 1 0x10 f (uniLogic .and) s
def execUor (f : Fields) (s : State) : StepOut := issueOp 1 0x11 f (uniLogic .or) s
def execUxor (f : Fields) (s : State) : StepOut := issueOp 1 0x12 f (uniLogic .xor) s
def execUshl (f : Fields) (s : State) : StepOut := issueOp 1 0x13 f (uniShift .shl) s
def execUshr (f : Fields) (s : State) : StepOut := issueOp 1 0x14 f (uniShift .shr) s
def execUsar (f : Fields) (s : State) : StepOut := issueOp 1 0x15 f (uniShift .sar) s
def execUmov (f : Fields) (s : State) : StepOut := issueOp 1 0x20 f (uniQ (fun (c : Ctx) => c.A 0)) s
def execUmovi (f : Fields) (s : State) : StepOut := issueOp 1 0x21 f (uniQ (fun (c : Ctx) => moviVal c.w f (c.D 0))) s

/-- USEL chooses by qC (R136). -/
def execUsel (f : Fields) (s : State) : StepOut :=
  issueOp 1 0x22 f (uniQ (fun (c : Ctx) => if c.C 0 != 0 then c.A 0 else c.B 0)) s

/-- UCMP gives 1 or 0 (R136). -/
def execUcmp (f : Fields) (s : State) : StepOut :=
  issueOp 1 0x23 f (uniQ (fun (c : Ctx) =>
    boolReg (icmp (fnOf f % 8) c.w (c.fnBit 3) (elem c.w 0 (c.A 0)) (elem c.w 0 (c.Bi 0))))) s

/-- USREAD reads a special register (R138). -/
def execUsread (f : Fields) (s : State) : StepOut :=
  issueOp 1 0x31 f
    { outside := modF f 7 0 == 0x18 || modF f 7 0 == 0x19
      run := fun (c : Ctx) s => .done (c.putQ s .q f.d.toNat (c.special s (modF f 7 0) 0)) } s

end Sys2Proof.Machine
end

