-- ==== Sys2Proof/Machine/Dispatch.lean ====
section
/-!
DEFINITION. Machine/Dispatch.lean: the meaning of each step of the table, one arm a constructor.
-/

namespace Sys2Proof.Machine

def exec (i : Instr) (s : State) : Host.Outcome State Fault Refusal :=
  match i with
  | .nop cls f => Sys2Proof.Machine.execNop cls f s
  | .iadd f => Sys2Proof.Machine.execIadd f s
  | .isub f => Sys2Proof.Machine.execIsub f s
  | .imul f => Sys2Proof.Machine.execImul f s
  | .imulh f => Sys2Proof.Machine.execImulh f s
  | .imad f => Sys2Proof.Machine.execImad f s
  | .iaddc f => Sys2Proof.Machine.execIaddc f s
  | .imin f => Sys2Proof.Machine.execImin f s
  | .imax f => Sys2Proof.Machine.execImax f s
  | .iabs f => Sys2Proof.Machine.execIabs f s
  | .ineg f => Sys2Proof.Machine.execIneg f s
  | .idot4 f => Sys2Proof.Machine.execIdot4 f s
  | .icmp f => Sys2Proof.Machine.execIcmp f s
  | .and f => Sys2Proof.Machine.execAnd f s
  | .or f => Sys2Proof.Machine.execOr f s
  | .xor f => Sys2Proof.Machine.execXor f s
  | .andn f => Sys2Proof.Machine.execAndn f s
  | .not f => Sys2Proof.Machine.execNot f s
  | .bitf f => Sys2Proof.Machine.execBitf f s
  | .shl f => Sys2Proof.Machine.execShl f s
  | .shr f => Sys2Proof.Machine.execShr f s
  | .sar f => Sys2Proof.Machine.execSar f s
  | .rol f => Sys2Proof.Machine.execRol f s
  | .clz f => Sys2Proof.Machine.execClz f s
  | .ffs f => Sys2Proof.Machine.execFfs f s
  | .popc f => Sys2Proof.Machine.execPopc f s
  | .brev f => Sys2Proof.Machine.execBrev f s
  | .bfx f => Sys2Proof.Machine.execBfx f s
  | .bfi f => Sys2Proof.Machine.execBfi f s
  | .fadd f => Sys2Proof.Machine.execFadd f s
  | .fsub f => Sys2Proof.Machine.execFsub f s
  | .fmul f => Sys2Proof.Machine.execFmul f s
  | .ffma f => Sys2Proof.Machine.execFfma f s
  | .fmin f => Sys2Proof.Machine.execFmin f s
  | .fmax f => Sys2Proof.Machine.execFmax f s
  | .fcmp f => Sys2Proof.Machine.execFcmp f s
  | .frnd f => Sys2Proof.Machine.execFrnd f s
  | .fclass f => Sys2Proof.Machine.execFclass f s
  | .fscale f => Sys2Proof.Machine.execFscale f s
  | .frcp f => Sys2Proof.Machine.execFrcp f s
  | .frsq f => Sys2Proof.Machine.execFrsq f s
  | .fsqrt f => Sys2Proof.Machine.execFsqrt f s
  | .fdiv f => Sys2Proof.Machine.execFdiv f s
  | .fexp2 f => Sys2Proof.Machine.execFexp2 f s
  | .flog2 f => Sys2Proof.Machine.execFlog2 f s
  | .fsinp f => Sys2Proof.Machine.execFsinp f s
  | .fcosp f => Sys2Proof.Machine.execFcosp f s
  | .ftanh f => Sys2Proof.Machine.execFtanh f s
  | .cvt f => Sys2Proof.Machine.execCvt f s
  | .cvtq f => Sys2Proof.Machine.execCvtq f s
  | .cvtd f => Sys2Proof.Machine.execCvtd f s
  | .amxrd f => Sys2Proof.Machine.execAmxrd f s
  | .amxset f => Sys2Proof.Machine.execAmxset f s
  | .pack f => Sys2Proof.Machine.execPack f s
  | .unpk f => Sys2Proof.Machine.execUnpk f s
  | .mov f => Sys2Proof.Machine.execMov f s
  | .movi f => Sys2Proof.Machine.execMovi f s
  | .sel f => Sys2Proof.Machine.execSel f s
  | .bpick f => Sys2Proof.Machine.execBpick f s
  | .movu f => Sys2Proof.Machine.execMovu f s
  | .pmov f => Sys2Proof.Machine.execPmov f s
  | .lxch f => Sys2Proof.Machine.execLxch f s
  | .poll f => Sys2Proof.Machine.execPoll f s
  | .rfal f => Sys2Proof.Machine.execRfal f s
  | .peers f => Sys2Proof.Machine.execPeers f s
  | .lfold f => Sys2Proof.Machine.execLfold f s
  | .scan f => Sys2Proof.Machine.execScan f s
  | .uadd f => Sys2Proof.Machine.execUadd f s
  | .usub f => Sys2Proof.Machine.execUsub f s
  | .umul f => Sys2Proof.Machine.execUmul f s
  | .umulh f => Sys2Proof.Machine.execUmulh f s
  | .umad f => Sys2Proof.Machine.execUmad f s
  | .umin f => Sys2Proof.Machine.execUmin f s
  | .umax f => Sys2Proof.Machine.execUmax f s
  | .uand f => Sys2Proof.Machine.execUand f s
  | .uor f => Sys2Proof.Machine.execUor f s
  | .uxor f => Sys2Proof.Machine.execUxor f s
  | .ushl f => Sys2Proof.Machine.execUshl f s
  | .ushr f => Sys2Proof.Machine.execUshr f s
  | .usar f => Sys2Proof.Machine.execUsar f s
  | .umov f => Sys2Proof.Machine.execUmov f s
  | .umovi f => Sys2Proof.Machine.execUmovi f s
  | .usel f => Sys2Proof.Machine.execUsel f s
  | .ucmp f => Sys2Proof.Machine.execUcmp f s
  | .uld f => Sys2Proof.Machine.execUld f s
  | .usread f => Sys2Proof.Machine.execUsread f s
  | .ld f => Sys2Proof.Machine.execLd f s
  | .st f => Sys2Proof.Machine.execSt f s
  | .atom f => Sys2Proof.Machine.execAtom f s
  | .red f => Sys2Proof.Machine.execRed f s
  | .fence f => Sys2Proof.Machine.execFence f s
  | .pref f => Sys2Proof.Machine.execPref f s
  | .cctl f => Sys2Proof.Machine.execCctl f s
  | .cpa f => Sys2Proof.Machine.execCpa f s
  | .cpt f => Sys2Proof.Machine.execCpt f s
  | .bseal f => Sys2Proof.Machine.execBseal f s
  | .bwait f => Sys2Proof.Machine.execBwait f s
  | .gath f => Sys2Proof.Machine.execGath f s
  | .coll f => Sys2Proof.Machine.execColl f s
  | .tlwait f => Sys2Proof.Machine.execTlwait f s
  | .tlrd f => Sys2Proof.Machine.execTlrd f s
  | .mma f => Sys2Proof.Machine.execMma f s
  | .mzero f => Sys2Proof.Machine.execMzero f s
  | .acld f => Sys2Proof.Machine.execAcld f s
  | .acst f => Sys2Proof.Machine.execAcst f s
  | .acrd f => Sys2Proof.Machine.execAcrd f s
  | .acwr f => Sys2Proof.Machine.execAcwr f s
  | .plane f => Sys2Proof.Machine.execPlane f s
  | .mcoef f => Sys2Proof.Machine.execMcoef f s
  | .mpoly f => Sys2Proof.Machine.execMpoly f s
  | .miter f => Sys2Proof.Machine.execMiter f s
  | .mnorm f => Sys2Proof.Machine.execMnorm f s
  | .mistat f => Sys2Proof.Machine.execMistat f s
  | .view f => Sys2Proof.Machine.execView f s
  | .viewl f => Sys2Proof.Machine.execViewl f s
  | .vstat f => Sys2Proof.Machine.execVstat f s
  | .ndalloc f => Sys2Proof.Machine.execNdalloc f s
  | .ndemit f => Sys2Proof.Machine.execNdemit f s
  | .nddone f => Sys2Proof.Machine.execNddone f s
  | .ndlaunch f => Sys2Proof.Machine.execNdlaunch f s
  | .bra f => Sys2Proof.Machine.execBra f s
  | .braGuarded f => Sys2Proof.Machine.execBraGuarded f s
  | .brx f => Sys2Proof.Machine.execBrx f s
  | .pad f => Sys2Proof.Machine.execPad f s
  | .call f => Sys2Proof.Machine.execCall f s
  | .callx f => Sys2Proof.Machine.execCallx f s
  | .ret f => Sys2Proof.Machine.execRet f s
  | .loop f => Sys2Proof.Machine.execLoop f s
  | .exit f => Sys2Proof.Machine.execExit f s
  | .regang f => Sys2Proof.Machine.execRegang f s
  | .yield f => Sys2Proof.Machine.execYield f s
  | .kwait f => Sys2Proof.Machine.execKwait f s
  | .barinit f => Sys2Proof.Machine.execBarinit f s
  | .bararv f => Sys2Proof.Machine.execBararv f s
  | .barwait f => Sys2Proof.Machine.execBarwait f s
  | .barxb f => Sys2Proof.Machine.execBarxb f s
  | .barsync f => Sys2Proof.Machine.execBarsync f s
  | .pace f => Sys2Proof.Machine.execPace f s
  | .pacerd f => Sys2Proof.Machine.execPacerd f s
  | .sigchk f => Sys2Proof.Machine.execSigchk f s
  | .trap f => Sys2Proof.Machine.execTrap f s
  | .brk f => Sys2Proof.Machine.execBrk f s
  | .sread f => Sys2Proof.Machine.execSread f s
  | .swrite f => Sys2Proof.Machine.execSwrite f s
  | .tret f => Sys2Proof.Machine.execTret f s
  | .tretSkip f => Sys2Proof.Machine.execTretSkip f s
  | .chkpt f => Sys2Proof.Machine.execChkpt f s
  | .deadrd f => Sys2Proof.Machine.execDeadrd f s
  | .packageReset b => Sys2Proof.Machine.execPackageReset b s
  | .powerLimitThrottle mhz => Sys2Proof.Machine.execPowerLimitThrottle mhz s
  | .clientPortReady => Sys2Proof.Machine.execClientPortReady s
  | .clientConfigRequest fn => Sys2Proof.Machine.execClientConfigRequest fn s
  | .clientLinkReset => Sys2Proof.Machine.execClientLinkReset s
  | .functionLevelReset fn => Sys2Proof.Machine.execFunctionLevelReset fn s
  | .backgroundScrubEnd key => Sys2Proof.Machine.execBackgroundScrubEnd key s
  | .partitionResetEnd part => Sys2Proof.Machine.execPartitionResetEnd part s
  | .doorbell part q tail => Sys2Proof.Machine.execDoorbell part q tail s
  | .submissionEntryRead part q => Sys2Proof.Machine.execSubmissionEntryRead part q s
  | .blockPlacement launch => Sys2Proof.Machine.execBlockPlacement launch s
  | .headOfLevelTimeout launch => Sys2Proof.Machine.execHeadOfLevelTimeout launch s
  | .blockEnd block => Sys2Proof.Machine.execBlockEnd block s
  | .heatTimeout graph node => Sys2Proof.Machine.execHeatTimeout graph node s
  | .easelCycle easel => Sys2Proof.Machine.execEaselCycle easel s
  | .gangPromotion easel => Sys2Proof.Machine.execGangPromotion easel s
  | .residencyLimit easel => Sys2Proof.Machine.execResidencyLimit easel s
  | .resultWriteback gang => Sys2Proof.Machine.execResultWriteback gang s
  | .barStarved gang sl => Sys2Proof.Machine.execBarStarved gang sl s
  | .loadSectorArrival op lane => Sys2Proof.Machine.execLoadSectorArrival op lane s
  | .storePerformed op lane => Sys2Proof.Machine.execStorePerformed op lane s
  | .atomicPerform op lane => Sys2Proof.Machine.execAtomicPerform op lane s
  | .specialFunctionDelivery op => Sys2Proof.Machine.execSpecialFunctionDelivery op s
  | .fenceComplete op => Sys2Proof.Machine.execFenceComplete op s
  | .copyComplete op => Sys2Proof.Machine.execCopyComplete op s
  | .streamOpComplete wing ctx num => Sys2Proof.Machine.execStreamOpComplete wing ctx num s
  | .matrixEntryComplete op => Sys2Proof.Machine.execMatrixEntryComplete op s
  | .acrdDelivery op => Sys2Proof.Machine.execAcrdDelivery op s
  | .miterUnit op => Sys2Proof.Machine.execMiterUnit op s
  | .sketchTurn wing => Sys2Proof.Machine.execSketchTurn wing s
  | .shadingGangStart view => Sys2Proof.Machine.execShadingGangStart view s
  | .viewDelivery view => Sys2Proof.Machine.execViewDelivery view s
  | .faultResolve park pages => Sys2Proof.Machine.execFaultResolve park pages s
  | .faultDecline park => Sys2Proof.Machine.execFaultDecline park s
  | .parkReplay park => Sys2Proof.Machine.execParkReplay park s
  | .pageMigration part vbase pbase => Sys2Proof.Machine.execPageMigration part vbase pbase s
  | .supervisorEndBlock block => Sys2Proof.Machine.execSupervisorEndBlock block s
  | .supervisorResume gang sl writes => Sys2Proof.Machine.execSupervisorResume gang sl writes s
  | .supervisorResumeSkip gang sl => Sys2Proof.Machine.execSupervisorResumeSkip gang sl s
  | .preemptAdaptive request => Sys2Proof.Machine.execPreemptAdaptive request s
  | .preemptSave request => Sys2Proof.Machine.execPreemptSave request s
  | .preemptFlush request => Sys2Proof.Machine.execPreemptFlush request s
  | .drainTimeout block => Sys2Proof.Machine.execDrainTimeout block s
  | .blockSaved block => Sys2Proof.Machine.execBlockSaved block s
  | .blockRestore addr cluster => Sys2Proof.Machine.execBlockRestore addr cluster s
  | .partitionTableWrite part word val => Sys2Proof.Machine.execPartitionTableWrite part word val s
  | .registerWrite w => Sys2Proof.Machine.execRegisterWrite w s
  | .msixUnmask part vector => Sys2Proof.Machine.execMsixUnmask part vector s
  | .irqWindow => Sys2Proof.Machine.execIrqWindow s
  | .mailboxMessage core msg => Sys2Proof.Machine.execMailboxMessage core msg s
  | .correctableError e => Sys2Proof.Machine.execCorrectableError e s
  | .uncorrectableError e => Sys2Proof.Machine.execUncorrectableError e s
  | .matrixEngineFail cluster => Sys2Proof.Machine.execMatrixEngineFail cluster s
  | .matrixRetest cluster pass => Sys2Proof.Machine.execMatrixRetest cluster pass s
  | .twinStoreCompare gang sl => Sys2Proof.Machine.execTwinStoreCompare gang sl s
  | .flitCrcFail link => Sys2Proof.Machine.execFlitCrcFail link s
  | .eyeMarginLow link => Sys2Proof.Machine.execEyeMarginLow link s
  | .symbolCountExceeded link => Sys2Proof.Machine.execSymbolCountExceeded link s
  | .retrainComplete link => Sys2Proof.Machine.execRetrainComplete link s
  | .retrainRequest link up => Sys2Proof.Machine.execRetrainRequest link up s
  | .signalLoss n => Sys2Proof.Machine.execSignalLoss n s
  | .quiesce planes => Sys2Proof.Machine.execQuiesce planes s
  | .rehashDrainDone gone => Sys2Proof.Machine.execRehashDrainDone gone s
  | .rehashResume => Sys2Proof.Machine.execRehashResume s
  | .getVersion => Sys2Proof.Machine.execGetVersion s
  | .getCapabilities ver => Sys2Proof.Machine.execGetCapabilities ver s
  | .negotiateAlgorithms ver alg => Sys2Proof.Machine.execNegotiateAlgorithms ver alg s
  | .getDigests => Sys2Proof.Machine.execGetDigests s
  | .getCertificate alg offset length => Sys2Proof.Machine.execGetCertificate alg offset length s
  | .challenge alg nonce => Sys2Proof.Machine.execChallenge alg nonce s
  | .getMeasurements alg index nonce => Sys2Proof.Machine.execGetMeasurements alg index nonce s
  | .spdmUnsupportedRequest code => Sys2Proof.Machine.execSpdmUnsupportedRequest code s
  | .requestFirmwareData component image ok => Sys2Proof.Machine.execRequestFirmwareData component image ok s
  | .activateFirmware component => Sys2Proof.Machine.execActivateFirmware component s
  | .getStatus => Sys2Proof.Machine.execGetStatus s
  | .cancelUpdate component => Sys2Proof.Machine.execCancelUpdate component s
  | .firmwareRestartDone => Sys2Proof.Machine.execFirmwareRestartDone s
  | .supervisorOsRestart => Sys2Proof.Machine.execSupervisorOsRestart s
  | .unassignedOpcode cls op f => Sys2Proof.Machine.execUnassignedOpcode cls op f s
  | .cctlComplete op => Sys2Proof.Machine.execCctlComplete op s
  | .codeFetchArrival gang sl poisoned => Sys2Proof.Machine.execCodeFetchArrival gang sl poisoned s
  | .queueReset part q => Sys2Proof.Machine.execQueueReset part q s
  | .savedContextDiscard addr => Sys2Proof.Machine.execSavedContextDiscard addr s
  | .powerRemoval => Sys2Proof.Machine.execPowerRemoval s
  | .clientLinkDown => Sys2Proof.Machine.execClientLinkDown s
  | .rootPortDeviceAccess device addr write bytes => Sys2Proof.Machine.execRootPortDeviceAccess device addr write bytes s

end Sys2Proof.Machine
end

