-- ==== Sys2Proof/Machine/Fetch.lean ====
section
/-!
DEFINITION. Machine/Fetch.lean: the instruction an agent is about to issue, from memory (04 R65 to R68), and the
load of a one-instruction program.
-/

namespace Sys2Proof.Machine

/-- The instruction at the point of the agent that holds the issue (R67, R68); none when a word is not there. -/
def State.fetch (s : State) (aid : AgentId) : Option Instr :=
  match s.gang? aid.gang with
  | none => none
  | some g =>
    match g.lead aid.slice, s.block? g.block with
    | some x, some b =>
      match s.code b.part x.point.pc with
      | none => none
      | some w =>
        match decodeWords (BitVec.ofNat 3 x.point.cls) w ((s.code b.part (x.point.pc + 4)).getD 0) with
        | .ok i => some i
        | .error _ => none
    | _, _ => none

/-! ### A program of one instruction -/

/-- The launch of a one-instruction program at address 0: a full window, 64 KB of code and scratchpad. -/
def probeHdr : LaunchHdr :=
  { entry := 0, trapvec := 0, codebase := 0, codesize := 65536, scratch := 65536, argbase := 0
    gridx := 1, gridy := 1, gridz := 1, spanco := 0, wingco := 0, nestlim := 0, check := false, idem := false
    twin := false, nomatrix := false, tiles := 8, regsCode := 6, nslices := 8, gangs := 1
    levels := [(0, 0), (0, 0), (0, 0)], expcyc := 0, paceallow := 0, stackb := 0 }

/-- The 64 KB page of that program, at local address 0 of the package, under key id 1. -/
def probePage (pkgid : Nat) : Page := ⟨0, ⟨0, 65536, pkgid * 2 ^ 48, true, true, true, 1⟩, none⟩

/-- A clause of one instruction in memory: its header, its word and the word after it. -/
def probeCells (m : Mem) (base : Nat) (cls : BitVec 3) (w e : Word) : Mem :=
  ((m.writeN 1 base 4 (headerWord cls (if w.getLsbD 28 then 2 else 1)).toNat).writeN 1 (base + 4) 4 w.toNat).writeN 1
    (base + 8) 4 e.toNat

/-- A gang of one block inside that clause, about to issue its word. -/
def probeGang (id blk : Nat) (cls : BitVec 3) (x : Bool) (now : Nat) : Gang :=
  let g := newGang id blk 0 0 .plain probeHdr 0 now
  let p : Point := ⟨4, true, cls.toNat, 0, if x then 12 else 8⟩
  { g with life := .active, slices := g.slices.map (fun s => { s with point := p }) }

/-- The state with a one-instruction program loaded and its gang chosen to issue. -/
def State.loadOne (s : State) (cls : BitVec 3) (w e : Word) : State :=
  let n := s.fresh
  let launch : Launch :=
    { id := n, hdrAddr := 0, hdr := probeHdr, part := 0, prio := 0, node := none, heat := none, next := 1, total := 1, again := []
      released := s.pkg.clock, waiting := none, wingHeld := none, blocksLeft := 1, nests := [] }
  { s with
    parts := s.parts.modify 0 (fun p => { p with keys := p.keys ||| 2 })
    mem := { (probeCells s.mem (s.pkg.pkgid * 2 ^ 48) cls w e) with pages := probePage s.pkg.pkgid :: s.mem.pages }
    launches := launch :: s.launches
    blocks := newBlock (n + 1) n 0 0 0 0 s.pkg.clock :: s.blocks
    gangs := probeGang (n + 2) (n + 1) cls (w.getLsbD 28) s.pkg.clock :: s.gangs
    fresh := n + 3, issuing := some ⟨n + 2, none⟩, inputs := [] }

end Sys2Proof.Machine
end

