-- ==== Sys2Proof/Machine/Step.lean ====
section
/-!
DEFINITION. Machine/Step.lean: one step of the machine: the instruction of the agent that has been chosen to issue,
else an event from outside if one has come, else what the package does next of itself.
-/

namespace Sys2Proof.Machine

/-- The event is enabled: it answers a next state. -/
def enabled (s : State) (i : Instr) : Bool :=
  match exec i s with
  | .next _ => true
  | _ => false

/-- One step. Without power, or once the start-up has halted, nothing happens but what comes from outside (R22, R24). -/
def step (s : State) : Host.Outcome State Fault Refusal :=
  match s.issuing with
  | some aid =>
    match s.fetch aid with
    | some i => exec i s
    | none => .next (s.missed aid)
  | none =>
    match s.inputs with
    | i :: rest => exec i { s with inputs := rest }
    | [] =>
      if s.pkg.live then
        let n := s.chooseNext (enabled s)
        exec n.1 n.2
      else .next s

/-- The state in which the next step fetches and runs one instruction word of the table: a program of that
instruction is loaded, and its gang holds the issue (log 1, log 5). -/
def State.withFetchWord (s : State) (nbits w : Nat) : State :=
  let p := tableWords nbits w
  s.loadOne (tableClass p.1 p.2) p.1 p.2

end Sys2Proof.Machine
end

