-- ==== Sys2Proof/Safety.lean ====
section
/-!
DEFINITION. Safety.lean: what a safe run is: no step of it ends in a fault or a refusal; and what it is that a change of
the state leaves alone.
-/

namespace Sys2Proof

/-- `k` steps from a state all answer a next state. -/
def runsSafely : Nat → Machine.State → Prop
  | 0, _ => True
  | k + 1, s => ∃ t, Machine.step s = .next t ∧ runsSafely k t

/-- The state is safe: every number of steps from it is. -/
def safe (s : Machine.State) : Prop := ∀ k, runsSafely k s

namespace Machine

/-- Of a gang, beside its register files and trap registers: the number of its slices, its token counters, stacks,
view status, dead masks, side-effect bit and sealed batches. -/
def Gang.rest (g : Gang) : Nat × List Nat × SMap 8 × SMap 64 × Mask × Mask × Bool × Nat :=
  (g.nslices, g.k, g.stack, g.viewStatus, g.dead, g.newDead, g.se, g.sealedN)

/-- What a block stores: scratchpad bytes and tiles. -/
def Block.store (b : Block) : SMap 8 × SMap 64 := (b.scratch, b.tiles)

/-- From `s` to `t`, no register changes but those that `W` allows, by gang, file, index and lane; no byte of global
memory, of a stack or of a scratchpad, no tile, no token counter; the trap registers only as a trap of a code in `T` writes them.
Gangs and blocks may come, none goes. -/
structure Frame (W : Nat → RFile → Nat → Nat → Prop) (T : Nat → Prop) (s t : State) : Prop where
  gangs : ∀ i g, s.gang? i = some g → ∃ h, t.gang? i = some h ∧ h.rest = g.rest ∧
    (h.regs = g.regs ∨ ∃ tr : Trap, T tr.code ∧ h.regs = g.regs.take tr) ∧
    ∀ r x l, l < 32 → ¬W i r x l → h.getR r x l = g.getR r x l
  blocks : ∀ i b, s.block? i = some b → ∃ d, t.block? i = some d ∧ d.store = b.store
  mem : t.mem = s.mem

/-! ### An instruction that nothing stands before -/

/-- `c` is what the agent that holds the issue sees of an instruction of class `cls`, opcode `op` and fields `f`. -/
def Sees (s : State) (cls op : Nat) (f : Fields) (c : Ctx) : Prop :=
  s.issuing = some c.aid ∧ ({ s with issuing := none }).ctx? c.aid cls op f = some c

/-- The state in which the instruction acts: its agent holds the issue and waits for nothing any more. -/
def State.begun (s : State) (aid : AgentId) : State :=
  ({ s with issuing := none }).modGang aid.gang (fun g => g.modAgent aid.slice (fun x => { x with hold := .none }))

/-- Nothing but the instruction itself decides what happens: its gang has no twin (R348), no deferred trap waits (R370),
no park of the agent is replayed (R333) and no grain is poisoned (R344). -/
structure Ctx.Undisturbed (c : Ctx) (s : State) : Prop where
  kind : ∀ p, c.g.kind ≠ .shadow p
  alone : s.shadowOf c.g.id = none
  noTrap : c.deferred = none
  noPark : s.parkOf c.aid = none
  clean : s.errs.poison = []

/-- Nothing stands before the effect of an instruction (R79): it is undisturbed, its encoding and its operands break no
limit (R78; `late` is what the register values add), in checking mode no register falls short or is outstanding (R84,
R85), and its token counter has room (R41). -/
structure Ctx.Unhindered (c : Ctx) (s : State) (late : Bool) (more : List (RFile × Nat)) : Prop
    extends Ctx.Undisturbed c s where
  legal : illegalCause (windowOfAgent c.hdr c.aid.slice) c.e c.f late = none
  score : c.score more = none
  room : c.tokenFull = false

/-- The instruction comes to issue: it is none that has issued and holds the issue since (R73), and no accepted MNORM (R172). -/
def Ctx.Anew (c : Ctx) (s : State) : Prop := c.resumed = false ∧ s.accepted c.lead.hold = false

/-- No write of a register that the instruction writes is still to land (R80, R83). -/
def Ctx.Landed (c : Ctx) (r : RFile) (i : Nat) : Prop := ∀ l, c.g.oldOf c.now r i l = none

/-- Each slice of the agent stands at the instruction, and none ends a loop body behind it that R233 forbids. -/
def Ctx.inStep (c : Ctx) : Prop := ∀ q ∈ c.running, q.2.point = c.lead.point ∧ q.2.point.inside = true ∧
  (q.2.point.pc + 4 * c.words = q.2.point.stop →
    (endLoops q.2.point.head q.2.point.stop q.2.deferred.length q.2.loops).isSome = true)

/-- The agent goes on: each of its slices stands behind the instruction with its lanes and its stacks as they were and waits for
nothing; behind its clause's last word it stands where the end of a loop body or the next header takes it (R67, R233). An
instruction that had not held the issue before lets STALL + 1 cycles pass (R81). -/
def Ctx.goesOn (c : Ctx) (t : State) : Prop := c.inStep →
  ∃ g, t.gang? c.g.id = some g ∧ ∀ q ∈ c.running, ∃ y, g.slice? q.1 = some y ∧ y.hold = .none ∧ y.active = q.2.active ∧
    y.deferred = q.2.deferred ∧ y.calls = q.2.calls ∧
    (c.resumed = false → y.earliest = c.now + c.f.stall.toNat + 1) ∧
    (q.2.point.pc + 4 * c.words ≠ q.2.point.stop → y.point = q.2.point.skip c.words ∧ y.loops = q.2.loops) ∧
    (∀ l a, q.2.point.pc + 4 * c.words = q.2.point.stop →
      endLoops q.2.point.head q.2.point.stop q.2.deferred.length q.2.loops = some (l, a) →
      y.loops = l ∧ y.point = .atHeader a)

end Machine

end Sys2Proof
end

