-- ==== Sys2Proof/Certificates/Slice0/Obligations.lean ====
section
/-!
DEFINITION. Certificates/Slice0/Obligations.lean: the statements for the provers, from the numbered rules of the spec.
-/

namespace Sys2Proof.Machine

/-! ### The shape of a result -/

/-- The registers of `l`, in the executing lanes of the agent's gang; a q or c register is the gang's. -/
def Ctx.may (c : Ctx) (l : List (RFile × Nat)) (i : Nat) (r : RFile) (x lane : Nat) : Prop :=
  i = c.g.id ∧ (∃ p ∈ l, p.1 = r ∧ (r = .amax ∨ p.2 = x)) ∧ (r = .q ∨ r = .c ∨ hasLane c.exec lane = true)

/-- No register. -/
def nothing (_ : Nat) (_ : RFile) (_ _ : Nat) : Prop := False

/-- The instruction answers a next state in which the registers of `l` hold the values given, in every executing lane,
and everything else that Frame names is as in `u`: every other register, all of memory, the tiles, the counters (q31 and
p7 are never written, R38); the agent goes on behind it. The end of a loop body that follows may still raise LOOP_SHAPE (R233). -/
def ResultsFrom (i : Instr) (s u : State) (c : Ctx) (l : List (RFile × Nat × (Nat → Reg))) : Prop :=
  ∃ t g, exec i s = .next t ∧ t.gang? c.g.id = some g ∧
    (∀ p ∈ l, ∀ lane, lane < 32 → hasLane c.exec lane = true → g.getR p.1 p.2.1 lane =
      if ignoredReg p.1 p.2.1 then c.g.getR p.1 p.2.1 lane else p.2.2 lane) ∧
    Frame (c.may (l.map (fun p => (p.1, p.2.1)))) (· = 0x07) u t ∧ c.goesOn t

/-- The same where nothing else changes. -/
def Results (i : Instr) (s : State) (c : Ctx) (l : List (RFile × Nat × (Nat → Reg))) : Prop := ResultsFrom i s s c l

/-- An instruction with one result: whatever its agent sees, if nothing stands before it and no write of that register
is still to land, the register holds the value in every executing lane. -/
def Gives (i : Instr) (cls op : Nat) (f : Fields) (r : RFile) (x : Nat) (v : Ctx → Nat → Reg) : Prop :=
  ∀ s c, Sees s cls op f c → c.Unhindered s false [] → c.Landed r x → Results i s c [(r, x, v c)]

/-- A result in d register D. -/
def GivesD (i : Instr) (op : Nat) (f : Fields) (v : Ctx → Nat → Reg) : Prop := Gives i 0 op f .d f.d.toNat v

/-- Registers are as before. -/
def Gang.sameRegs (g h : Gang) : Prop := ∀ r x l, h.getR r x l = g.getR r x l

/-! ### VEC (06) -/

/-- Elements from the exact integers of the operands (R110). -/
def intElems (op : Int → Int → Int → Int) (c : Ctx) (l : Nat) : Reg :=
  c.each l (fun k =>
    let n := readInt c.w (c.fnBit 0)
    narrow c.w (c.fnBit 0) c.f.sat (op (n (elem c.w k (c.A l))) (n (elem c.w k (c.Bi l))) (n (elem c.w k (c.C l)))))

/-- Elements from the integers of the operands, always wrapped (R110). -/
def intPlain (op : Nat → Int → Int → Int) (c : Ctx) (l : Nat) : Reg :=
  c.each l (fun k =>
    let n := readInt c.w (c.fnBit 0)
    wrap c.w (op c.w (n (elem c.w k (c.A l))) (n (elem c.w k (c.Bi l)))))

/-- Elements of both register operands, whole register by whole register (R114). -/
def logicElems (op : Reg → Reg → Reg) (c : Ctx) (l : Nat) : Reg := c.each l (fun k => elem c.w k (op (c.A l) (c.Bi l)))

/-- Elements from the elements of A and B (R115). -/
def natElems (op : Nat → Nat → Nat → Nat) (c : Ctx) (l : Nat) : Reg :=
  c.each l (fun k => op c.w (elem c.w k (c.A l)) (elem c.w k (c.Bi l)))

/-- Float elements: the exact values of A, B and C, one result, one rounding (R117). -/
def fltElems (op : RMode → FVal → FVal → FVal → FVal) (c : Ctx) (l : Nat) : Reg :=
  c.each l (fun k =>
    let v := fun (r : Reg) => (fmtOfW c.w).decode (elem c.w k r)
    (fmtOfW c.w).round (rmodeOf c.f.rm) false (op (rmodeOf c.f.rm) (v (c.A l)) (v (c.Bf l)) (v (c.C l))))

/-- Float elements whose result is a value of the format already (R117, R118). -/
def fltPick (op : RMode → FVal → FVal → FVal) (c : Ctx) (l : Nat) : Reg :=
  c.each l (fun k =>
    let v := fun (r : Reg) => (fmtOfW c.w).decode (elem c.w k r)
    (fmtOfW c.w).ne (op (rmodeOf c.f.rm) (v (c.A l)) (v (c.Bf l))))

/-- The key elements that a comparison compares (R113, R118). -/
def keyOf (c : Ctx) (r : Reg) : Nat := elem c.w c.form.key r

/-- A result in a predicate. -/
def GivesP (i : Instr) (op : Nat) (f : Fields) (v : Ctx → Nat → Bool) : Prop :=
  Gives i 0 op f .p f.d.toNat (fun c l => boolReg (v c l))

/-- A result in a q register, once for the agent (R135). -/
def GivesQ (i : Instr) (cls op : Nat) (f : Fields) (v : Ctx → Reg) : Prop :=
  Gives i cls op f .q f.d.toNat (fun c _ => v c)

/-- An instruction with several results. -/
def GivesAll (i : Instr) (cls op : Nat) (f : Fields) (l : Ctx → List (RFile × Nat × (Nat → Reg))) : Prop :=
  ∀ s c, Sees s cls op f c → c.Unhindered s false [] → (∀ p ∈ l c, c.Landed p.1 p.2.1) → Results i s c (l c)

/-- Elements of UNI's integer instructions, from lane-free operands (R136). -/
def uniElems (op : Int → Int → Int → Int) (c : Ctx) : Reg :=
  packW c.w (fun k =>
    let n := fun (r : Reg) => readInt c.w (c.fnBit 0) (elem c.w k r)
    narrow c.w (c.fnBit 0) c.f.sat (op (n (c.A 0)) (n (c.Bi 0)) (n (c.C 0))))

def uniPlain (op : Nat → Int → Int → Int) (c : Ctx) : Reg :=
  packW c.w (fun k =>
    let n := fun (r : Reg) => readInt c.w (c.fnBit 0) (elem c.w k r)
    wrap c.w (op c.w (n (c.A 0)) (n (c.Bi 0))))

def uniShifts (op : Nat → Nat → Nat → Nat) (c : Ctx) : Reg :=
  packW c.w (fun k => op c.w (elem c.w k (c.A 0)) (elem c.w k (c.Bi 0)))

/-- A UNI instruction's result, where its guard holds in an active lane; where it holds in none, q[D] and all else stay as they
were (R135). -/
def GivesUni (i : Instr) (op : Nat) (f : Fields) (v : Ctx → Reg) : Prop :=
  GivesQ i 1 op f v ∧ ∀ s c, Sees s 1 op f c → c.Unhindered s false [] → c.exec = 0 →
    ∃ t g, exec i s = .next t ∧ t.gang? c.g.id = some g ∧ g.getQ f.d.toNat = c.g.getQ f.d.toNat ∧
      Frame nothing (· = 0x07) s t ∧ c.goesOn t

/-- A special function's values by lane (R120). -/
def specialVals (g : RMode → FVal → FVal → FVal) (rm : RMode) (c : Ctx) : List (Nat × Reg) :=
  (lanesOf c.exec).map (fun l => (l, packW c.w (fun k =>
    let v := fun (r : Reg) => (fmtOfW c.w).decode (elem c.w k r)
    (fmtOfW c.w).round rm false (g rm (v (c.A l)) (v (c.B l))))))

/-- LXCH's source lane (R129): the low five bits of the value, the lane less it, the lane plus it, the lane XOR those bits. -/
def sourceLane (mode lane v : Nat) : Int :=
  match mode with
  | 0 => v % 32
  | 1 => lane - v
  | 2 => lane + v
  | _ => ((lane ^^^ (v % 32) : Nat) : Int)

/-- What LXCH gives a lane (R129): the value of an executing source lane; 0 and the flag for a dead one; its own value where the
source lane is inactive or outside 0 to 31. A slice counts dead lanes of other slices as inactive (the model's reading of R129, log 42). -/
def Ctx.lxch (c : Ctx) (lane : Nat) : Reg × Bool :=
  let s := sourceLane (fnOf c.f % 4) lane (elem 32 0 (c.B lane))
  let dead := match c.aid.slice with
    | none => c.g.dead
    | some i => c.g.dead &&& sliceLanes i
  if 0 ≤ s ∧ s < 32 then
    if hasLane c.exec s.toNat then (c.A s.toNat, false) else if hasLane dead s.toNat then (0, true) else (c.A lane, false)
  else (c.A lane, false)

/-- The state in which the agent's gang counts one more operation on the instruction's token, and awaits registers. -/
def State.counted (s : State) (c : Ctx) (lat : Nat) (regs : List (RFile × Nat)) (lanes : Mask) : State :=
  s.modGang c.g.id (fun g => g.track c (tokOf c.f) lat regs lanes)

/-- A special function issues: one operation with the values of the lanes executing now joins those in flight, its token
counter is one higher, and no register is written yet (R41, R120). -/
def SpecialIssues (i : Instr) (op : Nat) (f : Fields) (vals : Ctx → List (Nat × Reg)) : Prop :=
  ∀ s c, Sees s 0 op f c → c.Unhindered s false [] → c.exec ≠ 0 →
    ∃ t o, exec i s = .next t ∧ t.fl.specials = s.fl.specials ++ [o] ∧ o.vals = vals c ∧ o.dest = f.d.toNat ∧
      o.gang = c.g.id ∧ o.token = tokOf f ∧
      Frame nothing (· = 0x07) (s.counted c 24 [(.d, f.d.toNat)] c.exec) t ∧ c.goesOn t

/-- No write of AMAX, by an instruction or an .am update, is still to land (R83, R123). -/
def Ctx.AmaxLanded (c : Ctx) : Prop := ∀ l, c.g.oldOf c.now .amax 0 l = none ∧ c.g.oldOf c.now .amax 1 l = none

/-- A conversion's results: D, the INVALID predicate when .inv names one, and AMAX with .am (R122, R123). -/
def convResults (f : Fields) (src dst : NumTy) (scaled : Bool) (c : Ctx) : List (RFile × Nat × (Nat → Reg)) :=
  let r := fun l => cvtLane src dst (rmodeOf f.rm) f.sat (if scaled then some (elem 32 0 (c.B l)) else none) (c.A l)
  [(.d, f.d.toNat, fun l => (r l).1)] ++
  (if modBit f 3 then [(.p, modF f 2 0, fun l => boolReg (r l).2)] else []) ++
  (if immOf f then [(.amax, 0, fun l => (BitVec.ofNat 32 (amaxLane src dst (c.A l) (c.g.getAmax l).toNat)).setWidth 64)]
   else [])

/-- A conversion whose format codes name element types (R122). -/
def Converts (i : Instr) (op : Nat) (f : Fields) (scaled : Bool) : Prop :=
  ∀ src dst, tyOf (srcOf f) = some src → tyOf (dstOf f) = some dst → GivesAll i 0 op f (convResults f src dst scaled)

/-- The instruction completes and its agent goes on; registers, memory, tiles and counters are as in `u`. -/
def DoneFrom (i : Instr) (s u : State) (c : Ctx) : Prop :=
  ∃ t, exec i s = .next t ∧ Frame nothing (· = 0x07) u t ∧ c.goesOn t

/-- A transfer of control completes: registers, memory and tiles stay, and each slice of the agent that has a live
active lane becomes what `becomes` says. -/
def Transfers (i : Instr) (s : State) (c : Ctx) (becomes : Nat → Slice → Slice → Prop) : Prop :=
  ∃ t g, exec i s = .next t ∧ t.gang? c.g.id = some g ∧ Frame nothing (· = 0x07) s t ∧
    ∀ q ∈ c.running, ∃ y, g.slice? q.1 = some y ∧ becomes q.1 q.2 y

/-- The code words at these addresses are there (R67). -/
def Ctx.codeThere (c : Ctx) (s : State) (l : List Nat) : Prop := ∀ a ∈ l, (s.code c.blk.part a).isSome = true

/-- A slice's entry of a jump table passes every check of R228, in the state in which the instruction acts. -/
def Ctx.entryGood (c : Ctx) (s : State) (call : Bool) (e : Entry8) : Prop :=
  let x := Span.mk e.slice false false 8 0 [(e.addr, 8)]
  let w := (c.readEntry s e).1
  let tgt := entryTarget e.addr w
  e.index < c.bound ∧ x.fails c.hdr 0 = none ∧ x.fails c.hdr 1 = none ∧ x.fails c.hdr 2 = none ∧
  c.spanXlat s x = none ∧ s.entryWaits c.g c.aid.slice e.addr = false ∧ c.given e = none ∧ (c.readEntry s e).2 = false ∧
  s.badTarget c.blk.part c.hdr tgt = false ∧ c.codeThere s (tgt :: (tgt + 4) :: s.bodyWords c.blk.part c.hdr tgt) ∧
  s.headerCause c.blk.part c.hdr tgt = 0 ∧ s.padAt c.blk.part tgt = (true, entryLabel w) ∧
  (call = true → e.x.calls.length < 8) ∧ (c.through call e.x tgt).2 = false

/-- BRX and CALLX complete when every slice's entry is good. -/
def TableTransfers (i : Instr) (op : Nat) (f : Fields) (call : Bool) : Prop :=
  ∀ s c, Sees s 5 op f c → c.Unhindered s false [] →
    let b := s.begun c.aid
    b.fenced c.g.id c.aid.slice = false → (∀ e ∈ c.entries, c.entryGood b call e) →
    Transfers i s c (fun i x y => ∀ e ∈ c.entries, e.slice = i →
      y.point = .atHeader (entryTarget e.addr (c.readEntry b e).1) ∧ y.active = x.active ∧ y.deferred = x.deferred ∧
      y.calls = if call then ⟨x.point.skip c.words, x.deferred.length, x.loops.length, 0⟩ :: x.calls else x.calls)

/-- The slice ends no loop body behind this word: the word is not its clause's last, or no loop is open (R233). -/
def Ctx.staysInBody (c : Ctx) (x : Slice) : Prop := x.loops = [] ∨ x.point.pc + 4 * c.words ≠ x.point.stop

/-- A slice goes on behind its instruction, of two words or one, with its lanes and stacks as they were. -/
def Slice.goesPast (x : Slice) (two : Bool) (y : Slice) : Prop :=
  y.hold = .none ∧ y.active = x.active ∧ y.deferred = x.deferred ∧ y.loops = x.loops ∧ y.calls = x.calls ∧
  y.point = x.point.skip (if two then 2 else 1)

/-- The slices with a live active lane hold one pc. -/
def Gang.together (g : Gang) : Prop := ∀ a ∈ g.pcs, ∀ b ∈ g.pcs, a = b

/-- BRA, slice by slice. Where lanes take it they go to the target, and the others, if any, wait in a deferred entry for the
join (R32); a slice of which no lane takes it goes on behind it with its stacks as they were; a whole gang whose slices now
hold different PCs parts (R29). -/
def BranchTransfers (i : Instr) (f : Fields) : Prop :=
  ∀ s c, Sees s 5 0x01 f c → c.Unhindered s false [] →
    let b := s.begun c.aid
    c.braTarget b = none → c.codeThere b [c.words18] →
    (∀ q ∈ c.running, c.overflows q.2 = false ∧ (c.branch q.2).2 = false ∧
      (q.2.active &&& c.exec = 0 → c.staysInBody q.2)) →
    Transfers i s c (fun _ x y => y.calls = x.calls ∧
      (x.active &&& c.exec ≠ 0 → y.point = .atHeader c.words18 ∧
        (x.active &&& ~~~c.exec = 0 → y.active = x.active ∧ y.deferred = x.deferred) ∧
        (x.active &&& ~~~c.exec ≠ 0 → y.active = x.active &&& c.exec ∧
          y.deferred = ⟨x.active &&& ~~~c.exec, x.point.skip c.words, c.joinAddr, 0, false⟩ :: x.deferred)) ∧
      (x.active &&& c.exec = 0 → y.point.pc = x.point.pc + 4 * c.words ∧ y.active = x.active ∧ y.deferred = x.deferred ∧
        y.loops = x.loops)) ∧
    ∃ t g, exec i s = .next t ∧ t.gang? c.g.id = some g ∧ (g.whole = true ↔ c.g.whole = true ∧ g.together)

/-- The agent names a barrier that passes the checks of R244, at this offset of its block's scratchpad. -/
def Ctx.namesBar (c : Ctx) (o : Nat) : Prop :=
  c.exec ≠ 0 ∧ (c.A c.low).toNat = scratchBase + o ∧ o % 16 = 0 ∧ o + 16 ≤ c.hdr.scratch ∧ c.hdr.scratch ≤ 2 ^ 32

/-- The instruction is held and changes no register and no byte while its gang's arrival at the barrier, made by every live slice, is
still to take effect (R298). -/
def HeldBehind (i : Instr) (s : State) (c : Ctx) (o : Nat) : Prop := ∀ d, s.block? c.g.block = some d →
  ∃ t e g y, exec i s = .next t ∧ t.block? c.g.block = some e ∧ e.store = d.store ∧ t.gang? c.g.id = some g ∧ c.g.sameRegs g ∧
    g.arrivals = c.g.arrivals ∧ g.lead c.aid.slice = some y ∧ y.hold = .record o

/-- The instruction completes, leaves the barrier as said and no register changed, and its agent goes on; it is held behind an
arrival that is still to take effect. -/
def LeavesBar (i : Instr) (s : State) (c : Ctx) (o : Nat) (v : Bar) : Prop :=
  (c.g.recordDue o = true → HeldBehind i s c o) ∧
  (c.g.recordDue o = false → ∃ t d g, exec i s = .next t ∧ t.block? c.g.block = some d ∧ d.bar o = v ∧
    t.gang? c.g.id = some g ∧ c.g.sameRegs g ∧ c.goesOn t)

/-- The arrival of a parted gang's slice `i` at the barrier `b` (R241): its bit joins the gang's record of that address (no second time:
log 47); with four records of other addresses it is held, and so it is behind an arrival that is still to take effect. The barrier
stays as it is until every live slice has arrived, and then takes the one arrival of the gang; a BARARV goes on, a BARSYNC waits
meanwhile, and then for the phase that was current. -/
def SliceArrival (ins : Instr) (sync : Bool) (s : State) (c : Ctx) (o i : Nat) (b : Bar) : Prop :=
  let old := c.g.arrivals.find? (fun a => a.off == o)
  let m := match old with
    | some a => if bitAt a.slices i then a.slices else a.slices + 2 ^ i
    | none => 2 ^ i
  let v := b.arrival c.g.index
  let leaves := fun (w : Bar) (p : Gang → Prop) => ∃ t d g, exec ins s = .next t ∧ t.block? c.g.block = some d ∧ d.bar o = w ∧
    t.gang? c.g.id = some g ∧ c.g.sameRegs g ∧ p g
  let holds := fun (h : Hold) (g : Gang) => ∃ y, g.slice? i = some y ∧ y.hold = h
  let passes := sync = false → ∀ t, exec ins s = .next t → c.goesOn t
  (c.g.recordDue o = true → HeldBehind ins s c o) ∧ (c.g.recordDue o = false →
  (old = none → 4 ≤ c.g.arrivals.length → leaves b (holds .arrival)) ∧
  (old.isSome = true ∨ c.g.arrivals.length < 4 → passes ∧
    (c.g.allArrived ⟨o, m⟩ = false → leaves b (fun g => ⟨o, m⟩ ∈ g.arrivals ∧ (sync = true → holds (.barsync o none) g))) ∧
    (c.g.allArrived ⟨o, m⟩ = true → (s.begun c.aid).endedDone c.g = true → leaves v (fun g => (∀ a ∈ g.arrivals, a.off ≠ o) ∧
      (sync = true → v.passed b.phase = false → holds (.barsync o (some b.phase)) g)))))

/-- Every executing lane's element lies at a good place (R182). -/
def Ctx.placed (c : Ctx) (s : State) (x : Access) : Prop :=
  stepOne c.hdr (x.perm == 2 || x.agent) x.bytes x.bytes ((lanesOf c.exec).map (fun l => (l, x.addr l))) = none ∧
  ∀ l ∈ lanesOf c.exec, ∃ p, c.locate s x l = .at_ p

/-- No operation bears a number still to be given. -/
def State.numbered (s : State) : Prop := ∀ o ∈ s.fl.ops, o.id < s.fresh

/-- An element of a lane as an access puts it on its way: at the lane's address, with the lane's data. -/
def Access.eltFor (x : Access) (s : State) (c : Ctx) (o : MemOp) (l : Nat) : Prop :=
  ∃ e ∈ o.elts, e.lane = l ∧ e.hi = false ∧ e.addr = x.addr l ∧ c.locate s x l = .at_ e.place ∧ e.cmp = x.cmp l ∧
    ((∀ sx, x.kind ≠ .load sx) → e.data = x.data l % 2 ^ 64) ∧
    (∀ sx o, x.kind = .load sx → e.place = .stack o → e.data = c.g.stackGet l o (min 8 x.bytes)) ∧
    (x.bytes = 16 → ∃ h ∈ o.elts, h.lane = l ∧ h.hi = true ∧ h.addr = x.addr l + 8 ∧ h.place = e.place.plus 8 ∧
      ((∀ sx, x.kind ≠ .load sx) → h.data = x.data l / 2 ^ 64))

/-- An access to memory is on its way: an operation of the agent with the elements of every executing lane. -/
def Access.onItsWay (x : Access) (s : State) (c : Ctx) (o : MemOp) : Prop :=
  o.id = s.fresh ∧ o.gang = c.g.id ∧ o.slice = c.aid.slice ∧ o.kind = x.kind ∧ o.bytes = min 8 x.bytes ∧ o.ord = x.ord ∧
  o.file = x.file ∧ o.dest = x.dest ∧ o.parked = false ∧ ∀ l ∈ lanesOf c.exec, x.eltFor s c o l

/-- The state in which the access's token counts it and its registers are awaited. -/
def State.awaiting (s : State) (c : Ctx) (x : Access) : State :=
  if c.e.tok != .no && decide (tokOf c.f < 6) then s.counted c (x.latency (lanesOf c.exec)) x.regs c.exec else s

/-- Registers of the agent's gang, memory and scratchpads are as before; its counters may not be. -/
def Ctx.stored (c : Ctx) (s t : State) : Prop :=
  t.mem = s.mem ∧ (∃ g, t.gang? c.g.id = some g ∧ ∀ r x l, g.getR r x l = c.g.getR r x l) ∧
  ∀ i b, s.block? i = some b → ∃ d, t.block? i = some d ∧ d.store = b.store

/-- A per-lane access completes its issue: it is on its way, and no register, no byte of memory has changed yet; `keeps`
says what the issue itself changes. -/
def AccessIssues (i : Instr) (op : Nat) (f : Fields) (x : Ctx → Access) (keeps : State → Ctx → State → Prop) : Prop :=
  ∀ s c, Sees s 2 op f c → c.Unhindered s false [] → c.exec ≠ 0 → s.numbered →
    let b := s.begun c.aid
    b.fenced c.g.id c.aid.slice = false → c.placed b (x c) →
    ((x c).kind = .store → ∀ l ∈ lanesOf c.exec, ∀ o, c.locate b (x c) l ≠ .at_ (.stack o)) →
    ∃ t o, exec i s = .next t ∧ o ∈ t.fl.ops ∧ (x c).onItsWay b c o ∧ keeps s c t ∧ c.goesOn t

/-- ST whose lanes' elements all lie on their own stacks is performed at its issue: the bytes of each lane's element stand at
their backing bytes (R179), and every other byte of the gang's stacks, every register and all of memory is as before. -/
def StoresOnStack (f : Fields) : Prop :=
  ∀ s c, Sees s 2 0x02 f c → c.Unhindered s false [] → c.exec ≠ 0 → s.numbered →
    let n : Nat := 2 ^ f.w.toNat
    let a := fun (l : Nat) => wrap 64 ((c.A l).toNat + sext 8 (modF f 7 0) * n)
    (s.begun c.aid).fenced c.g.id c.aid.slice = false →
    (∀ l ∈ lanesOf c.exec, a l % n = 0 ∧ ∃ o, spaceOf (a l) = .stack o ∧ o + n ≤ c.hdr.stackb) →
    ∃ t g, exec (.st f) s = .next t ∧ t.gang? c.g.id = some g ∧ c.stored s t ∧
      (∀ l o i : Nat, l ∈ lanesOf c.exec → spaceOf (a l) = .stack o → i < n →
        mapGet g.stack (stackByte l (o + i)) = BitVec.ofNat 8 ((stAccess c).data l / 2 ^ (8 * i))) ∧
      ∀ x, (∀ l o i : Nat, l ∈ lanesOf c.exec → spaceOf (a l) = .stack o → i < n → x ≠ stackByte l (o + i)) →
        mapGet g.stack x = mapGet c.g.stack x

/-- The matrix engine is there for the agent (R158, R159). -/
def Ctx.engineThere (c : Ctx) : Prop := c.hdr.nomatrix = false ∧ c.blk.engineLost = false

/-- An operation with these operands joins the engine's queue for each band (R142, R144): jobs in band order, numbered
one after another, each before the numbers of its rows' stores. -/
def Ctx.queued (c : Ctx) (s : State) (l : List (Nat × List (Nat × Nat) × MxOp)) : List MxJob :=
  ((List.range l.length).zip l).map (fun p => c.job (s.fresh + jobIds * p.1) p.2.1 p.2.2.1 p.2.2.2)

/-- An MTX instruction whose operands pass (R144, R145, R160) and for whose entries the queue has room (R142) hands them
to the engine; nothing else changes until the engine acts. -/
def EngineTakes (i : Instr) (op : Nat) (f : Fields) (cause : Ctx → Nat) (late : Ctx → Bool) (fence : Bool)
    (spans : Ctx → List Span) (jobs : Ctx → List (Nat × List (Nat × Nat) × MxOp)) (base : State → Ctx → State) : Prop :=
  ∀ s c, Sees s 3 op f c → c.Unhindered s (late c) [] → c.engineThere → cause c = 0 → c.exec ≠ 0 →
    let b := s.begun c.aid
    (fence = true → b.fenced c.g.id c.aid.slice = false) →
    c.spanCheck b (spans c) = none → (∀ x ∈ spans c, c.spanXlat b x = none) →
    b.mxRoom c.blk.cluster ((jobs c).foldl (fun m x => m + max 1 x.2.1.length) 0) = true →
    ∃ t, exec i s = .next t ∧ t.fl.jobs = s.fl.jobs ++ c.queued s (jobs c) ∧ Frame nothing (· = 0x07) (base s c) t ∧
      c.goesOn t

/-- A view is on its way as R284 requests it: its sources' addresses by lane; it holds a slot of its level if one was
free, and none if it is refused (R294, R295). -/
def Ctx.requests (c : Ctx) (s : State) (perLane : Bool) (v : View) : Prop :=
  v.id = s.fresh ∧ v.gang = c.g.id ∧ v.slice = c.aid.slice ∧ v.wing = c.wing ∧ v.level = c.g.nest + 1 ∧
  v.perLane = perLane ∧ v.kind = modF c.f 11 8 ∧ v.res = modF c.f 7 5 ∧ v.dest = c.f.d.toNat ∧ v.token = tokOf c.f ∧
  v.lanes = c.exec ∧ v.launch = s.rootLaunch c.g ∧ (v.refused = true ↔ c.hdr.nestlim ≤ c.g.nest) ∧
  v.srcs.map (fun x => (x.lane, x.camAddr, x.cutAddr)) =
    (if perLane then (lanesOf c.exec).map (fun l => (l, (c.A l).toNat, (c.B l).toNat))
     else [(0, (c.A c.low).toNat, (c.B c.low).toNat)]) ∧
  (v.admitted.isSome = true ↔ c.g.nest < c.hdr.nestlim ∧ s.slotFree v.launch v.level v.wing = true)

/-- VIEW and VIEWL whose addresses pass R284's checks request their view and count its token; a RADIANCE view's shading
marks SE (R331). -/
def ViewIssues (i : Instr) (op : Nat) (f : Fields) (perLane : Bool) : Prop :=
  ∀ s c, Sees s 4 op f c → c.Unhindered s false [] → c.exec ≠ 0 →
    let b := s.begun c.aid
    b.fenced c.g.id c.aid.slice = false →
    (∀ l ∈ (if perLane then lanesOf c.exec else [c.low]), ∀ x ∈ [((c.A l).toNat, 128), ((c.B l).toNat, 256)],
      x.1 < 2 ^ 56 ∧ x.1 % x.2 = 0) →
    ∃ t v, exec i s = .next t ∧ v ∈ t.fl.views ∧ c.requests b perLane v ∧
      Frame nothing (· = 0x07) (if modF f 11 8 = 3 then c.markSe (s.counted c 2000 [] 0) else s.counted c 2000 [] 0) t

/-- The records that the executing lanes name. -/
def Ctx.names (c : Ctx) : List Nat := (lanesOf c.exec).map (fun l => (c.A l).toNat)

/-- Registers of the agent's gang are as before. -/
def Ctx.regsKept (c : Ctx) (t : State) : Prop :=
  ∃ g, t.gang? c.g.id = some g ∧ ∀ r x l, g.getR r x l = c.g.getR r x l

/-! ### Traps -/

/-- The agent's slices in a gang, with what each becomes. -/
def Gang.become (g h : Gang) (sl : Option Nat) (p : Nat → Slice → Slice → Prop) : Prop :=
  ∀ i ∈ g.members sl, ∀ x, g.slice? i = some x → ∃ y, h.slice? i = some y ∧ p i x y

/-- The handler's address for a gang: TRAPVEC of its launch (R323). -/
def State.vector (s : State) (g : Gang) : Nat := ((s.block? g.block).bind s.hdrOf).elim 0 (·.trapvec)

/-! ### Events -/

/-- The event happens, and the state after it is as `p` says. -/
def Happens (i : Instr) (s : State) (p : State → Prop) : Prop := ∃ t, exec i s = .next t ∧ p t

/-- A flushed block stands until what it has issued is done: its gangs have stopped (R338). -/
def State.flushing (t : State) (b : Block) : Prop :=
  (∃ d, t.block? b.id = some d ∧ d.stop = .flush ∧ d.resident = true ∧ d.ended = b.ended ∧ d.store = b.store) ∧
  (∀ g ∈ t.gangs, g.block = b.id → g.life = .ended) ∧
  ∀ o ∈ t.fl.ops, (∃ g ∈ t.gangs, g.id = o.gang ∧ g.block = b.id) → o.isRead = false

/-- The package has power and has not halted in start-up. -/
def State.lives (s : State) : Prop := s.pkg.powered = true ∧ s.pkg.halted = false

/-- The supervisor OS runs too: step 5 of the start-up has started its cores (R24). -/
def State.runs (s : State) : Prop := s.lives ∧ 5 ≤ s.pkg.boot

/-- No lane of a register of the gang was written while a result for it was on its way (R85). -/
def Gang.unraced (g : Gang) : Prop := ∀ o ∈ g.outst, o.touched = 0

/-- The lane still exists for a delivery: neither exited nor dead. -/
def Gang.here (g : Gang) (l : Nat) : Prop := hasLane (g.exited ||| g.dead) l = false

/-- A place of the easel is exchanged: the gang that leaves becomes pending, the one that enters active (R249). -/
def Swapped (enter out : Gang) (now : Nat) (t : State) : Prop :=
  (∃ h, t.gang? enter.id = some h ∧ h.life = .active ∧ h.activeSince = now) ∧
  (out.id ≠ enter.id → ∃ h, t.gang? out.id = some h ∧ h.life = .pending ∧ h.cede = false)

/-- A queue of a function. -/
def State.queue? (s : State) (part q : Nat) : Option SubQueue := (s.funcs[part]?).bind (fun f => f.queues[q]?)

/-! ### Formats and hashes -/

/-- The number of R119 for the class of an element of `w` bits: sign, exponent field and fraction field decide. -/
def classBit (w a : Nat) : Nat :=
  let eb := if w = 16 then 5 else if w = 32 then 8 else 11
  let fb := w - 1 - eb
  let neg := decide (a / 2 ^ (w - 1) % 2 = 1)
  let ex := a / 2 ^ fb % 2 ^ eb
  let fr := a % 2 ^ fb
  if ex = 2 ^ eb - 1 then
    if fr = 0 then (if neg then 0 else 7) else if fr / 2 ^ (fb - 1) = 1 then 9 else 8
  else if ex = 0 then
    if fr = 0 then (if neg then 3 else 4) else (if neg then 2 else 5)
  else if neg then 1 else 6

/-- The fields of a word whose bits 28 to 0 are zero (R68, R72). -/
def noFields : Fields :=
  { stall := 0, x := false, g := 0, d := 0, a := 0, b := 0, gn := false, w := 2, aq := false, bq := false, cq := false
    rm := 0, sat := false, c := 0, mod := 0 }

/-! ### The machine as a whole -/

/-- Memory keeps its canonical form, and every number given was given once. -/
def State.Inv (s : State) : Prop := Memory.wf s.mem = true ∧ s.numbered ∧ ∀ b ∈ s.blocks, b.id < s.fresh

end Sys2Proof.Machine

section
open Sys2Proof Sys2Proof.Machine

/-- R110: IADD, ISUB, IMUL, IMAD wrap or saturate the exact result; IMULH is the high half, IMIN and IMAX the smaller
and the larger; IABS and INEG are of the signed element. -/
def Obligations.IntegerArithmetic : Prop := ∀ f : Fields,
  GivesD (.iadd f) 0x01 f (intElems (fun x y _ => x + y)) ∧
  GivesD (.isub f) 0x02 f (intElems (fun x y _ => x - y)) ∧
  GivesD (.imul f) 0x03 f (intElems (fun x y _ => x * y)) ∧
  GivesD (.imad f) 0x05 f (intElems (fun x y z => x * y + z)) ∧
  GivesD (.imulh f) 0x04 f (intPlain (fun w x y => x * y / 2 ^ w)) ∧
  GivesD (.imin f) 0x07 f (intPlain (fun _ x y => min x y)) ∧
  GivesD (.imax f) 0x08 f (intPlain (fun _ x y => max x y)) ∧
  GivesD (.iabs f) 0x09 f (fun c l => c.each l (fun k => narrow c.w false f.sat (sInt c.w (elem c.w k (c.A l))).natAbs)) ∧
  GivesD (.ineg f) 0x0A f (fun c l => c.each l (fun k => narrow c.w false f.sat (-sInt c.w (elem c.w k (c.A l)))))

/-- The carry into the `n`-th element from `first` on: the floor of the sum of the element below, with its own carry, by 2^W (R111). -/
def carryInto (w first : Nat) (a b : Reg) (cy : Nat) : Nat → Nat
  | 0 => cy
  | n + 1 => (elem w (first + n) a + elem w (first + n) b + carryInto w first a b cy n) / 2 ^ w

/-- R111, R112: IADDC's sum and carry, which passes from element to element; IDOT4's dot product of four bytes, with one saturation or wrap. -/
def Obligations.CarryAndDot : Prop := ∀ f : Fields,
  GivesAll (.iaddc f) 0 0x06 f (fun c =>
    let first := if c.form.one then c.form.k else 0
    let cy := fun (l : Nat) => carryInto c.w first (c.A l) (c.B l) (if c.C l = 0 then 0 else 1)
    [(.d, f.d.toNat, fun l => c.each l (fun e => (elem c.w e (c.A l) + elem c.w e (c.B l) + cy l (e - first)) % 2 ^ c.w)),
      (.p, f.c.toNat, fun l => boolReg (decide (cy l (if c.form.one then 1 else 64 / c.w) ≠ 0)))]) ∧
  GivesD (.idot4 f) 0x0B f (fun c l => c.each l (fun e =>
    let n := fun (u : Bool) (r : Reg) (j : Nat) => readInt 8 u (elem 8 (4 * e + j) r)
    let p := fun (j : Nat) => n (c.fnBit 0) (c.A l) j * n (c.fnBit 1) (c.B l) j
    let u := c.fnBit 0 && c.fnBit 1
    narrow 32 u f.sat (readInt 32 u (elem 32 e (c.C l)) + p 0 + p 1 + p 2 + p 3)))

/-- R113, R118: ICMP and FCMP write a predicate from the key elements; a NaN makes eq, lt, le, gt and ge
false, or true with UN, and ne true; num and nan ask for it; zeros compare equal. -/
def Obligations.Comparisons : Prop := ∀ f : Fields,
  GivesP (.icmp f) 0x0C f (fun c l =>
    let x := readInt c.w (c.fnBit 3) (keyOf c (c.A l))
    let y := readInt c.w (c.fnBit 3) (keyOf c (c.Bi l))
    match fnOf f % 8 with
    | 0 => decide (x = y)
    | 1 => decide (x ≠ y)
    | 2 => decide (x < y)
    | 3 => decide (x ≤ y)
    | 4 => decide (x > y)
    | _ => decide (x ≥ y)) ∧
  GivesP (.fcmp f) 0x26 f (fun c l =>
    let x := (fmtOfW c.w).decode (keyOf c (c.A l))
    let y := (fmtOfW c.w).decode (keyOf c (c.Bf l))
    let nan := x.isNan || y.isNan
    let eq := (x.isZero && y.isZero) || x.cmp y == some .eq
    match fnOf f % 8 with
    | 0 => if nan then c.fnBit 3 else eq
    | 1 => nan || !eq
    | 2 => if nan then c.fnBit 3 else !eq && x.cmp y == some .lt
    | 3 => if nan then c.fnBit 3 else eq || x.cmp y == some .lt
    | 4 => if nan then c.fnBit 3 else !eq && x.cmp y == some .gt
    | 5 => if nan then c.fnBit 3 else eq || x.cmp y == some .gt
    | 6 => !nan
    | _ => nan)

/-- R114: the logic instructions act on every bit of A and B, BITF by its table on A, B and C. -/
def Obligations.Logic : Prop := ∀ f : Fields,
  GivesD (.and f) 0x10 f (logicElems (fun a b => a &&& b)) ∧
  GivesD (.or f) 0x11 f (logicElems (fun a b => a ||| b)) ∧
  GivesD (.xor f) 0x12 f (logicElems (fun a b => a ^^^ b)) ∧
  GivesD (.andn f) 0x13 f (logicElems (fun a b => a &&& ~~~b)) ∧
  GivesD (.not f) 0x14 f (logicElems (fun a _ => ~~~a)) ∧
  GivesD (.bitf f) 0x15 f (fun c l =>
    packN 1 64 (fun i => modF f 7 0 / 2 ^ (elem 1 i (c.A l) + 2 * elem 1 i (c.B l) + 4 * elem 1 i (c.C l))))

/-- R115: shift counts are taken modulo the element width; the counts of leading zeros and of set bits, the lowest set
bit and the bit reversal. -/
def Obligations.ShiftsAndCounts : Prop := ∀ f : Fields,
  GivesD (.shl f) 0x16 f (natElems (fun w a b => a * 2 ^ (b % w) % 2 ^ w)) ∧
  GivesD (.shr f) 0x17 f (natElems (fun w a b => a / 2 ^ (b % w))) ∧
  GivesD (.sar f) 0x18 f (natElems (fun w a b => wrap w (sInt w a / 2 ^ (b % w)))) ∧
  GivesD (.rol f) 0x19 f (natElems (fun w a b => a * 2 ^ (b % w) % 2 ^ w + a / 2 ^ (w - b % w) % 2 ^ (b % w))) ∧
  GivesD (.clz f) 0x1A f (natElems (fun w a _ => if a = 0 then w else w - 1 - a.log2)) ∧
  GivesD (.ffs f) 0x1B f (natElems (fun w a _ => firstSet w 0 a)) ∧
  GivesD (.popc f) 0x1C f (natElems (fun w a _ => popcount w a)) ∧
  GivesD (.brev f) 0x1D f (natElems (fun w a _ => (List.range w).foldl (fun acc i => acc + a / 2 ^ i % 2 * 2 ^ (w - 1 - i)) 0))

/-- R116, R124, R125: BFX and BFI with their control words; MOV, MOVI and MOVU; PACK and UNPK. -/
def Obligations.FieldsAndMoves : Prop := ∀ f : Fields,
  GivesD (.bfx f) 0x1E f (fun c l => c.each l (fun k =>
    bfx c.w (c.fnBit 0) (elem c.w k (c.A l)) (if immOf f then imm16 f else elem 32 0 (c.B l)))) ∧
  GivesD (.bfi f) 0x1F f (fun c l => c.each l (fun k =>
    bfi c.w (elem c.w k (c.A l)) (elem c.w k (c.B l)) (elem 32 0 (c.C l)))) ∧
  GivesD (.mov f) 0x50 f (fun c l => c.each l (fun k => elem c.w k (c.A l))) ∧
  GivesD (.movi f) 0x51 f (fun c l =>
    if bitAt (fnOf f) 3 then setElem 16 (fnOf f % 4) (c.D l) (imm16 f) else immInt c.w (imm16 f)) ∧
  GivesQ (.movu f) 0 0x54 f (fun c => c.each 0 (fun k => elem c.w k (c.A (lowLane c.exec)))) ∧
  GivesD (.pack f) 0x45 f (fun c l => packLane c.w (modBit f 0) f.sat (c.A l) (c.B l)) ∧
  GivesD (.unpk f) 0x46 f (fun c l => unpkLane c.w (modBit f 0) (modBit f 1) (c.A l))

/-- R126: SEL takes each element from A or B by its lane's predicate; BPICK picks eight of A's and B's sixteen bytes by the
nibbles of C.w0. C of SEL is no q register, FN is zero, and BPICK has no single form: such a word is illegal. -/
def Obligations.SelectAndPick : Prop := ∀ f : Fields,
  GivesD (.sel f) 0x52 f (fun c l => c.each l (fun k => if c.C l ≠ 0 then elem c.w k (c.A l) else elem c.w k (c.B l))) ∧
  GivesD (.bpick f) 0x53 f (fun c l => packN 8 8 (fun i =>
    if elem 4 i (c.C l) < 8 then elem 8 (elem 4 i (c.C l)) (c.A l) else elem 8 (elem 4 i (c.C l) - 8) (c.B l))) ∧
  (∀ s c, Sees s 0 0x52 f c → f.cq = true ∨ fnOf f ≠ 0 →
    illegalCause (windowOfAgent c.hdr c.aid.slice) c.e f false ≠ none) ∧
  (∀ s c, Sees s 0 0x53 f c → oneOf f = true ∨ fnOf f ≠ 0 →
    illegalCause (windowOfAgent c.hdr c.aid.slice) c.e f false ≠ none)

/-- R127: PMOV: the four functions of two predicates, the collection of predicates into a register and back. -/
def Obligations.PredicateMoves : Prop := ∀ f : Fields,
  GivesAll (.pmov f) 0 0x55 f (fun c =>
    if fnOf f = 4 then [(.d, f.d.toNat, fun l => packN 1 8 (fun i => if i = 7 then 1 else (c.rd .p i l).toNat))]
    else if fnOf f = 5 then (List.range 7).map (fun i => (.p, i, fun l => boolReg (bitAt (c.A l).toNat i)))
    else [(.p, f.d.toNat, fun l => boolReg (match fnOf f with
      | 0 => c.A l != 0 && c.B l != 0
      | 1 => c.A l != 0 || c.B l != 0
      | 2 => (c.A l != 0) != (c.B l != 0)
      | _ => c.A l != 0 && !(c.B l != 0)))])

/-- R117: the float instructions round the exact result once; FMIN, FMAX and FRND give a value of the format;
FSCALE takes an integer second source. -/
def Obligations.FloatArithmetic : Prop := ∀ f : Fields,
  GivesD (.fadd f) 0x20 f (fltElems (fun m x y _ => x.add m y)) ∧
  GivesD (.fsub f) 0x21 f (fltElems (fun m x y _ => x.add m y.neg)) ∧
  GivesD (.fmul f) 0x22 f (fltElems (fun _ x y _ => x.mul y)) ∧
  GivesD (.ffma f) 0x23 f (fltElems (fun m x y z => (x.mul y).add m z)) ∧
  GivesD (.fmin f) 0x24 f (fltPick (fun _ x y => x.minNum y)) ∧
  GivesD (.fmax f) 0x25 f (fltPick (fun _ x y => x.maxNum y)) ∧
  GivesD (.frnd f) 0x27 f (fltPick (fun m x _ => x.integral m)) ∧
  GivesD (.fscale f) 0x29 f (fun c l => c.each l (fun k =>
    (fmtOfW c.w).round (rmodeOf f.rm) false
      (((fmtOfW c.w).decode (elem c.w k (c.A l))).scale (sInt c.w (elem c.w k (c.Bi l))))))

/-- R119: FCLASS writes into each element an integer mask with exactly one bit set, that of the element's class. -/
def Obligations.ClassMasks : Prop := ∀ f : Fields,
  GivesD (.fclass f) 0x28 f (fun c l => c.each l (fun k => 2 ^ classBit c.w (elem c.w k (c.A l))))

/-- R120, R41: the special functions issue with their values computed and their token counted; RN alone for those that
have no rounding field. The values of FRCP, FRSQ, FSQRT and FDIV are correctly rounded; those of FEXP2, FLOG2, FSINP, FCOSP and
FTANH are the model's own functions, which it takes for correctly rounded (log 24). -/
def Obligations.SpecialFunctionsIssue : Prop := ∀ f : Fields,
  SpecialIssues (.frcp f) 0x30 f (fun c => specialVals (fun _ x _ => (FVal.fin false 1 0).div x) (rmodeOf f.rm) c) ∧
  SpecialIssues (.fsqrt f) 0x32 f (fun c => specialVals (fun _ x _ => x.sqrt) (rmodeOf f.rm) c) ∧
  SpecialIssues (.fdiv f) 0x33 f (fun c => specialVals (fun _ x y => x.div y) (rmodeOf f.rm) c) ∧
  (∀ e ∈ ([(.frsq f, 0x31, FVal.rsqrt), (.fexp2 f, 0x34, FVal.exp2), (.flog2 f, 0x35, FVal.log2),
      (.fsinp f, 0x36, FVal.sinPi), (.fcosp f, 0x37, FVal.cosPi), (.ftanh f, 0x38, FVal.tanh)]
      : List (Instr × Nat × (FVal → FVal))),
    SpecialIssues e.1 e.2.1 f (fun c => (lanesOf c.exec).map (fun l => (l, packW c.w (fun k =>
      (fmtOfW c.w).ne (e.2.2 ((fmtOfW c.w).decode (elem c.w k (c.A l)))))))))

/-- R129 to R134: the cross-lane instructions over the executing lanes of the agent; LXCH's source lane by its mode. -/
def Obligations.CrossLane : Prop := ∀ f : Fields,
  GivesAll (.lxch f) 0 0x60 f (fun c => [(.d, f.d.toNat, fun l => c.each l (fun k => elem c.w k (c.lxch l).1)),
    (.p, f.c.toNat, fun l => boolReg (c.lxch l).2)]) ∧
  (∀ s c, Sees s 0 0x60 f c → ∀ l, (c.exchange l).2 = true → (c.exchange l).1 = 0 ∧ c.g.dead ≠ 0) ∧
  GivesAll (.poll f) 0 0x61 f (fun c =>
    let m := maskWhere (fun l => hasLane c.exec l && ((c.A l != 0) != c.fnBit 2))
    match fnOf f % 4 with
    | 0 => [(.p, f.d.toNat, fun _ => boolReg (decide (m = c.exec)))]
    | 1 => [(.p, f.d.toNat, fun _ => boolReg (decide (m ≠ 0)))]
    | 2 => [(.p, f.d.toNat, fun _ => boolReg (decide (m = c.exec ∨ m = 0)))]
    | _ => [(.d, f.d.toNat, fun _ => m.setWidth 64)]) ∧
  GivesD (.rfal f) 0x62 f (fun c l => c.each l (fun k => elem c.w k (c.A (lowLane c.exec)))) ∧
  GivesD (.peers f) 0x63 f (fun c l =>
    (maskWhere (fun m => hasLane c.exec m && sameKey c.w (c.fnBit 0) (keyOf c (c.A l)) (keyOf c (c.A m)))).setWidth 64) ∧
  GivesD (.lfold f) 0x64 f (fun c l => c.each l (fun k => lfoldTree (fnOf f) c.w ((List.range 32).map (fun i =>
    if hasLane c.exec i then elem c.w k (c.A i) else foldId (fnOf f) c.w)))) ∧
  GivesD (.scan f) 0x65 f (fun c l => c.each l (fun k =>
    ((lanesOf c.exec).filter (fun i => decide (i < l) || (i == l && !modBit f 5))).foldl
      (fun acc i => foldOp (fnOf f) c.w acc (elem c.w k (c.A i))) (foldId (fnOf f) c.w)))

/-- R135, R136: the UNI instructions compute once for the agent, when its guard holds in an active lane, and leave q[D] as it was
when it holds in none; q31 keeps zero. -/
def Obligations.Uniform : Prop := ∀ f : Fields,
  GivesUni (.uadd f) 0x01 f (uniElems (fun x y _ => x + y)) ∧
  GivesUni (.usub f) 0x02 f (uniElems (fun x y _ => x - y)) ∧
  GivesUni (.umul f) 0x03 f (uniElems (fun x y _ => x * y)) ∧
  GivesUni (.umad f) 0x05 f (uniElems (fun x y z => x * y + z)) ∧
  GivesUni (.umulh f) 0x04 f (uniPlain (fun w x y => x * y / 2 ^ w)) ∧
  GivesUni (.umin f) 0x06 f (uniPlain (fun _ x y => min x y)) ∧
  GivesUni (.umax f) 0x07 f (uniPlain (fun _ x y => max x y)) ∧
  GivesUni (.uand f) 0x10 f (fun c => c.A 0 &&& c.Bi 0) ∧
  GivesUni (.uor f) 0x11 f (fun c => c.A 0 ||| c.Bi 0) ∧
  GivesUni (.uxor f) 0x12 f (fun c => c.A 0 ^^^ c.Bi 0) ∧
  GivesUni (.ushl f) 0x13 f (uniShifts (fun w a b => a * 2 ^ (b % w) % 2 ^ w)) ∧
  GivesUni (.ushr f) 0x14 f (uniShifts (fun w a b => a / 2 ^ (b % w))) ∧
  GivesUni (.usar f) 0x15 f (uniShifts (fun w a b => wrap w (sInt w a / 2 ^ (b % w)))) ∧
  GivesUni (.umov f) 0x20 f (fun c => c.A 0) ∧
  GivesUni (.umovi f) 0x21 f (fun c =>
    if bitAt (fnOf f) 3 then setElem 16 (fnOf f % 4) (c.D 0) (imm16 f) else immInt c.w (imm16 f)) ∧
  GivesUni (.usel f) 0x22 f (fun c => if c.C 0 != 0 then c.A 0 else c.B 0) ∧
  GivesUni (.ucmp f) 0x23 f (fun c =>
    boolReg (icmp (fnOf f % 8) c.w (c.fnBit 3) (elem c.w 0 (c.A 0)) (elem c.w 0 (c.Bi 0))))

/-- R42, R43, R138, R265, R329: SREAD in each executing lane and USREAD once give the special register of their selector,
as Flags.lean gives it: here every one of them, by the state; a reserved selector reads zero. SLICEMASK of a whole agent counts its
live slices as its own (the model's reading, log 42); BLOCKIDX of a heat is its SEQ (R265). -/
def Obligations.SpecialRegisterReads : Prop := ∀ f : Fields,
  (∀ s c, Sees s 6 0x03 f c → c.Unhindered s false [] → c.Landed .d f.d.toNat →
    Results (.sread f) s c [(.d, f.d.toNat, fun l => c.special s (modF f 7 0) l)]) ∧
  (∀ s c, Sees s 1 0x31 f c → c.Unhindered s false [] → c.Landed .q f.d.toNat →
    Results (.usread f) s c [(.q, f.d.toNat, fun _ => c.special s (modF f 7 0) 0)]) ∧
  (∀ (c : Ctx) (s : State) (lane : Nat),
    c.special s 0x00 lane = BitVec.ofNat 64 lane ∧ c.special s 0x01 lane = BitVec.ofNat 64 (lane / 4) ∧
    c.special s 0x02 lane = BitVec.ofNat 64 (lane / 8) ∧ c.special s 0x10 lane = c.act.setWidth 64 ∧
    c.special s 0x11 lane = c.g.dead.setWidth 64 ∧ c.special s 0x18 lane = BitVec.ofNat 64 s.pkg.clock ∧
    c.special s 0x19 lane = BitVec.ofNat 64 s.pkg.nano ∧ c.special s 0x0A lane = BitVec.ofNat 64 s.pkg.pkgid ∧
    c.special s 0x22 lane = c.g.signature.setWidth 64 ∧ c.special s 0x28 lane = c.g.regs.trapCode ∧
    c.special s 0x29 lane = c.g.regs.trapPc ∧ c.special s 0x2A lane = c.g.regs.trapLanes ∧
    c.special s 0x2B lane = c.g.regs.trapAddr ∧ c.special s 0x2C lane = c.g.regs.trapAux ∧
    c.special s 0x30 lane = c.g.regs.miStatus ∧ c.special s 0x31 lane = c.g.regs.miResid ∧
    c.special s 0x32 lane = c.g.regs.miCount ∧
    c.special s 0x03 lane = BitVec.ofNat 64 c.g.index ∧ c.special s 0x04 lane = BitVec.ofNat 64 c.hdr.gangs ∧
    (∀ l, s.launch? c.blk.launch = some l →
      (l.heat = none → c.special s 0x05 lane = BitVec.ofNat 64 (c.blk.number % c.hdr.gridx) ∧
        c.special s 0x06 lane = BitVec.ofNat 64 (c.blk.number / c.hdr.gridx % c.hdr.gridy) ∧
        c.special s 0x07 lane = BitVec.ofNat 64 (c.blk.number / (c.hdr.gridx * c.hdr.gridy))) ∧
      (∀ seq slot recs, l.heat = some (seq, slot, recs) → c.special s 0x05 lane = BitVec.ofNat 64 (seq % 2 ^ 32) ∧
        c.special s 0x06 lane = 0 ∧ c.special s 0x07 lane = 0)) ∧
    c.special s 0x08 lane = BitVec.ofNat 64 (c.blk.cluster / 4) ∧
    c.special s 0x09 lane = BitVec.ofNat 64 (c.blk.cluster / 16) ∧
    c.special s 0x0B lane = BitVec.ofNat 64 c.g.nest ∧ c.special s 0x0C lane = BitVec.ofNat 64 c.hdr.nestlim ∧
    (c.g.nslices ≤ 8 → (∀ i ∈ c.g.members c.aid.slice, i < 8) → ∀ i, i < 8 →
      ((c.special s 0x12 lane).getLsbD i = true ↔ i ∈ c.g.members c.aid.slice) ∧
      ((c.special s 0x12 lane).getLsbD (8 + i) = true ↔ i ∈ c.g.liveSlices)) ∧
    (c.AmaxLanded → c.special s 0x20 lane = c.g.getR .amax 0 lane) ∧
    c.special s 0x21 lane = (if c.hdr.check then 1 else 0) ∧ c.special s 0x38 lane = BitVec.ofNat 64 c.blk.argbase ∧
    c.special s 0x39 lane = BitVec.ofNat 64 c.hdr.scratch ∧
    (∀ n, (n ∈ [0x0D, 0x0E, 0x0F] ∨ (0x13 ≤ n ∧ n ≤ 0x17) ∨ (0x1A ≤ n ∧ n ≤ 0x1F) ∨ (0x23 ≤ n ∧ n ≤ 0x27) ∨
      (0x2D ≤ n ∧ n ≤ 0x2F) ∨ (0x33 ≤ n ∧ n ≤ 0x37) ∨ 0x3A ≤ n) → c.special s n lane = 0))

/-- R122, R123: the conversions write D, the INVALID predicate and AMAX as their options ask. -/
def Obligations.Conversions : Prop := ∀ f : Fields,
  Converts (.cvt f) 0x40 f false ∧ Converts (.cvtq f) 0x41 f true ∧ Converts (.cvtd f) 0x42 f true

/-- R123, R329: AMXRD reads AMAX and clears it with .clr; AMXSET and an SWRITE of AMAX set it to the absolute value. -/
def Obligations.AmaxInstructions : Prop := ∀ f : Fields,
  (∀ s c, Sees s 0 0x43 f c → c.Unhindered s false [] → c.AmaxLanded → c.Landed .d f.d.toNat →
    Results (.amxrd f) s c ((.d, f.d.toNat, fun l => c.g.getR .amax 0 l) ::
      (if modBit f 0 then [(.amax, 0, fun _ => 0)] else []))) ∧
  (∀ s c, Sees s 0 0x44 f c → c.Unhindered s false [] → c.AmaxLanded →
    Results (.amxset f) s c [(.amax, 0, fun l => (BitVec.ofNat 32 (amxset (c.A l))).setWidth 64)]) ∧
  (∀ s c, Sees s 6 0x04 f c → c.Unhindered s false [] → c.AmaxLanded → modF f 7 0 = 0x20 →
    Results (.swrite f) s c [(.amax, 0, fun l => (BitVec.ofNat 32 (amxset (c.A l))).setWidth 64)])

/-- R287, R288, R332: VSTAT and DEADRD read the view status word and the dead masks, and clear with .clr. -/
def Obligations.StatusReads : Prop := ∀ f : Fields,
  (∀ s c, Sees s 4 0x03 f c → c.Unhindered s false [] → c.Landed .q f.d.toNat →
    ResultsFrom (.vstat f) s
      (if modBit f 3 && c.any then
         s.modGang c.g.id (fun g => { g with viewStatus := mapSet g.viewStatus (modF f 2 0) 0 }) else s)
      c [(.q, f.d.toNat, fun _ => mapGet c.g.viewStatus (modF f 2 0))]) ∧
  (∀ s c, Sees s 6 0x07 f c → c.Unhindered s false [] → c.Landed .d f.d.toNat →
    ResultsFrom (.deadrd f) s
      (if modBit f 0 && c.any then s.modGang c.g.id (fun g => { g with newDead := 0 }) else s)
      c [(.d, f.d.toNat, fun _ => c.g.dead.setWidth 64 ||| (c.g.newDead.setWidth 64 <<< 32))])

/-- R163, R172, R173: MCOEF widens its operand to FP64 exactly; MISTAT, once the gang has no operation in the engine, gives
the iteration registers; MNORM, once its entries have left the engine, gives their result. -/
def Obligations.IterationReads : Prop := ∀ f : Fields,
  (∀ s c, Sees s 3 0x10 f c → c.Unhindered s false [] → c.engineThere → c.Landed .c f.d.toNat →
    Results (.mcoef f) s c [(.c, f.d.toNat, fun _ =>
      let x := if immOf f then BitVec.ofNat 64 (imm16 f) else c.A c.low
      let t := if immOf f then fp16 else match modF f 1 0 with
        | 0 => fp64
        | 1 => fp32
        | _ => fp16
      BitVec.ofNat 64 (fp64.ne (t.decode (x.toNat % 2 ^ t.width))))]) ∧
  (∀ s c, Sees s 3 0x14 f c → c.Unhindered s false [] → c.engineThere → c.Landed .q f.d.toNat →
    s.mxBusy c.g.id = false →
    Results (.mistat f) s c [(.q, f.d.toNat, fun _ => if modBit f 0 then c.g.regs.miResid
      else BitVec.ofNat 64 (c.g.regs.miStatus.toNat % 256 + 2 ^ 16 * (c.g.regs.miCount.toNat % 2 ^ 16)))]) ∧
  (∀ s c id v, Sees s 3 0x13 f c → c.Unhindered s false [] → c.engineThere →
    c.Landed .q f.d.toNat → s.mnormOf c.lead.hold = some (id, some v) →
    Results (.mnorm f) s c [(.q, f.d.toNat, fun _ => v.1)])

/-- R74, R229, R237, R238, R247: instructions that leave registers and memory alone: NOP, PAD, YIELD, a KWAIT whose
counters are at most LIM, a SIGCHK of a signature that agrees (or by a slice). YIELD offers the easel. -/
def Obligations.NoRegisterEffect : Prop := ∀ f : Fields,
  (∀ cls s c, Sees s cls.toNat 0 f c → c.Undisturbed s → DoneFrom (.nop cls f) s s c) ∧
  (∀ s c, Sees s 5 0x03 f c → c.Unhindered s false [] → DoneFrom (.pad f) s s c) ∧
  (∀ s c, Sees s 5 0x0A f c → c.Unhindered s false [] → DoneFrom (.yield f) s s c) ∧
  (∀ s c, Sees s 5 0x0A f c → c.Unhindered s false [] → c.exec ≠ 0 →
    ∃ t g, exec (.yield f) s = .next t ∧ t.gang? c.g.id = some g ∧ g.cede = true) ∧
  (∀ s c, Sees s 5 0x0B f c → c.Unhindered s false [] →
    let p := match c.lead.hold with
      | .kwait m n => (m, n)
      | _ => (modF f 5 0, modF f 11 6)
    (∀ j, j < 6 → bitAt p.1 j = true → c.g.getK j ≤ p.2) → DoneFrom (.kwait f) s s c) ∧
  (∀ s c, Sees s 5 0x1C f c → c.Unhindered s false [] →
    (c.aid.slice = none → c.g.signature.toNat = sigValue f) → DoneFrom (.sigchk f) s s c)

/-- R74, R78: an opcode of no instruction raises ILLEGAL_OP: cause 2 for 0x7F, else 1; while its gang is in the handler of
another agent, its agent is held there instead (R324). -/
def Obligations.UnassignedOpcodes : Prop := ∀ (cls : BitVec 3) (op : BitVec 7) (f : Fields) (s : State) (c : Ctx),
  Sees s cls.toNat op.toNat f c → c.Undisturbed s → c.Anew s →
  (c.barred = false → exec (.unassignedOpcode cls op f) s = .next ((s.begun c.aid).takeTrap c.aid
    ⟨0x02, c.pc, c.act, 0, if op = 0x7F then 2 else 1⟩ c.lim)) ∧
  (c.barred = true → ∃ t g, exec (.unassignedOpcode cls op f) s = .next t ∧ t.gang? c.g.id = some g ∧
    Frame nothing (fun _ => False) s t ∧
    c.g.become g c.aid.slice (fun _ x y => y.hold = .handler ∧ y.point = x.point ∧ y.active = x.active))

/-- R32, R226: BRA, guarded or not: the lanes that take it go to the target; where a slice has others, a deferred entry
holds them, and where a slice has none it goes on with its stacks. A BRA that no lane takes changes nothing but the point; a
gang of which some slices take it and others do not parts (R29). -/
def Obligations.Branches : Prop := ∀ f : Fields,
  BranchTransfers (.bra f) f ∧ BranchTransfers (.braGuarded f) f ∧
  (∀ s c, Sees s 5 0x01 f c → c.Unhindered s false [] → c.braTarget (s.begun c.aid) = none →
    c.codeThere (s.begun c.aid) [c.words18] → c.exec = 0 → DoneFrom (.braGuarded f) s s c)

/-- R227, R228, R230: BRX and CALLX transfer each slice to the target of its table entry; CALLX pushes a call entry. -/
def Obligations.TableBranches : Prop := ∀ f : Fields,
  TableTransfers (.brx f) 0x02 f false ∧ TableTransfers (.callx f) 0x05 f true

/-- R230 to R232: CALL pushes the return point; RET of all of a slice's lanes, outside loops, goes back to it with the
lanes that returned before; lanes that a RET leaves go on in the call while those that took it wait in its entry, and where it
leaves none but entries were deferred in the call, the slice acts as if it had reached their join; LOOP enters its body or
passes it by. -/
def Obligations.CallReturnLoop : Prop := ∀ f : Fields,
  (∀ s c, Sees s 5 0x04 f c → c.Unhindered s false [] → c.badTargetTrap (s.begun c.aid) c.words18 c.act = none →
    c.codeThere (s.begun c.aid) [c.words18] → (∀ q ∈ c.running, q.2.calls.length < 8) →
    Transfers (.call f) s c (fun _ x y => y.point = .atHeader c.words18 ∧ y.active = x.active ∧
      y.calls = ⟨x.point.skip c.words, x.deferred.length, x.loops.length, 0⟩ :: x.calls)) ∧
  (∀ s c, Sees s 5 0x06 f c → c.Unhindered s false [] →
    (∀ q ∈ c.running, q.1 < c.g.nslices ∧ ∃ e t, q.2.calls = e :: t ∧ q.2.active &&& ~~~c.exec = 0 ∧ q.2.deferred.length ≤ e.dd ∧
      q.2.loops = []) →
    Transfers (.ret f) s c (fun _ x y => ∀ e t, x.calls = e :: t → y.point.pc = e.ret.pc ∧
      y.active = e.back ||| x.active ∧ y.calls = t ∧ y.deferred = x.deferred)) ∧
  (∀ s c, Sees s 5 0x06 f c → c.Unhindered s false [] →
    (∀ q ∈ c.running, q.2.calls ≠ [] ∧ q.2.active &&& ~~~c.exec ≠ 0 ∧ c.staysInBody q.2) →
    Transfers (.ret f) s c (fun _ x y => y.point.pc = x.point.pc + 4 * c.words ∧ y.active = x.active &&& ~~~c.exec ∧
      y.deferred = x.deferred ∧ y.loops = x.loops ∧
      ∀ e t, x.calls = e :: t → y.calls = { e with back := e.back ||| (x.active &&& c.exec) } :: t)) ∧
  (∀ s c, Sees s 5 0x06 f c → c.Unhindered s false [] →
    (∀ q ∈ c.running, q.1 < c.g.nslices ∧ ∃ e t d u, q.2.calls = e :: t ∧ q.2.deferred = d :: u ∧ e.dd < q.2.deferred.length ∧
      q.2.active &&& ~~~c.exec = 0 ∧ q.2.loops = [] ∧ (if d.arrived then d.taken else d.mask) ≠ 0) →
    Transfers (.ret f) s c (fun _ x y => ∀ e t d u, x.calls = e :: t → x.deferred = d :: u →
      y.calls = { e with back := e.back ||| x.active } :: t ∧ y.loops = [] ∧
      (d.arrived = false → y.active = d.mask ∧ y.point.pc = d.dest.pc ∧
        y.deferred = { d with taken := 0, arrived := true } :: u) ∧
      (d.arrived = true → y.active = d.taken ∧ y.point.pc = d.join ∧ y.deferred = u))) ∧
  (∀ s c, Sees s 5 0x07 f c → c.Unhindered s (f.cq && decide (2 ^ 32 ≤ (c.C 0).toNat)) [] →
    c.badTargetTrap (s.begun c.aid) c.words18 c.act = none → c.codeThere (s.begun c.aid) [c.words18] →
    c.loopCause4 (s.begun c.aid) = 0 →
    Transfers (.loop f) s c (fun _ x y => y.active = x.active ∧
      if c.loopCount = 0 then y.point = .atHeader ((s.begun c.aid).clauseEnd c.blk.part c.words18) ∧ y.loops = x.loops
      else y.point = .atHeader x.point.stop ∧
        y.loops = ⟨x.point.stop, c.words18, (s.begun c.aid).clauseEnd c.blk.part c.words18, c.loopCount,
          x.deferred.length⟩ :: x.loops))

/-- R46, R235, R231: EXIT's executing lanes have exited; so have those of a RET outside any call. -/
def Obligations.LanesExit : Prop := ∀ f : Fields,
  (∀ s c, Sees s 5 0x08 f c → c.Unhindered s false c.pixelReg → (∀ q ∈ c.running, q.2.loops = []) →
    ∃ t g, exec (.exit f) s = .next t ∧ t.gang? c.g.id = some g ∧
      g.exited &&& (c.g.exited ||| c.exec) = c.g.exited ||| c.exec ∧ g.dead = c.g.dead ∧
      ∀ r x l, g.getR r x l = c.g.getR r x l) ∧
  (∀ s c, Sees s 5 0x06 f c → c.Unhindered s false c.pixelReg → (∀ q ∈ c.running, q.2.calls = [] ∧ q.2.loops = []) →
    ∃ t g, exec (.ret f) s = .next t ∧ t.gang? c.g.id = some g ∧
      g.exited &&& (c.g.exited ||| c.exec) = c.g.exited ||| c.exec)

/-- R31, R217: REGANG of a whole gang completes and orders its accesses by a fence at gang scope; the last slice of a
parted gang to reach it at one address makes the gang whole; where the slices wait at different addresses each goes on behind its
own REGANG, and the gang stays parted. -/
def Obligations.Rejoining : Prop := ∀ f s c, Sees s 5 0x09 f c → c.Unhindered s false [] →
  (c.aid.slice = none → ∃ t, exec (.regang f) s = .next t ∧ Frame nothing (· = 0x07) s t ∧
    t.fl.fences = s.fl.fences ++ [⟨s.fresh, c.g.id, none, 2, 0, false⟩]) ∧
  (∀ i, c.aid.slice = some i → c.g.whole = false → i ∈ c.g.liveSlices →
    (∀ j ∈ c.g.liveSlices, j ≠ i → ∃ x st xt, c.g.slice? j = some x ∧ x.hold = .regang c.pc st xt) →
    ∃ t g, exec (.regang f) s = .next t ∧ t.gang? c.g.id = some g ∧ g.whole = true ∧ Frame nothing (· = 0x07) s t) ∧
  (∀ i, c.aid.slice = some i → c.g.whole = false → i ∈ c.g.liveSlices →
    (∀ j ∈ c.g.liveSlices, j ≠ i → ∃ x pc st xt, c.g.slice? j = some x ∧ x.hold = .regang pc st xt) →
    (∃ j ∈ c.g.liveSlices, j ≠ i ∧ ∃ x pc st xt, c.g.slice? j = some x ∧ x.hold = .regang pc st xt ∧ pc ≠ c.pc) →
    ∃ t g, exec (.regang f) s = .next t ∧ t.gang? c.g.id = some g ∧ g.whole = false ∧ Frame nothing (· = 0x07) s t ∧
      (∃ n, t.fl.fences = s.fl.fences ++ [⟨n, c.g.id, none, 2, 0, false⟩]) ∧
      ∀ j ∈ c.g.liveSlices, ∀ x, c.g.slice? j = some x → ∃ y, g.slice? j = some y ∧
        (j = i → x.goesPast f.x y) ∧ ∀ pc st xt, j ≠ i → x.hold = .regang pc st xt → x.goesPast xt y)

/-- R240, R241, R243: the barrier object after BARINIT, BARXB and a gang's BARARV, whole or slice by slice; BARWAIT and BARSYNC
complete and go on once the phase has. That a slice's second arrival changes nothing, and that what follows an arrival of its gang which
is still to take effect waits for it, is the model's reading (log 47). -/
def Obligations.Barriers : Prop := ∀ (f : Fields) (s : State) (c : Ctx) (o : Nat) (d : Block),
  s.block? c.g.block = some d → c.namesBar o →
  (Sees s 5 0x10 f c → c.Unhindered s (modBit f 6 && (f.bq || c.any) && decide (2 ^ c.hdr.gangs ≤ c.B32)) [] →
    LeavesBar (.barinit f) s c o
      (let n := c.barNew (s.begun c.aid)
       if (d.bar o).expect = n.expect ∧ (d.bar o).live = n.live ∧ (d.bar o).members = n.members then d.bar o else n)) ∧
  (Sees s 5 0x13 f c → c.Unhindered s ((f.bq || c.any) && decide (2 ^ 36 ≤ (c.B c.low).toNat)) [] →
    LeavesBar (.barxb f) s c o ((d.bar o).addBytes (c.B c.low).toNat)) ∧
  (Sees s 5 0x11 f c → c.Unhindered s false [] → c.aid.slice = none →
    (s.begun c.aid).released c.g.id s.fresh none c.g.block c.wing 1 = true →
    LeavesBar (.bararv f) s c o ((d.bar o).arrival c.g.index)) ∧
  (Sees s 5 0x12 f c → c.Unhindered s false [] →
    ((∀ x n, c.lead.hold ≠ .barwait x n) → (d.bar o).passed (c.B32 % 4096) = true → LeavesBar (.barwait f) s c o (d.bar o)) ∧
    (∀ n, c.lead.hold = .barwait o n → (d.bar o).passed n = true → ∃ t e, exec (.barwait f) s = .next t ∧
      t.block? c.g.block = some e ∧ e.bar o = d.bar o ∧ c.goesOn t)) ∧
  (Sees s 5 0x14 f c → c.Unhindered s false [] → c.aid.slice = none → (∀ x n, c.lead.hold ≠ .barsync x n) →
    (s.begun c.aid).released c.g.id s.fresh none c.g.block c.wing 1 = true →
    ((d.bar o).arrival c.g.index).passed (d.bar o).phase = true →
    LeavesBar (.barsync f) s c o ((d.bar o).arrival c.g.index)) ∧
  (∀ i, c.aid.slice = some i → i ∈ c.g.liveSlices → c.Unhindered s false [] →
    (s.begun c.aid).released c.g.id s.fresh (some i) c.g.block c.wing 1 = true → (c.g.arrivals.map (·.off)).Nodup →
    (∀ a ∈ c.g.arrivals, a.off ≠ o → c.g.allArrived a = false) →
    (Sees s 5 0x11 f c → SliceArrival (.bararv f) false s c o i (d.bar o)) ∧
    (Sees s 5 0x14 f c → (∀ x n, c.lead.hold ≠ .barsync x n) → SliceArrival (.barsync f) true s c o i (d.bar o)))

/-- R242: an arrival that makes ARRIVE reach EXPECT with no bytes pending completes the phase, and the next one begins
with no arrival; one that does not leaves the phase. -/
def Obligations.PhaseCompletion : Prop := ∀ (b : Bar) (g : Nat), b.arrive < 63 →
  (b.expect ≤ b.arrive + 1 → b.pend = 0 → (b.arrival g).phase = (b.phase + 1) % 4096 ∧ (b.arrival g).arrive = 0 ∧
    (b.arrival g).arrived = 0) ∧
  (b.arrive + 1 < b.expect ∨ b.pend ≠ 0 → (b.arrival g).phase = b.phase ∧ (b.arrival g).arrive = b.arrive + 1) ∧
  (b.arrival g).expect = b.expect ∧ (b.arrival g).members = b.members ∧ (b.arrival g).pend = b.pend

/-- R245, R246: PACE counts once C + 1 is at most PACEALLOW above each neighbour's counter, and is held till then; in a cohort of one
at once; PACERD reads the counters. That both
take a neighbour's present counter, 0 of one not yet placed and no bound of one that has ended, is the model's reading (log 19); in a
launch without pacing the counter stays (log 53). -/
def Obligations.Pacing : Prop := ∀ f : Fields,
  (∀ s c d, Sees s 5 0x18 f c → c.Unhindered s false [] → c.exec ≠ 0 → s.block? c.g.block = some d →
    ∀ p q, neighbours c.hdr c.blk.number = some (p, q) →
    let within := ∀ n, s.pacerOf c.blk.launch p = some n ∨ s.pacerOf c.blk.launch q = some n → d.pacer + 1 ≤ n + c.hdr.paceallow
    (within → ∃ t e, exec (.pace f) s = .next t ∧ t.block? c.g.block = some e ∧ e.pacer = (d.pacer + 1) % 2 ^ 32 ∧
      e.store = d.store ∧ c.goesOn t) ∧
    (¬within → ∃ t e g y, exec (.pace f) s = .next t ∧ t.block? c.g.block = some e ∧ e.pacer = d.pacer ∧ e.store = d.store ∧
      t.gang? c.g.id = some g ∧ c.g.sameRegs g ∧ g.lead c.aid.slice = some y ∧ y.hold = .pace)) ∧
  (∀ s c d, Sees s 5 0x18 f c → c.Unhindered s false [] → c.exec ≠ 0 → s.block? c.g.block = some d →
    neighbours c.hdr c.blk.number = none → DoneFrom (.pace f) s (c.markSe s) c ∧
    ∃ t e, exec (.pace f) s = .next t ∧ t.block? c.g.block = some e ∧ e.store = d.store ∧
      e.pacer = if c.hdr.paceallow = 0 ∨ c.hdr.wingco = 0 then d.pacer else (d.pacer + 1) % 2 ^ 32) ∧
  (∀ s c, Sees s 5 0x19 f c → c.Unhindered s false [] → c.Landed .q f.d.toNat →
    Results (.pacerd f) s c [(.q, f.d.toNat, fun _ => BitVec.ofNat 64 (match neighbours c.hdr c.blk.number with
      | none => if modF f 1 0 = 0 then c.blk.pacer else 2 ^ 32 - 1
      | some (p, q) =>
        let x := (s.pacerOf c.blk.launch p).getD (2 ^ 32 - 1)
        let y := (s.pacerOf c.blk.launch q).getD (2 ^ 32 - 1)
        match modF f 1 0 with
        | 0 => c.blk.pacer
        | 1 => x
        | 2 => y
        | _ => min x y))])

/-- R179, R181, R184, R186, R188: LD, ST, ATOM and RED put one operation on its way, each executing lane's element at its own
address A + offset × size modulo 2^64; registers change when a sector arrives, memory when a store is performed, and
until then both are as before; a store on the lanes' stacks is performed at once, into their backing bytes, and a load
of them has its bytes at once, which is the model's reading (log 70). -/
def Obligations.AccessesIssue : Prop := ∀ f : Fields,
  AccessIssues (.ld f) 0x01 f (fun c => { (ldAccess c) with
    addr := fun l => wrap 64 ((c.A l).toNat + sext 8 (modF f 7 0) * 2 ^ f.w.toNat) })
    (fun s c => Frame nothing (· = 0x07) (s.awaiting c (ldAccess c))) ∧
  AccessIssues (.st f) 0x02 f (fun c => { (stAccess c) with
    addr := fun l => wrap 64 ((c.A l).toNat + sext 8 (modF f 7 0) * 2 ^ f.w.toNat) })
    (fun s c t => if ordOf f ≤ 1 then c.stored s t else Frame nothing (· = 0x07) (s.awaiting c (stAccess c)) t) ∧
  StoresOnStack f ∧
  AccessIssues (.atom f) 0x04 f (fun c => { (atomAccess c (modBit f 11)) with addr := fun l => (c.A l).toNat })
    (fun s c => Frame nothing (· = 0x07) ((c.markSe s).awaiting c (atomAccess c (modBit f 11)))) ∧
  AccessIssues (.red f) 0x05 f (fun c => { (atomAccess c false) with addr := fun l => (c.A l).toNat })
    (fun s c => Frame nothing (· = 0x07) ((c.markSe s).awaiting c (atomAccess c false)))

/-- R137: ULD is one relaxed load of the agent: an operation with one element at qA plus the offset, for qD. -/
def Obligations.UniformLoadIssues : Prop := ∀ f s c, Sees s 1 0x30 f c → c.Unhindered s false [] → c.exec ≠ 0 →
  s.numbered →
  let b := s.begun c.aid
  let a := wrap 64 ((c.A 0).toNat + sext 11 (modF f 10 0))
  b.fenced c.g.id c.aid.slice = false → stepOne c.hdr true (bytesOf f) (bytesOf f) [(0, a)] = none →
  (∀ v, spaceOf a = .global v → ∃ p k, b.translate c.blk.part v 0 = .ok p k) →
  ∃ t o e, exec (.uld f) s = .next t ∧ o ∈ t.fl.ops ∧ o.id = s.fresh ∧ o.gang = c.g.id ∧ o.file = .q ∧
    o.dest = f.d.toNat ∧ o.kind = .load (modBit f 11) ∧ e ∈ o.elts ∧ e.addr = a ∧ t.mem = s.mem

/-- R191 to R193, R331: FENCE and CHKPT begin a fence of their agent and do not hold it; PREF changes no value; CCTL
begins its treatment of whole lines. -/
def Obligations.FencesAndCache : Prop := ∀ f : Fields,
  (∀ s c, Sees s 2 0x06 f c → c.Unhindered s false [] → c.exec ≠ 0 → (s.begun c.aid).fenced c.g.id c.aid.slice = false →
    ∃ t, exec (.fence f) s = .next t ∧ Frame nothing (· = 0x07) s t ∧
      t.fl.fences = s.fl.fences ++ [⟨s.fresh, c.g.id, c.aid.slice, modF f 1 0, modF f 4 2, false⟩]) ∧
  (∀ s c, Sees s 6 0x06 f c → c.Unhindered s false [] → c.exec ≠ 0 → (s.begun c.aid).fenced c.g.id c.aid.slice = false →
    ∃ t, exec (.chkpt f) s = .next t ∧ Frame nothing (· = 0x07) s t ∧
      t.fl.fences = s.fl.fences ++ [⟨s.fresh, c.g.id, c.aid.slice, 1, 4, true⟩]) ∧
  (∀ s c, Sees s 2 0x07 f c → c.Unhindered s false [] → (s.begun c.aid).fenced c.g.id c.aid.slice = false →
    ∃ t g, exec (.pref f) s = .next t ∧ t.mem.bytes = s.mem.bytes ∧ t.mem.units = s.mem.units ∧ t.mem.epochs = s.mem.epochs ∧
      t.gang? c.g.id = some g ∧ ∀ r x l, g.getR r x l = c.g.getR r x l) ∧
  (∀ s c, Sees s 2 0x08 f c → c.Unhindered s false [] → c.exec ≠ 0 → (s.begun c.aid).fenced c.g.id c.aid.slice = false →
    (c.A c.low).toNat + elem 32 0 (c.B c.low) ≤ 2 ^ 56 → (c.A c.low).toNat < 2 ^ 56 →
    ∃ t o, exec (.cctl f) s = .next t ∧ t.fl.cctls = s.fl.cctls ++ [o] ∧ o.lo = (c.A c.low).toNat / 256 ∧
      o.hi = ((c.A c.low).toNat + elem 32 0 (c.B c.low) + 255) / 256 ∧ o.inv = (modF f 1 0 == 1) ∧ t.mem = s.mem)

/-- R194, R195, R197: CPA and CPT whose operands pass join the gang's open batch and the cluster's queue; a full queue
holds them elsewhere. -/
def Obligations.CopiesIssue : Prop := ∀ f : Fields,
  (∀ s c, Sees s 2 0x10 f c → c.Unhindered s false [] → c.exec ≠ 0 → (s.begun c.aid).fenced c.g.id c.aid.slice = false →
    c.copyCheck (s.begun c.aid) (cpaReq c) (if immOf f then some (c.D 0).toNat else none) = none →
    (s.fl.copies.filter (fun x => x.cluster == c.blk.cluster)).length < 128 →
    ∃ t o, exec (.cpa f) s = .next t ∧ t.fl.copies = s.fl.copies ++ [o] ∧ o.dst = (c.A c.low).toNat ∧
      o.src = (c.B c.low).toNat ∧ o.bytes = elem 32 0 (c.C c.low) ∧ o.batch = c.g.sealedN + 1 ∧ o.gang = c.g.id ∧
      o.barrier = (if immOf f then some ((c.D 0).toNat - scratchBase) else none) ∧ Frame nothing (· = 0x07) s t) ∧
  (∀ s c, Sees s 2 0x11 f c → c.Unhindered s (c.any && modBit f 13 && decide (modF f 12 9 < 12) &&
      (shapeOf (c.C c.low)).badPlaned (modF f 12 9) (c.A c.low).toNat) [] → c.exec ≠ 0 →
    (s.begun c.aid).fenced c.g.id c.aid.slice = false → (modBit f 13 = true → modF f 12 9 < 12) →
    c.copyCheck (s.begun c.aid) (cptReq c) (if immOf f then some (c.D 0).toNat else none) = none →
    (s.fl.copies.filter (fun x => x.cluster == c.blk.cluster)).length < 128 →
    ∃ t o, exec (.cpt f) s = .next t ∧ t.fl.copies = s.fl.copies ++ [o] ∧ o.rows = elem 16 0 (c.C c.low) ∧
      o.rowBytes = 4 * elem 16 1 (c.C c.low) ∧ o.spitch = 4 * elem 16 2 (c.C c.low) ∧
      o.dpitch = 4 * elem 16 3 (c.C c.low) ∧ o.batch = c.g.sealedN + 1 ∧ Frame nothing (· = 0x07) s t)

/-- R197, R198: BSEAL gives the number of the batch that it closes; BWAIT completes once no copy up to its batch is
outstanding and none has failed untold. -/
def Obligations.Batches : Prop := ∀ f : Fields,
  (∀ s c, Sees s 2 0x12 f c → c.Unhindered s false [] → c.exec ≠ 0 → (s.begun c.aid).fenced c.g.id c.aid.slice = false →
    s.sealFull c.g = false → c.Landed .q f.d.toNat →
    ResultsFrom (.bseal f) s (s.modGang c.g.id (fun g => { g with sealedN := g.sealedN + 1 })) c
      [(.q, f.d.toNat, fun _ => BitVec.ofNat 64 (c.g.sealedN + 1))]) ∧
  (∀ s c, Sees s 2 0x13 f c → c.Unhindered s false [] → (s.begun c.aid).fenced c.g.id c.aid.slice = false →
    s.batchesOpen c.g.id (match c.lead.hold with
      | .bwait m => m
      | _ => if modBit f 0 then c.g.sealedN else min (c.A 0).toNat c.g.sealedN) = false →
    (∀ x ∈ c.g.fails, x.told = true) → DoneFrom (.bwait f) s s c)

/-- R199, R200, R203, R204: GATH and COLL of a granted context with room submit one operation, numbered after the last; TLWAIT
completes once the timeline has reached the value; TLRD reads timeline, submissions or the error record, and clears the record with
.clr in the same event. -/
def Obligations.Streams : Prop := ∀ (f : Fields) (s : State) (c : Ctx) (x : StreamCtx),
  s.ctxOf c.wing (modF f 5 0) c.blk.part = some x → (s.begun c.aid).fenced c.g.id c.aid.slice = false →
  c.Unhindered s false [] → c.exec ≠ 0 →
  (∀ i ∈ ([(.gath f, 0x22, false), (.coll f, 0x23, true)] : List (Instr × Nat × Bool)), Sees s 2 i.2.1 f c →
    stepOne c.hdr true 64 64 [(0, (c.A c.low).toNat)] = none →
    (∀ v, spaceOf (c.A c.low).toNat = .global v → ∃ p k, (s.begun c.aid).translate c.blk.part v 0 = .ok p k) →
    (x.ops.filter (fun o => !o.done)).length < 64 →
    ∃ t o, exec i.1 s = .next t ∧ o.num = x.sub + 1 ∧ o.desc = (c.A c.low).toNat ∧ o.coll = i.2.2 ∧ o.done = false ∧
      t.fl.ctxs = mapWhere (fun y => y.wing == x.wing && y.ctx == x.ctx)
        (fun y => { y with sub := y.sub + 1, ops := y.ops ++ [o] }) s.fl.ctxs ∧
      Frame nothing (· = 0x07) (c.markSe s) t) ∧
  (Sees s 2 0x20 f c → (∀ m n, c.lead.hold ≠ .tlwait m n) → min (c.A 0).toNat x.sub ≤ x.time →
    DoneFrom (.tlwait f) s (s.acquire c.wing x.scope) c) ∧
  (Sees s 2 0x21 f c → c.Landed .q f.d.toNat →
    Results (.tlrd f) s c [(.q, f.d.toNat, fun _ => BitVec.ofNat 64 (match modF f 7 6 with
      | 0 => x.time
      | 1 => x.sub
      | _ => x.errNum * 2 ^ 16 + x.errMore * 2 ^ 8 + x.errCause))]) ∧
  (Sees s 2 0x21 f c → ∃ t, exec (.tlrd f) s = .next t ∧ t.fl.ctxs = if modBit f 8
    then mapWhere (fun y => y.wing == x.wing && y.ctx == x.ctx) (fun y => { y with errNum := 0, errMore := 0, errCause := 0 }) s.fl.ctxs
    else s.fl.ctxs)

/-- R142, R144 to R147, R151, R152, R155 to R157, R162, R164 to R166: the MTX instructions whose operands pass hand the engine one
entry for each band or for the tiles they name, MPOLY and MITER with the coefficients captured at issue; ACRD counts its token and
awaits its registers. That a MITER's record has RESID 0 before its first unit is the model's choice (log 99). -/
def Obligations.EngineWork : Prop := ∀ f : Fields,
  EngineTakes (.mma f) 0x01 f Ctx.mmaCause (fun _ => false) false Ctx.mmaSpans
    (fun c => (c.bands false).map (fun p => (f.d.toNat, [(f.d.toNat, p.1)],
      .mma (bandAddr (c.A p.2) f.aq false p.1 (planedBytes c.fb.af (32 * (modF f 6 0 + 1)))) (c.B p.2).toNat
        (modF f 6 0)))) (fun s _ => s) ∧
  EngineTakes (.mzero f) 0x02 f (fun _ => 0) (fun _ => false) false (fun _ => [])
    (fun c => (c.bands (modBit f 0)).map (fun p => (f.d.toNat, [(f.d.toNat, p.1)], .mzero))) (fun s _ => s) ∧
  EngineTakes (.acld f) 0x03 f (fun c => c.fmtCause (modF f 3 0)) (fun _ => false) false (fun c => c.rowSpans 0)
    (fun c => (c.bands (modBit f 13)).map (fun p => (f.d.toNat, [(f.d.toNat, p.1)],
      .acld (bandAddr (c.A p.2) f.aq (modBit f 13) p.1 (8 * elem 32 0 (c.B p.2))) (elem 32 0 (c.B p.2)) (modF f 3 0)
        (sext 8 (modF f 11 4))))) (fun s _ => s) ∧
  EngineTakes (.acst f) 0x04 f (fun c => c.fmtCause (modF f 3 0)) (fun _ => false) true (fun c => c.rowSpans 1)
    (fun c => (c.bands (modBit f 13)).map (fun p => (f.d.toNat, [(f.d.toNat, p.1)],
      .acst (bandAddr (c.A p.2) f.aq (modBit f 13) p.1 (8 * elem 32 0 (c.B p.2))) (elem 32 0 (c.B p.2)) (modF f 3 0)
        (sext 8 (modF f 11 4)) f.sat))) (fun s _ => s) ∧
  EngineTakes (.acrd f) 0x05 f (fun c => c.fmtCause (modF f 11 8)) (fun _ => false) false (fun _ => [])
    (fun _ => [(f.a.toNat, [(f.a.toNat, modF f 7 3 / 8)],
      .acrd f.d.toNat f.b.toNat (modF f 7 3) (modF f 11 8) f.sat (tokOf f))])
    (fun s c => s.counted c 32 ((.d, f.d.toNat) :: (if f.b.toNat = 7 then [] else [(.p, f.b.toNat)])) c.exec) ∧
  EngineTakes (.acwr f) 0x06 f (fun c => c.fmtCause (modF f 3 0)) (fun _ => false) false (fun _ => [])
    (fun c => [(f.d.toNat, [(f.d.toNat, modF f 8 4 / 8)],
      .acwr (modF f 8 4) (modF f 3 0) ((lanesOf c.exec).map (fun l => (l, c.A l))))]) (fun s _ => s) ∧
  EngineTakes (.plane f) 0x07 f (fun _ => if 12 ≤ modF f 3 0 then 8 else 0) (fun _ => false) true Ctx.planeSpans
    (fun c => (c.bands false).map (fun p => (0, [],
      .plane (bandAddr (c.A p.2) f.aq false p.1 (planedBytes (modF f 3 0) (32 * (modF f 10 4 + 1))))
        (bandAddr (c.B p.2) f.bq false p.1 (32 * (modF f 10 4 + 1) * codeWidth (modF f 3 0))) (modF f 10 4) (modF f 3 0))))
    (fun s _ => s) ∧
  EngineTakes (.mpoly f) 0x11 f Ctx.loopCause (fun _ => false) false (fun _ => [])
    (fun c => [(f.d.toNat, tileBands f.d.toNat ++ (if f.a = f.d then [] else tileBands f.a.toNat),
      .mpoly f.a.toNat (modF f 8 4 + 1) (modF f 3 0) ((List.range (modF f 3 0 + 1)).map (fun i => c.rd .c i 0)))])
    (fun s _ => s) ∧
  EngineTakes (.miter f) 0x12 f Ctx.loopCause (fun c => f.bq && decide (2 ^ 16 ≤ (c.B 0).toNat)) false (fun _ => [])
    (fun c => [(f.d.toNat, (List.range 4).flatMap (fun i => tileBands (f.d.toNat + i)),
      .miter (modBit f 14) (modBit f 13) (modF f 12 11) (modF f 10 6 + 1)
        (if f.bq then (c.B 0).toNat % 2 ^ 16 else modF f 5 0) 0 false 0
        ((List.range 4).map (fun i => c.rd .c i 0)) (c.rd .c 14 0) (c.rd .c 15 0))]) (fun s _ => s)

/-- R284, R287, R294, R295: VIEW and VIEWL issue their view. -/
def Obligations.ViewsIssue : Prop := ∀ f : Fields, ViewIssues (.view f) 0x01 f false ∧ ViewIssues (.viewl f) 0x02 f true

/-- R262, R263, R299: NDALLOC takes the records at the head of its pool's queue when enough are free, and gives them to
the executing lanes in ascending order; else its request waits in the pool. -/
def Obligations.RecordsAllocated : Prop := ∀ f s c n nd, Sees s 4 0x10 f c → c.Unhindered s false [] → c.exec ≠ 0 →
  c.pool (s.begun c.aid) = some (n, nd) → (lanesOf c.exec).length ≤ nd.pooln → nd.grants = [] →
  (∀ o ∈ c.g.outst, o.op ≠ c.tag) →
  let k := (lanesOf c.exec).length
  (k ≤ nd.free.length →
    ∃ t g d, exec (.ndalloc f) s = .next t ∧ t.gang? c.g.id = some g ∧ t.node? n = some d ∧ d.free = nd.free.drop k ∧
      d.grants = [] ∧ (∀ p ∈ (lanesOf c.exec).zip (sortBy id (nd.free.take k)), g.getR .d f.d.toNat p.1 = BitVec.ofNat 64 p.2) ∧
      (∀ a ∈ nd.free.take k, d.recAt a = .allocated c.g.block) ∧
      (∀ r x l, (r = .d ∧ x = f.d.toNat ∧ hasLane c.exec l = true) ∨ 32 ≤ l ∨ g.getR r x l = c.g.getR r x l) ∧
      t.mem = s.mem) ∧
  (nd.free.length < k →
    ∃ t g d q, exec (.ndalloc f) s = .next t ∧ t.gang? c.g.id = some g ∧ t.node? n = some d ∧ d.grants = [q] ∧
      q.gang = c.g.id ∧ q.slice = c.aid.slice ∧ q.lanes = c.exec ∧ q.dest = f.d.toNat ∧ d.free = nd.free ∧
      d.recs = nd.recs ∧ c.regsKept t ∧ t.mem = s.mem)

/-- R264, R266, R299: NDEMIT queues its records to the consumer, which keeps them in its open heat until that is full or
due; NDDONE returns its records to the tail of their pools in ascending order; NDLAUNCH launches the consumer's open
heat as one block. -/
def Obligations.RecordsMoved : Prop := ∀ (f : Fields) (s : State) (c : Ctx) (n : Nat × Nat) (gr : Graph) (nd : Node),
  c.Unhindered s false [] → c.exec ≠ 0 → s.graph? n.1 = some gr → gr.node? n.2 = some nd →
  (Sees s 4 0x11 f c → c.consumer (s.begun c.aid) (modF f 2 0) = some n →
    c.badRecs (fun a => (s.begun c.aid).recIs n.1 a (· == .allocated c.g.block)) = [] →
    (s.begun c.aid).released c.g.id s.fresh c.aid.slice c.g.block c.wing 4 = true →
    (s.begun c.aid).fenced c.g.id c.aid.slice = false →
    gr.doomed n.2 = false → nd.state.over = false → nd.open_.length + c.names.length < nd.heat →
    ∃ t d, exec (.ndemit f) s = .next t ∧ t.node? n = some d ∧ d.open_ = nd.open_ ++ c.names ∧
      d.deadline = some (nd.deadline.getD (s.pkg.clock + nd.timeout)) ∧
      (∀ a ∈ c.names, t.recIs n.1 a (· == .queued n.2 nd.seq) = true) ∧ c.regsKept t ∧ t.mem = s.mem) ∧
  (Sees s 4 0x12 f c → (s.begun c.aid).nodeOf c.g = some n → (∀ x ∈ gr.nodes, x.grants = []) →
    c.badRecs (fun a => (s.begun c.aid).recIs n.1 a
      (fun r => r == .allocated c.g.block || r == .delivered c.g.block)) = [] →
    ∃ t, exec (.nddone f) s = .next t ∧ c.regsKept t ∧ t.mem = s.mem ∧
      ∀ i x, gr.node? i = some x → ∃ y, t.node? (n.1, i) = some y ∧
        y.free = x.free ++ sortBy id ((x.recs.filter (fun r => r.2.heldBy c.g.block && c.names.contains r.1)).map (·.1)) ∧
        ∀ a, y.recAt a = if a ∈ c.names ∧ (x.recAt a).heldBy c.g.block = true then .free else x.recAt a) ∧
  (Sees s 4 0x13 f c → c.consumer (s.begun c.aid) (modF f 2 0) = some n → gr.doomed n.2 = false → nd.open_ ≠ [] →
    ∀ h, nd.hdr = some h →
    ∃ t d l, exec (.ndlaunch f) s = .next t ∧ t.node? n = some d ∧ d.open_ = [] ∧ d.deadline = none ∧
      d.seq = nd.seq + 1 ∧ d.heatsLive = nd.heatsLive + 1 ∧ l ∈ t.launches ∧ l.node = some n ∧ l.total = 1 ∧
      l.heat = some (nd.seq, s.heatSlot gr.part n.1 n.2 nd.seq, nd.open_) ∧ l.hdr = { h with argbase := s.heatSlot gr.part n.1 n.2 nd.seq } ∧
      c.regsKept t ∧ t.mem = s.mem) ∧
  (Sees s 4 0x13 f c → c.consumer (s.begun c.aid) (modF f 2 0) = some n → nd.open_ = [] →
    DoneFrom (.ndlaunch f) s (c.markSe s) c)

/-- R327, R325: TRAP parks its agent with its call number for the supervisor and its gang has an effect to keep; it
changes no register and no memory. -/
def Obligations.SupervisorCalls : Prop := ∀ f s c, Sees s 6 0x01 f c → c.Unhindered s false [] → c.exec ≠ 0 →
  (∀ q ∈ c.running, q.2.loops = []) →
  ∃ t g, exec (.trap f) s = .next t ∧ t.gang? c.g.id = some g ∧
    (∀ q ∈ c.running, ∃ y, g.slice? q.1 = some y ∧ y.hold = .call f.mod.toNat c.pc) ∧
    Frame nothing (fun _ => False) (c.markSe s) t

/-- R320, R323: a delivered trap outside the handler, with a vector, writes the five trap registers, saves each slice of the
agent with the replay mask, and starts the handler at the vector with every live lane of the agent and empty stacks; no
register changes. -/
def Obligations.TrapEntersHandler : Prop := ∀ (s : State) (aid : AgentId) (t : Trap) (replay : Mask) (g : Gang),
  s.gang? aid.gang = some g → g.trapState = none → s.vector g ≠ 0 → t.code ≠ 0x15 → t.code ≠ 0x11 →
  ∃ h ts, (s.takeTrap aid t replay).gang? aid.gang = some h ∧ h.trapState = some ts ∧
    h.regs.trapCode = BitVec.ofNat 64 t.code ∧ h.regs.trapPc = BitVec.ofNat 64 t.pc ∧
    h.regs.trapLanes = t.lanes.setWidth 64 ∧ h.regs.trapAddr = BitVec.ofNat 64 t.addr ∧
    h.regs.trapAux = BitVec.ofNat 64 t.aux ∧
    ts.whole = g.whole ∧ ts.replay = replay ∧
    (∀ i ∈ g.members aid.slice, ∀ x, g.slice? i = some x → (i, x) ∈ ts.slices) ∧
    g.become h aid.slice (fun i _ y => y.point = .atHeader (s.vector g) ∧ y.active = g.live &&& sliceLanes i ∧
      y.deferred = [] ∧ y.loops = [] ∧ y.calls = [] ∧ y.budgets = [] ∧ y.hold = .none) ∧
    (∀ i, i ∉ g.members aid.slice → h.slice? i = g.slice? i) ∧ g.sameRegs h ∧
    (s.takeTrap aid t replay).mem = s.mem

/-- R321, R324, R325: without a vector, by its class or in its own handler a trap parks its agent for the supervisor, with
the five trap registers written and the trap state kept; a trap of another agent meanwhile is not taken, and its agent is
held. -/
def Obligations.TrapEscalates : Prop := ∀ (s : State) (aid : AgentId) (t : Trap) (replay : Mask) (g : Gang),
  s.gang? aid.gang = some g → (∀ v px i, g.kind ≠ .shading v px i) →
  let h? := (s.takeTrap aid t replay).gang? aid.gang
  ((g.trapState = none ∧ (s.vector g = 0 ∨ t.code = 0x15 ∨ t.code = 0x11)) ∨
      (∃ ts, g.trapState = some ts ∧ ts.has aid.slice = true) →
    ∃ h, h? = some h ∧ h.regs.trapCode = BitVec.ofNat 64 t.code ∧ h.regs.trapPc = BitVec.ofNat 64 t.pc ∧
      h.regs.trapLanes = t.lanes.setWidth 64 ∧ h.regs.trapAddr = BitVec.ofNat 64 t.addr ∧
      h.regs.trapAux = BitVec.ofNat 64 t.aux ∧ h.trapState = g.trapState ∧ g.sameRegs h ∧
      g.become h aid.slice (fun _ x y => y.hold = .escalated t.code (wordless t.code t.pc t.aux ((g.members aid.slice).filterMap g.slice?)) ∧
        y.replay = some replay ∧ y.point = x.point ∧
        y.active = x.active ∧ y.deferred = x.deferred ∧ y.loops = x.loops ∧ y.calls = x.calls)) ∧
  ((∃ ts, g.trapState = some ts ∧ ts.has aid.slice = false) →
    ∃ h, h? = some h ∧ h.regs = g.regs ∧ h.trapState = g.trapState ∧ g.sameRegs h ∧
      g.become h aid.slice (fun _ x y => y.hold = .handler ∧ y.point = x.point ∧ y.active = x.active))

/-- R330, R33: TRET and TRET.skip of a handler that runs as the whole agent, with empty stacks, restore what the trap saved,
without the lanes that have gone since: TRET under the replay mask at the trapped word, TRET.skip behind it; a slice that has
then no active lane goes on at its join, if it has one. -/
def Obligations.HandlerReturns : Prop := ∀ (f : Fields) (skip : Bool) (s : State) (c : Ctx) (ts : TrapState),
  Sees s 6 0x05 f c → c.Unhindered s (c.badTret skip) [] → c.aid.slice = none → c.g.trapState = some ts →
  (∀ i ∈ c.g.liveSlices, bitAt ts.members i = true) → (skip = true → ts.wordless = false) →
  (ts.slices.map (·.1)).Nodup → (∀ p ∈ ts.slices, (c.g.slice? p.1).isSome = true) →
  let gone := c.g.exited ||| c.g.dead
  let words := match s.code c.blk.part ts.trap.pc with
    | some w => if w.getLsbD 28 then 2 else 1
    | none => 1
  ∃ t g, exec (if skip then .tretSkip f else .tret f) s = .next t ∧ t.gang? c.g.id = some g ∧ g.trapState = none ∧
    (g.whole = true ↔ ts.whole = true ∧ g.together) ∧ g.regs = c.g.regs ∧ c.g.sameRegs g ∧ t.mem = s.mem ∧
    (∀ p ∈ ts.slices, ∀ d, p.1 < c.g.nslices → p.2.active &&& ~~~gone = 0 → p.2.calls = [] → p.2.loops = [] → p.2.deferred = [d] →
      (if d.arrived then d.taken else d.mask) &&& ~~~gone ≠ 0 → ∃ y, g.slice? p.1 = some y ∧
        y.active = (if d.arrived then d.taken else d.mask) &&& ~~~gone ∧
        y.point = (if d.arrived then .atHeader d.join else d.dest)) ∧
    ∀ p ∈ ts.slices, p.2.active &&& ~~~gone ≠ 0 →
      ∃ y, g.slice? p.1 = some y ∧ y.active = p.2.active &&& ~~~gone ∧ y.loops = p.2.loops ∧
      y.deferred = p.2.deferred.map (fun e => { e with mask := e.mask &&& ~~~gone, taken := e.taken &&& ~~~gone }) ∧
      y.calls = p.2.calls.map (fun e => { e with back := e.back &&& ~~~gone }) ∧ y.budgets = p.2.budgets ∧
      (skip = false → y.point = p.2.point ∧
        (p.2.point.inside = true → p.2.point.pc ≠ p.2.point.stop → y.replay = some ts.replay)) ∧
      (skip = true → y.point.pc = p.2.point.pc + 4 * words ∧ y.replay = none)

/-- R158, R159, R247, R316, R324, R328: what traps at issue with nothing done: BRK, with its code and its executing lanes; every MTX
instruction without an engine; a write of CHECKMODE, which user code may not make; a SIGCHK by the whole gang of a signature
that differs, with both values. In another agent's handler nothing traps: the agent of the BRK is held at it. TRAPLANES of
a trap that names no lanes, the active lanes, is the model's reading (log 42). -/
def Obligations.InstructionTraps : Prop := ∀ (f : Fields) (s : State) (c : Ctx), c.Unhindered s false [] →
  (c.barred = true → Sees s 6 0x02 f c → c.exec ≠ 0 → ∃ t g, exec (.brk f) s = .next t ∧ t.gang? c.g.id = some g ∧
    Frame nothing (fun _ => False) s t ∧
    c.g.become g c.aid.slice (fun _ x y => y.hold = .handler ∧ y.point = x.point ∧ y.active = x.active)) ∧
  (c.barred = false →
  (Sees s 6 0x02 f c → c.exec ≠ 0 → exec (.brk f) s =
    .next ((s.begun c.aid).takeTrap c.aid ⟨0x16, c.pc, c.exec, 0, f.mod.toNat⟩ c.lim)) ∧
  (Sees s 6 0x04 f c → c.exec ≠ 0 → modF f 7 0 = 0x21 → exec (.swrite f) s =
    .next ((s.begun c.aid).takeTrap c.aid ⟨0x14, c.pc, c.act, 0, 0x21⟩ c.lim)) ∧
  (Sees s 5 0x1C f c → c.exec ≠ 0 → c.aid.slice = none → c.g.signature.toNat ≠ sigValue f → exec (.sigchk f) s =
    .next ((s.begun c.aid).takeTrap c.aid ⟨0x10, c.pc, c.exec, 0, sigValue f + 2 ^ 32 * c.g.signature.toNat⟩ c.lim)) ∧
  (∀ i ∈ ([(.mma f, 0x01), (.mzero f, 0x02), (.acld f, 0x03), (.acst f, 0x04), (.acrd f, 0x05), (.acwr f, 0x06), (.plane f, 0x07),
      (.mcoef f, 0x10), (.mpoly f, 0x11), (.miter f, 0x12), (.mnorm f, 0x13), (.mistat f, 0x14)] : List (Instr × Nat)),
    Sees s 3 i.2 f c → (i.2 = 0x12 → f.bq = true → (c.B 0).toNat < 2 ^ 16) →
    (c.hdr.nomatrix = true → exec i.1 s = .next ((s.begun c.aid).takeTrap c.aid ⟨0x17, c.pc, c.act, 0, 0⟩ c.lim)) ∧
    (c.hdr.nomatrix = false → c.blk.engineLost = true → exec i.1 s =
      .next ((s.begun c.aid).takeTrap c.aid ⟨0x17, c.pc, c.act, 0, 2⟩ c.lim))))

/-- R181, R182: an LD of which a lane's address lies in no aperture traps ADDRESS, with all such lanes and the lowest one's
address; else one with a misaligned address traps MISALIGNED. Nothing is done. That an element which
begins below STACKB and ends above it is one of the first is the model's choice (log 101). -/
def Obligations.AccessTraps : Prop := ∀ (f : Fields) (s : State) (c : Ctx), Sees s 2 0x01 f c →
  c.Unhindered s false [] → c.barred = false → (s.begun c.aid).fenced c.g.id c.aid.slice = false →
  let addr := fun (l : Nat) => wrap 64 ((c.A l).toNat + sext 8 (modF f 7 0) * 2 ^ f.w.toNat)
  let bad := (lanesOf c.exec).filter (fun l => addrCause c.hdr false (addr l) (bytesOf f) != 0)
  let off := (lanesOf c.exec).filter (fun l => addr l % bytesOf f != 0)
  (∀ l t, bad = l :: t → exec (.ld f) s = .next ((s.begun c.aid).takeTrap c.aid
    ⟨0x0B, c.pc, maskOf bad, addr l, addrCause c.hdr false (addr l) (bytesOf f)⟩ c.lim)) ∧
  (∀ l t, bad = [] → off = l :: t → exec (.ld f) s = .next ((s.begun c.aid).takeTrap c.aid
    ⟨0x0E, c.pc, maskOf off, addr l, 0⟩ c.lim))

/-- R80, R120, R184, R187, R189, R207: what arrives from the memory system and from the special functions. A load's value
reaches its register; a store leaves the combiner for its port, its wing or its home; a write on its way goes one point further;
an atomic's read-modify-write; a special function's value in one lane of those left; fixed-latency results that have landed.
That a strong store of a scope beyond the wing goes from the combiner to its home in one event is the model's reading (log 35), and that of a .q element the low half comes first its
choice (log 108). -/
def Obligations.MemoryEvents : Prop := ∀ s : State, s.errs.poison = [] →
  (∀ op lane o e sx w g, s.op? op = some o → o.kind = .load sx → o.lane? lane = some e → s.wayOf o.gang = some w →
    s.gang? o.gang = some g → s.loadReady o e w.1 w.2 = true → e.phys?.any (s.fabricHeld op) = false →
    e.phys?.any s.gone = false → s.dieOff w.2 = false → (∀ x ∈ s.fl.writes, x.bad = false) →
    (∀ x ∈ s.fl.ops, x.row ≠ some true) → (∀ x ∈ s.mem.copies, x.bad = []) →
    (∀ x, e.place = .stack x → e.cmp = 0) → o.file = .d → g.unraced → g.here e.lane →
    let b := match e.place with
      | .phys a key => s.touchLine w.2 (s.partOf w.1) key a o.ord
      | _ => s
    Happens (.loadSectorArrival op lane) s (fun t => t.mem.bytes = s.mem.bytes ∧ t.mem.units = s.mem.units ∧
      (∀ p, t.op? op = some p → e ∉ p.elts) ∧
      ∃ h, t.gang? o.gang = some h ∧ h.getR .d (o.dest + e.hi.toNat) e.lane =
        (let v := match e.place with
           | .stack _ => e.data
           | _ => b.viewPlace o.gang o.id w.1 w.2 e.place o.bytes
         if sx then BitVec.ofInt 64 (sInt (8 * o.bytes) v) else BitVec.ofNat 64 v))) ∧
  (∀ op lane o e w, s.op? op = some o → o.kind = .store → o.lane? lane = some e → s.wayOf o.gang = some w →
    s.storeReady o e w.1 w.2 = true → s.dieOff w.2 = false →
    (4 ≤ o.ord → e.phys?.any (s.fabricHeld op) = false ∧ e.phys?.any s.gone = false) →
    (∀ x b g, e.place = .scratch x → s.block? w.1 = some b → s.gang? o.gang = some g → g.arrivals = [] → g.exitDue = false →
      Happens (.storePerformed op lane) s (fun t => t.mem = s.mem ∧
      ∃ d, t.block? w.1 = some d ∧ d.scratch = mapSetAll b.scratch (leCells x o.bytes e.data))) ∧
    (∀ a k, e.place = .phys a k → o.ord ≤ 2 → Happens (.storePerformed op lane) s (fun t => t.mem = s.mem ∧
      ∃ m, t.fl.writes = s.fl.writes ++ [m] ∧ m.addr = a ∧ m.key = k ∧ m.bytes = o.bytes ∧ m.data = e.data ∧
        m.atWing = false ∧ m.block = w.1)) ∧
    (∀ a k, e.place = .phys a k → o.ord = 3 → s.homedAt w.2 a = false → Happens (.storePerformed op lane) s (fun t => t.mem = s.mem ∧
      ∃ m, t.fl.writes = s.fl.writes ++ [m] ∧ m.addr = a ∧ m.key = k ∧ m.bytes = o.bytes ∧ m.data = e.data ∧
        m.atWing = true ∧ m.wing = w.2)) ∧
    (∀ a k, e.place = .phys a k → (4 ≤ o.ord ∨ o.ord = 3 ∧ s.homedAt w.2 a = true) → Happens (.storePerformed op lane) s (fun t =>
      t.mem.bytes = (s.mem.writeN k a o.bytes e.data).bytes ∧ t.mem.units = (s.mem.writeN k a o.bytes e.data).units))) ∧
  (∀ op lane w, s.op? op = none → s.fl.writes.find? (fun w => w.id == op && w.lane == lane) = some w →
    s.writeReady w = true → s.dieOff w.wing = false →
    (w.atWing = true → s.fabricHeld op w.addr = false ∧ s.gone w.addr = false) →
    Happens (.storePerformed op lane) s (fun t => if w.atWing || s.homedAt w.wing w.addr then
        t.mem.bytes = (s.mem.writeN w.key w.addr w.bytes w.data).bytes ∧ t.fl.writes = s.fl.writes.erase w
      else t.mem = s.mem ∧ t.fl.writes = s.fl.writes.erase w ++ [{ w with atWing := true }])) ∧
  (∀ op lane o e w aop ret a k, s.op? op = some o → o.kind = .atomic aop ret → o.lane? lane = some e →
    s.wayOf o.gang = some w → s.atomReady o e w.1 w.2 = true → s.fabricHeld op a = false → s.gone a = false →
    s.dieOff w.2 = false →
    e.place = .phys a k → o.elts.filter (fun x => x.place == e.place) = [e] →
    let old := s.mem.readN k a o.bytes
    let new := atomVal aop (8 * o.bytes) old e.data e.cmp
    Happens (.atomicPerform op lane) s (fun t => t.mem.bytes = (s.mem.writeN k a o.bytes new).bytes ∧
      ∀ g, s.gang? o.gang = some g → ret = true → o.file = .d → g.unraced → g.here e.lane →
        ∃ h, t.gang? o.gang = some h ∧ h.getR .d (o.dest + e.hi.toNat) e.lane = BitVec.ofNat 64 old)) ∧
  (∀ id g, s.gang? id = some g → g.olds.any (fun o => decide (o.lands ≤ s.pkg.clock)) = true →
    Happens (.resultWriteback id) s (fun t => t.mem = s.mem ∧ ∃ h, t.gang? id = some h ∧ g.sameRegs h ∧
      h.olds = g.olds.filter (fun o => decide (s.pkg.clock < o.lands)))) ∧
  (∀ op o g, s.fl.specials.find? (fun o => o.id == op) = some o → s.twinReady o.gang o.at_ = true →
    s.gang? o.gang = some g → g.unraced → (∀ p ∈ o.vals, g.here p.1) → o.vals ≠ [] →
    (∀ w, s.wayOf o.gang = some w → s.dieOff w.2 = false) →
    Happens (.specialFunctionDelivery op) s (fun t => t.mem = s.mem ∧ ∃ p l h, (p :: l).Perm o.vals ∧
      t.gang? o.gang = some h ∧ h.getR .d o.dest p.1 = p.2 ∧
      t.fl.specials = if l = [] then s.fl.specials.filter (fun x => x.id != op)
        else mapWhere (fun x => x.id == op) (fun x => { x with vals := l }) s.fl.specials))

/-- R66, R182, R191, R193, R216, R331, R333, R346: a fence completes when what it orders is done, from .s on with the wing's
copies dropped; CCTL has treated its lines; a code word arrives; a fault is resolved or declined and its park replays. -/
def Obligations.OrderingEvents : Prop := ∀ s : State,
  (∀ op f, s.fl.fences.find? (fun f => f.id == op) = some f → s.fenceReady f = true →
    Happens (.fenceComplete op) s (fun t => t.fl.fences = s.fl.fences.filter (fun x => x.id != op) ∧
      t.mem.bytes = s.mem.bytes ∧
      (∀ w, s.wayOf f.gang = some w → f.kind ≠ 1 → 3 ≤ f.scope → ∀ c ∈ t.mem.copies, c.wing ≠ w.2) ∧
      (f.kind = 1 → t.mem = s.mem) ∧
      ∀ g, s.gang? f.gang = some g → ∃ h, t.gang? f.gang = some h ∧ g.sameRegs h ∧
        h.se = if f.chkpt then false else g.se)) ∧
  (∀ op o, s.fl.cctls.find? (fun o => o.id == op) = some o → (∀ t, o.tag = some t → s.twinReady o.gang t = true) →
    s.dieOff o.wing = false → (∀ w ∈ s.fl.writes, w.wing = o.wing → s.fabricHeld w.id w.addr = false) →
    Happens (.cctlComplete op) s (fun t => t.fl.cctls = s.fl.cctls.filter (fun x => x.id != op) ∧
      (o.inv = true → ∀ c ∈ t.mem.copies, ¬(c.wing = o.wing ∧ s.lineIn o.part o.lo o.hi (256 * c.line) = true)) ∧
      ∀ w ∈ t.fl.writes, ¬(w.atWing = true ∧ w.wing = o.wing ∧ s.lineIn o.part o.lo o.hi w.addr = true))) ∧
  (∀ id sl g x, s.gang? id = some g → g.lead sl = some x →
    (s.poisoned (.code id sl) = false → exec (.codeFetchArrival id sl false) s = .next s) ∧
    (s.otherCopy g = none → exec (.codeFetchArrival id sl true) s = .next ((s.clearPoison (· == .code id sl)).takeTrap ⟨id, sl⟩
      ⟨0x15, x.point.pc, g.activeOf sl, 0, 7⟩ (g.replayOf sl)))) ∧
  (∀ id part page, s.faultPart id = some part →
    Happens (.faultResolve id [page]) s (fun t => t.mem.bytes = s.mem.bytes ∧
      t.mem.pages = ⟨part, page, none⟩ :: s.mem.pages.filter (fun q =>
        !(q.part == part && overlaps q.spec.vbase q.spec.size page.vbase page.size)) ∧
      ∀ p, s.park? id = some p → t.park? id = some { p with ready := true })) ∧
  (∀ id part p, s.faultPart id = some part → s.park? id = some p →
    Happens (.faultDecline id) s (fun t => t.mem = s.mem ∧ t.park? id = some { p with
      unfinished := 0, refused := p.refused ||| p.unfinished, faults := [], ready := true
      refusals := p.refusals ++ p.faults.map (fun f => (f.1, f.2.1, s.declineAux part f.2.1)) })) ∧
  (∀ id p g, s.park? id = some p → s.gang? p.gang = some g → p.ready = true → s.parkHeld p = true →
    Happens (.parkReplay id) s (fun t => t.mem = s.mem ∧ ∃ h, t.gang? p.gang = some h ∧ g.sameRegs h ∧
      g.become h p.slice (fun _ x y => if x.hold = .page id then y.hold = .none ∧ y.point = x.point ∧
        y.replay = some (match x.replay with
          | some m => m &&& p.unfinished
          | none => p.unfinished) else y = x)))

/-- R142, R147, R151 to R157, R159, R164 to R169, R172, R194 to R200, R351: the engines. A copy moves its bytes and lowers its barrier's
pending count; a failed one is kept for BWAIT; a stream operation's timeline moves on; a matrix entry writes its band's
cells, each from the cells, elements and scales that the rules name; ACRD's row reaches its lanes; a MITER's unit goes on
or stops with its three registers; an engine that fails, or fails its retest, is bad from then on, and its blocks lose it.
That all writes of an operation appear in its one event, each element as one sight of its source saw it, is the model's reading
(log 36); that an integer target of ACRD takes a residue cell's value as a real source is its choice (log 106). -/
def Obligations.EngineEvents : Prop := ∀ s : State, s.errs.poison = [] →
  (∀ op c, s.fl.copies.find? (fun c => c.id == op) = some c → c.id = op →
    (s.older c.gang op).any (fun o => o.open_ && !o.isRead) = false → s.errs.deadCopy.contains c.cluster = false →
    s.dieOff (wingOf c.cluster) = false →
    let e := s.seat c.block c.gang op true
    s.fabricWaits e.part = false → s.keyHeld e (c.runs.map (fun r => (r.2.1, r.2.2))) = false → s.copyAwaits c = false →
    (∀ b o, s.copyReach e c = none → c.planed = none → c.rows = 0 → c.bytes ≠ 0 → c.barrier = none →
      (c.src + c.bytes ≤ c.dst ∨ c.dst + c.bytes ≤ c.src) → s.goneAt e [(c.src, c.bytes)] 0 = none →
      s.block? c.block = some b → c.dst = scratchBase + o → o + c.bytes ≤ e.scratch → e.scratch ≤ 2 ^ 32 →
      Happens (.copyComplete op) s (fun t => t.fl.copies = s.fl.copies.filter (fun x => x.id != op) ∧ t.mem.bytes = s.mem.bytes ∧
        ∃ d, t.block? c.block = some d ∧ ∀ x, mapGet d.scratch x =
          if o ≤ x ∧ x < o + c.bytes then BitVec.ofNat 8 (s.engByte (e.nth (c.src + (x - o))) (c.src + (x - o)))
          else mapGet b.scratch x)) ∧
    (∀ b o, c.bytes = 0 → (c.rows = 0 ∨ c.rowBytes = 0) → c.barrier = some o → s.block? c.block = some b →
      Happens (.copyComplete op) s (fun t => t.mem = s.mem ∧ ∃ d, t.block? c.block = some d ∧ d.bar o = (b.bar o).subBytes 0)) ∧
    (∀ a g, s.copyReach e c = some (a, .bad) → s.gang? c.gang = some g → Happens (.copyComplete op) s (fun t =>
      t.fl.copies = s.fl.copies.filter (fun x => x.id != op) ∧
      ∃ h, t.gang? c.gang = some h ∧ h.fails = g.fails ++ [⟨c.batch, op, a, false⟩] ∧ g.sameRegs h))) ∧
  (∀ wing ctx x o u k, s.fl.ctxs.find? (fun x => x.wing == wing && x.ctx == ctx) = some x → x.ops = [o] → o.num = x.time + 1 →
    o.done = false → o.coll = false → o.result = none → s.errs.deadStream.contains wing = false →
    s.dieOff wing = false → s.fabricWaits x.part = false →
    let e := s.seat o.block o.gang o.id false
    s.streamWaits x o x.wide = false → s.rangeReach e o.desc 64 0 = none →
    (s.engFill e (s.streamRuns x o)).gather e o.desc o.declined = .ended u k →
    Happens (.streamOpComplete wing ctx o.num) s (fun t => t.mem = u.mem ∧
      ∃ y, t.fl.ctxs.find? (fun x => x.wing == wing && x.ctx == ctx) = some y ∧ y.time = x.time + 1 ∧ y.ops = [] ∧
        y.sub = x.sub ∧ y.errCause = if k = 0 ∨ x.errCause ≠ 0 then x.errCause else k)) ∧
  (∀ j b q, s.job? j.id = some j → s.jobReady j = true → s.block? j.block = some b → j.claims = [(j.tile, q)] → q < 4 →
    let e := s.seat j.block j.gang j.id true
    let v := s.engFill e j.reads
    s.goneAt e j.reads 0 = none → s.goneAt e j.writes 1 = none →
    (j.op = .mzero → Happens (.matrixEntryComplete j.id) s (fun t => t.fl.jobs = s.fl.jobs.filter (fun x => x.id != j.id) ∧
      ∀ i n, i < 32 → n < 32 → t.cell j.block j.tile i n = if i / 8 = q then 0 else s.cell j.block j.tile i n)) ∧
    (∀ a y kn, j.op = .mma a y kn → Happens (.matrixEntryComplete j.id) s (fun t =>
      t.fl.jobs = s.fl.jobs.filter (fun x => x.id != j.id) ∧ ∀ i n, i < 32 → n < 32 → t.cell j.block j.tile i n =
        if i / 8 = q then mmaCell (fblockOf j.fb) (s.cell j.block j.tile i n)
          (v.terms e (fblockOf j.fb) a y (32 * (kn + 1)) i n)
        else s.cell j.block j.tile i n)) ∧
    (∀ a p mf se, j.op = .acld a p mf se → Happens (.matrixEntryComplete j.id) s (fun t =>
      t.fl.jobs = s.fl.jobs.filter (fun x => x.id != j.id) ∧ ∀ i n, i < 32 → n < 32 → t.cell j.block j.tile i n =
        if i / 8 = q then writeCell (fblockOf j.fb) mf se
          (v.rowElem (e.nth (32 * i + n)) ((a + i % 8 * p) % 2 ^ 64) mf n)
        else s.cell j.block j.tile i n)) ∧
    (∀ r sf vals, j.op = .acwr r sf vals → (vals.map (·.1)).Nodup → r < 32 → (∀ p ∈ vals, p.1 < 32) →
      Happens (.matrixEntryComplete j.id) s (fun t => t.fl.jobs = s.fl.jobs.filter (fun x => x.id != j.id) ∧
        (∀ p ∈ vals, t.cell j.block j.tile r p.1 = writeCell (fblockOf j.fb) sf 0 (p.2.toNat % 2 ^ rowWidth sf)) ∧
        ∀ i n, i < 32 → n < 32 → i ≠ r → t.cell j.block j.tile i n = s.cell j.block j.tile i n)) ∧
    (∀ d p r tf sat k g, j.op = .acrd d p r tf sat k → s.twinReady j.gang j.at_ = true → s.gang? j.gang = some g →
      g.unraced → (∀ l ∈ lanesOf j.lanes, g.here l) → Happens (.acrdDelivery j.id) s (fun t => t.mem = s.mem ∧
        t.fl.jobs = s.fl.jobs.filter (fun x => x.id != j.id) ∧ ∃ h, t.gang? j.gang = some h ∧ ∀ l ∈ lanesOf j.lanes,
          let v := readCell (fblockOf j.fb) tf 0 sat (s.cell j.block j.tile r l)
          h.getR .d d l = BitVec.ofNat 64 (v.1 % 2 ^ rowWidth tf) ∧ (p ≠ 7 → h.getR .p p l = if v.2 then 1 else 0)))) ∧
  (∀ j b, s.job? j.id = some j → s.jobReady j = true → s.block? j.block = some b →
    (∀ src n m cs, j.op = .mpoly src n m cs → Happens (.matrixEntryComplete j.id) s (fun t =>
      t.fl.jobs = s.fl.jobs.filter (fun x => x.id != j.id) ∧ ∀ r k, r < 32 → k < 32 → t.cell j.block j.tile r k =
        matCell (fblockOf j.fb).af n (matHorner (fblockOf j.fb).af n
          (matLoad (fblockOf j.fb).af n (s.cell j.block src)) cs m) r k)) ∧
    (∀ n kind d, j.op = .mnorm n kind d → Happens (.matrixEntryComplete j.id) s (fun t => t.mem = s.mem ∧
      t.job? j.id = some { j with op := .mnorm n kind (some (BitVec.ofNat 64 (matNorm (fblockOf j.fb).af n kind
        (matLoad (fblockOf j.fb).af n (s.cell j.block j.tile))), false)) })) ∧
    (∀ fix te deg n cap count started resid cs c14 c15 g, j.op = .miter fix te deg n cap count started resid cs c14 c15 →
      s.saving j.block = false → s.gang? j.gang = some g →
      let af := (fblockOf j.fb).af
      let x := matLoad af n (s.cell j.block j.tile)
      let u := if started then miterStep fix af n deg cap count resid cs c14 c15 x else ⟨x, 0, 0x7FF0000000000000, 0⟩
      Happens (.miterUnit j.id) s (fun t => t.mem = s.mem ∧
        (∀ r k, r < 32 → k < 32 → t.cell j.block j.tile r k = matCell af n u.x r k ∧
          t.cell j.block (j.tile + 1) r k = 0 ∧ t.cell j.block (j.tile + 2) r k = 0 ∧ t.cell j.block (j.tile + 3) r k = 0) ∧
        (u.status = 0 → t.job? j.id =
          some { j with op := .miter fix te deg n cap u.count true u.resid cs c14 c15 }) ∧
        (u.status ≠ 0 → t.job? j.id = none ∧ ∃ h, t.gang? j.gang = some h ∧ g.sameRegs h ∧
          h.regs = if j.id < g.regs.miLast then g.regs
            else { g.regs with miStatus := BitVec.ofNat 64 u.status, miResid := u.resid
                               miCount := BitVec.ofNat 64 u.count, miLast := j.id, miBad := false })))) ∧
  (∀ c, s.runs → c < Config.clusters → c ∉ s.errs.badEngines →
    Happens (.matrixEngineFail c) s (fun t => c ∈ t.errs.badEngines ∧ (∀ j ∈ t.fl.jobs, j.cluster ≠ c) ∧
      .errorEvent (.engine c) ∈ t.out ∧
      ∀ b, s.block? b.id = some b → b ∈ s.engineUsers c → ∃ d, t.block? b.id = some d ∧ d.scratch = b.scratch ∧ d.engineLost = true) ∧
    Happens (.matrixRetest c false) s (fun t => c ∈ t.errs.badEngines ∧ ∀ j ∈ t.fl.jobs, j.cluster ≠ c) ∧
    exec (.matrixRetest c true) s = .next s)

/-- R268, R285 to R287, R290, R295: the sketch unit. A turn serves the slot served longest ago; the first view that waits
with hits starts a shading gang in the lowest free place; a complete view writes its tile, its status word and frees its
slot in one event. That a pixel of a bad camera and a bad cut is null is the model's reading (log 113), and that a twin's 64 cycles count
from the primary's issue its choice (log 115). -/
def Obligations.ViewEvents : Prop := ∀ s : State,
  (∀ wing v l w, s.errs.deadSketch.contains wing = false → s.dieOff wing = false → s.slotsInTurn wing = v :: l →
    (if v.prepared then s else s.acquire wing 3).viewTurn v = some w →
    Happens (.sketchTurn wing) s (fun t => t.gangs = s.gangs ∧ t.mem.bytes = s.mem.bytes ∧
      (v.prepared = false → ∀ c ∈ t.mem.copies, c.wing ≠ wing) ∧
      ∃ y, t.view? v.id = some y ∧ y.rays = w.rays ∧ y.srcs = w.srcs ∧ y.prepared = w.prepared ∧ y.toStart = w.toStart ∧
        ∀ x ∈ s.fl.views, x.wing = wing → x.served < y.served)) ∧
  (∀ v l c i h rays rest, s.shadeWaiters v.launch v.level v.wing = v :: l → s.view? v.id = some v →
    s.freePlace v.launch v.level v.wing = some (c, i) → v.shade = some h → v.toStart = rays :: rest →
    Happens (.shadingGangStart v.id) s (fun t => t.mem = s.mem ∧
      (∃ y, t.view? v.id = some y ∧ y.toStart = rest ∧ y.running = v.running + 1) ∧
      ∃ g, t.gangs = s.gangs ++ [g] ∧ g.kind = .shading v.id (rays.map (fun r => (r.lane, r.pixel))) i ∧
        g.easel = 4 * c + i % 4 ∧ g.nest = v.level ∧ g.life = .pending ∧ g.whole = true ∧ g.nregs = h.nregs ∧
        ∀ x ∈ g.slices, x.point = .atHeader h.entry ∧ x.active &&& g.exited = 0)) ∧
  (∀ v w g, s.view? v.id = some v → s.viewDone v = some w → w.id = v.id → w.gang = v.gang → w.at_ = v.at_ →
    s.gang? v.gang = some g → g.unraced → (∀ px i, g.kind ≠ .shading v.id px i) →
    (w.tile.map (fun p => (p.1, p.2.1))).Nodup → (∀ p ∈ w.tile, p.2.1 < 32) →
    Happens (.viewDelivery v.id) s (fun t => t.mem.bytes = s.mem.bytes ∧ t.view? v.id = none ∧
      ∃ h, t.gang? v.gang = some h ∧
        (∀ p ∈ w.tile, g.here p.2.1 → h.getR .d p.1 p.2.1 = BitVec.ofNat 64 p.2.2) ∧
        (let n := (mapGet g.viewStatus w.token).toNat
         mapGet h.viewStatus w.token = BitVec.ofNat 64 (min 65535 (w.marked .malformed + w.marked .xlate) * 2 ^ 48 +
           min 65535 (n / 2 ^ 32 % 65536 + 1) * 2 ^ 32 + (n / 2 ^ 16 % 65536 ||| w.flags) * 2 ^ 16 + w.flags))))

/-- R66, R78, R244, R248 to R252, R349: the easel's cycle chooses the agent whose instruction is next, enters the clause whose
header is, or traps at a bad header, or counts what it waits for; an exchange takes the cycle, a promotion only after 256 cycles of
waiting and 32 of idling, the residency limit only after 4096; a starved barrier traps; where the two copies'
signatures agree the operation goes on, and where they differ both copies take TWIN_MISMATCH.
That a gang's idling counts from its entry at the earliest is the model's reading (log 31); so are a starved BARSYNC that still
waits for its gang, and its TRAPAUX (log 47), and the trap of a word at ENTRY that is no header is its choice (log 77). -/
def Obligations.EaselEvents : Prop := ∀ (s : State) (e : Nat),
  (s.onTurn e = true →
    let u := s.opened e
    (u.swap e = none →
      let v := if (nextIn (u.onEasel e)).isNone then u.uncede e else u
      (∀ aid g x b h, v.chosen e = some aid → v.gang? aid.gang = some g → g.lead aid.slice = some x → v.block? g.block = some b →
        v.hdrOf b = some h → v.nextTrap g aid.slice b.part h x = none →
        let cause := v.headerCause b.part h x.point.pc
        (x.point.inside = true → exec (.easelCycle e) s = .next { v with issuing := some aid }) ∧
        (x.point.inside = false → cause ≠ 0 → v.otherCopy g = none → exec (.easelCycle e) s = .next (v.takeTrap aid
          ⟨0x01, x.point.pc, g.activeOf aid.slice, 0, cause⟩ (g.replayOf aid.slice))) ∧
        (∀ hd, x.point.inside = false → cause = 0 → v.headerAt b.part x.point.pc = some hd → v.errs.poison = [] →
          Happens (.easelCycle e) s (fun t => t.issuing = some aid ∧ t.mem = v.mem ∧ ∃ k, t.gang? aid.gang = some k ∧
            g.sameRegs k ∧ g.become k aid.slice (fun _ y z => z =
              if y.point = x.point then { y with point := .enter x.point.pc hd } else y)))) ∧
      (v.chosen e = none → Happens (.easelCycle e) s (fun t => t.gangs = v.gangs ∧ t.mem = v.mem ∧ t.issuing = none ∧
        mapGet t.counters (16 * e + v.reason e) = mapGet v.counters (16 * e + v.reason e) + 1))) ∧
    (∀ c out enter, u.swap e = some (c, out, enter) →
      Happens (.easelCycle e) s (fun t => Swapped enter out u.pkg.clock t ∧ t.issuing = none ∧
        mapGet t.counters (16 * e + 10) = mapGet u.counters (16 * e + 10) + 1) ∧
      (c = .promotion → Happens (.gangPromotion e) s (Swapped enter out u.pkg.clock)) ∧
      (c = .limit → Happens (.residencyLimit e) s (Swapped enter out u.pkg.clock)))) ∧
  (∀ c out enter, s.swap e = some (c, out, enter) →
    enter.life = .pending ∧ out.life = .active ∧ ∃ r, enter.readySince = some r ∧
      (c = .promotion → 256 ≤ s.pkg.clock - r ∧ out.idleSince + 32 ≤ s.pkg.clock) ∧
      (c = .limit → 4096 ≤ s.pkg.clock - r)) ∧
  (∀ gid sl g b x o n, s.gang? gid = some g → s.block? g.block = some b → g.lead sl = some x →
    s.barrier? b.id x = some (o, n) → s.starved b = true → g.runners.contains sl = true → s.shadowOf gid = none →
    exec (.barStarved gid sl) s = .next (s.takeTrap ⟨gid, sl⟩
      ⟨0x0F, x.point.pc, g.activeOf sl, 0xFFF0000000000000 + o, n⟩ (g.replayOf sl))) ∧
  (∀ gid key g h a b, s.gang? gid = some g → s.shadowOf gid = some h → g.twin.find? (fun t => t.slice == key) = some a →
    h.twin.find? (fun t => t.slice == key) = some b → a.ok = false →
    Happens (.twinStoreCompare gid key) s (fun t => t.mem = s.mem ∧
      (twinSame a b = true → ∃ k, t.gang? gid = some k ∧ k.regs = g.regs ∧
        k.twin.find? (fun t => t.slice == key) = some { a with ok := true }) ∧
      (twinSame a b = false → s.gang? h.id = some h → h.id ≠ gid → g.trapState = none → h.trapState = none →
        (∀ v px i, g.kind ≠ .shading v px i) → ∀ c ∈ [g, h], ∃ k, t.gang? c.id = some k ∧ c.sameRegs k ∧
          k.twin.find? (fun t => t.slice == key) = none ∧ k.regs.trapCode = 0x11 ∧ k.regs.trapPc = BitVec.ofNat 64 a.pc ∧
          k.regs.trapLanes = a.mask.setWidth 64 ∧ k.regs.trapAux = BitVec.ofNat 64
            (((lanesOf (a.mask &&& b.mask)).find? (fun l => a.data.filter (fun x => x.1 == l) != b.data.filter (fun x => x.1 == l))).getD 0xFF) ∧
          let sl := if key = 8 then none else some key
          c.become k sl (fun _ x y => (∃ w, y.hold = .escalated 0x11 w) ∧ y.point = x.point ∧ y.active = x.active ∧
            y.replay = some (c.replayOf sl)))))

/-- R40, R44 to R46, R254, R257 to R260, R265: the ready pool. A doorbell sets a tail or ERR; an entry is read and its graph
refused with a completion record where it breaks a rule; a single block starts on the chosen cluster, which has room, with
its gangs at ENTRY; a head that has waited 1 ms keeps a wing; a block ends; a due heat launches, and its heat block is written when its block
starts. That it is written in the very event in which the block starts is the model's choice (log 52), and which word a graph's
refusal names, and what becomes of its record without an address, the model's reading (logs 21, 22). -/
def Obligations.PoolEvents : Prop := ∀ s : State,
  (∀ part q tail x, s.lives → s.queue? part q = some x → s.pkg.clientReady = true → s.pkg.clientUp = true →
    s.resetting part = false → Happens (.doorbell part q tail) s (fun t => t.mem = s.mem ∧ t.queue? part q =
      some (if x.entries ≤ tail then { x with err := true } else { x with tail := tail }))) ∧
  (∀ part q x, s.runs → s.queue? part q = some x → x.err = true → Happens (.queueReset part q) s (fun t => t.mem = s.mem ∧
    t.queue? part q = some { x with head := 0, tail := 0, err := false })) ∧
  (∀ part q x, s.queue? part q = some x → x.err = false → x.head ≠ x.tail → (s.part part).state = 1 →
    s.fw.restarting = false → s.dispatchTurn part = true → s.coreReads part (x.base + 64 * x.head) 64 = true →
    let e := entryAt (s.coreRead part) (x.base + 64 * x.head) x.cap
    Happens (.submissionEntryRead part q) s (fun t =>
      t.queue? part q = some { x with head := (x.head + 1) % x.entries } ∧
      ∀ w, s.graphHeadBad part e.graph = some w → (∀ g ∈ s.graphs, g.id < s.fresh) →
        s.mem.pages.any (fun p => p.part == part && p.moving.isSome && pageCovers p.spec e.compl) = false →
        (∀ l ∈ s.launches, l.node.all (fun n => decide (n.1 < s.fresh)) = true) →
        (∀ g ∈ t.graphs, g ∈ s.graphs) ∧ t.mem = (s.coreWrite part e.compl [e.tag * 2 ^ 32 + 2, 0xFFFF, w, s.pkg.nano]).mem)) ∧
  (∀ l c, s.launch? l.id = some l → s.fw.restarting = false → s.dispatchTurn l.part = true → l.again = [] → l.next < l.total →
    l.hdr.spanco = 0 →
    l.hdr.wingco = 0 → l.node = none → l.heat = none → (s.headOf l.part l.prio).map (·.id) = some l.id → s.headsAbove l.part l.prio = [] →
    s.bestCluster l false ((s.freeWings l).flatMap clustersOf) = some c → l.hdr.twin = false →
    Happens (.blockPlacement l.id) s (fun t => s.fitsOn l c false = true ∧ t.mem.bytes = s.mem.bytes ∧
      (∃ b, t.blocks = s.blocks ++ [b] ∧ b.launch = l.id ∧ b.number = l.next ∧ b.cluster = c ∧ b.part = l.part ∧
        b.resident = true ∧ b.scratch = [] ∧ b.tiles = []) ∧
      (∃ gs, t.gangs = s.gangs ++ gs ∧ gs.length = l.hdr.gangs ∧ ∀ g ∈ gs, g.life = .pending ∧ g.whole = true ∧
        g.d = [] ∧ g.q = [] ∧ g.p = [] ∧ g.signature = 0xFFFFFFFF ∧ g.easel / 4 = c ∧
        ∀ x ∈ g.slices, x.point = .atHeader l.hdr.entry) ∧
      ∃ m, t.launch? l.id = some m ∧ m.next = l.next + 1)) ∧
  (∀ l c n nd h seq a recs, s.launch? l.id = some l → s.fw.restarting = false → s.dispatchTurn l.part = true → l.again = [] →
    l.next < l.total → l.hdr.spanco = 0 → l.hdr.wingco = 0 → l.heat = some (seq, a, recs) → l.node = some n → s.node? n = some nd →
    nd.hdr = some h → s.coreReads l.part a 80 = true → (s.headOf l.part l.prio).map (·.id) = some l.id →
    s.headsAbove l.part l.prio = [] → s.bestCluster l false ((s.freeWings l).flatMap clustersOf) = some c → l.hdr.twin = false →
    Happens (.blockPlacement l.id) s (fun t => t.mem.bytes = (s.coreWrite l.part a (heatWords seq h.argbase recs)).mem.bytes ∧
      ∃ b, t.blocks = s.blocks ++ [b] ∧ b.launch = l.id ∧ b.cluster = c ∧ b.argbase = l.hdr.argbase ∧ b.resident = true ∧
        ∀ r ∈ recs, s.recIs n.1 r (· == .queued n.2 seq) = true → t.recIs n.1 r (· == .delivered b.id) = true)) ∧
  (∀ l t0 w, s.launch? l.id = some l → l.waiting = some t0 → l.wingHeld = none → t0 + 1000000 ≤ s.pkg.nano →
    s.dispatchTurn l.part = true → (s.headOf l.part l.prio).map (·.id) = some l.id → s.soonestWing l = some w →
    Happens (.headOfLevelTimeout l.id) s (fun t => t.launch? l.id = some { l with wingHeld := some w } ∧ t.mem = s.mem)) ∧
  (∀ b, s.block? b.id = some b → b.id < s.fresh → b.ended = false → b.resident = true → s.isOwn b = true →
    (∀ g ∈ s.gangsOf b.id, g.life = .ended) → s.blockQuiet b.id = true →
    Happens (.blockEnd b.id) s (fun t => ∀ d, t.block? b.id = some d → d.ended = true ∧ d.resident = false)) ∧
  (∀ gr n g nd h t0, s.graph? gr = some g → g.node? n = some nd → nd.hdr = some h → nd.open_ ≠ [] →
    nd.deadline = some t0 → t0 ≤ s.pkg.clock → s.dispatchTurn g.part = true → Happens (.heatTimeout gr n) s (fun t =>
      (∃ l, t.launches = s.launches ++ [l] ∧ l.node = some (gr, n) ∧ l.total = 1 ∧
        l.heat = some (nd.seq, s.heatSlot g.part gr n nd.seq, nd.open_) ∧ l.hdr = { h with argbase := s.heatSlot g.part gr n nd.seq }) ∧
      (∃ d, t.node? (gr, n) = some d ∧ d.open_ = [] ∧ d.deadline = none ∧ d.seq = nd.seq + 1) ∧ t.mem = s.mem))

/-- R5, R19, R20, R22, R177, R199, R254, R304 to R306, R311, R315, R318, R319, R334, R335: isolation. A table write is applied whole or refused
whole with a cause that holds; a scrub leaves zeros; a reset ends the partition's work, drops its messages and changes its
keys; interrupts leave within their budgets; a page moves with its bytes; a device reaches what is mapped for it; the register
window takes aligned 64-bit accesses only, and a reserved field of it reads zero. That
a reset's steps are one event, and leaves every interrupt masked and no message held, is the model's (logs 14, 55), and so is what
names a supervisor core's access (log 83), the page's move in one event when it is quiet (log 56), and a device's write to an
unmapped address, which is dropped (log 57). -/
def Obligations.IsolationEvents : Prop := ∀ s : State, s.lives → s.parts.length = 16 → s.funcs.length = 16 →
  (∀ part word v, 5 ≤ s.pkg.boot → part < 16 → word < 8 → Happens (.partitionTableWrite part word v) s (fun t => t.mem = s.mem ∧
    (∀ n, n ≠ part → t.part n = s.part n) ∧
    (s.refusals part word v.toNat = [] → t.part part = (s.part part).put word v.toNat) ∧
    (s.refusals part word v.toNat ≠ [] →
      ∃ c ∈ s.refusals part word v.toNat, t.part part = { s.part part with cause := c }))) ∧
  (∀ key, key < 128 → s.mem.scrubs.contains key = true → s.mem.rekeys.contains key = false →
    Happens (.backgroundScrubEnd key) s (fun t => t.mem.scrubs = s.mem.scrubs.filter (· != key) ∧
      ∀ a, a / 64 ∈ s.mem.stale key → t.mem.read key a = 0)) ∧
  (∀ fn, 1 ≤ fn → fn ≤ 16 → s.pkg.clientUp = true → s.pkg.clientReady = false ∨ s.resetting (fn - 1) = true →
    Happens (.functionLevelReset fn) s (fun t => t = { s with out := s.out ++ [.config fn true] })) ∧
  (∀ fn, 1 ≤ fn → fn ≤ 16 → s.pkg.clientUp = true → s.pkg.clientReady = true → s.resetting (fn - 1) = false →
    Happens (.functionLevelReset fn) s (fun t =>
    t.resetting (fn - 1) = true ∧ (t.func (fn - 1)).pending = [] ∧ (∀ b ∈ t.blocks, b.part ≠ fn - 1) ∧
    (∀ l ∈ t.launches, l.part ≠ fn - 1) ∧ (∀ g ∈ t.graphs, g.part ≠ fn - 1) ∧
    ∀ k, k < 128 → (s.part (fn - 1)).hasKey k = true → s.mem.scrubs.contains k = false →
      mapGet t.mem.epochs k = mapGet s.mem.epochs k + 1)) ∧
  (∀ part, (s.part part).state = 2 → Happens (.partitionResetEnd part) s (fun t => t.mem = s.mem ∧
    (t.part part).state = 0 ∧ (t.func part).unmasked = [] ∧ (t.func part).pending = [] ∧ (t.func part).msix = [] ∧
    ∀ q ∈ (t.func part).queues, q.head = 0 ∧ q.tail = 0 ∧ q.err = false)) ∧
  Happens .clientLinkReset s (fun t => t.pkg.clientUp = true ∧
    ∀ n, n < 16 → ((s.part n).state = 1 → t.resetting n = true) ∧
      ((s.part n).state = 0 → (t.func n).unmasked = [] ∧ (t.func n).pending = [] ∧
        ∀ q ∈ (t.func n).queues, q.head = 0 ∧ q.tail = 0 ∧ q.err = false)) ∧
  (s.pkg.irqWin < s.pkg.nano / 10000 → Happens .irqWindow s (fun t => t.pkg.irqWin = s.pkg.nano / 10000 ∧ t.mem = s.mem ∧
    ∀ n, (t.func n).sent ≤ (s.part n).irqBudget)) ∧
  (∀ part v, part < 16 → v < 2048 → s.pkg.clientUp = true → s.pkg.clientReady = false →
    Happens (.msixUnmask part v) s (fun t => t = { s with out := s.out ++ [.unsupported (part + 1) (0x200C + 16 * v)] })) ∧
  (∀ part v, part < 16 → v < 2048 → s.pkg.clientUp = true → s.pkg.clientReady = true → s.resetting part = false →
    Happens (.msixUnmask part v) s (fun t => t.mem = s.mem ∧
    (t.func part).unmasked.contains v = true ∧ ((s.func part).pending.contains v = false → t.out = s.out))) ∧
  (∀ part vbase pbase p, s.mem.pages.find? (fun p => p.part == part && p.spec.vbase == vbase) = some p →
    5 ≤ s.pkg.boot → s.locked part p.spec = false → pageValid p.spec = true → p.spec.key < 128 →
    pageValid { p.spec with pbase := pbase } = true →
    backed s pbase = true → backed s (pbase + p.spec.size - 1) = true → pbase ≠ p.spec.pbase →
    (p.moving = none ∨ p.moving = some pbase ∧ s.pageBusy p.spec = false) →
    Happens (.pageMigration part vbase pbase) s (fun t =>
      (s.pageBusy p.spec = true → t.mem.bytes = s.mem.bytes ∧ ∃ q,
        t.mem.pages.find? (fun p => p.part == part && p.spec.vbase == vbase) = some q ∧ q.spec = p.spec ∧ q.moving = some pbase) ∧
      (s.pageBusy p.spec = false → (∃ q, t.mem.pages.find? (fun p => p.part == part && p.spec.vbase == vbase) = some q ∧
        q.spec = { p.spec with pbase := pbase } ∧ q.moving = none) ∧
        ∀ i, i < p.spec.size → (mapGet s.mem.units ((p.spec.pbase + i) / 64)).toNat ≠ 0 →
          t.mem.read p.spec.key (pbase + i) = s.mem.read p.spec.key (p.spec.pbase + i)))) ∧
  (∀ dev a v n, (∀ x k, s.deviceByte dev a 1 = some (x, k) →
      Happens (.rootPortDeviceAccess dev a (some [v]) n) s (fun t => t.mem.bytes = (s.mem.write k x v).bytes ∧
        t.mem.units = (s.mem.write k x v).units)) ∧
    (s.deviceByte dev a 1 = none → exec (.rootPortDeviceAccess dev a (some [v]) n) s = .next s) ∧
    (∀ x k, s.deviceByte dev a 0 = some (x, k) → Happens (.rootPortDeviceAccess dev a none 1) s (fun t =>
      t.mem = s.mem ∧ t.out = s.out ++ [.device dev [(s.mem.read k x, s.physBad x 1)]]))) ∧
  (∀ core o n v, 5 ≤ s.pkg.boot → core < 32 → o < 0x10000000 → (n = 1 ∨ n = 2 ∨ n = 4 ∨ n = 8) → (n ≠ 8 ∨ o % 8 ≠ 0) →
    Happens (.registerWrite (.super core (0x80000000000000 + o) n v)) s (fun t =>
      t = { s with out := s.out ++ [.accessFault core (0x80000000000000 + o)] })) ∧
  (∀ core, 5 ≤ s.pkg.boot → core < 32 → ∀ p ∈ ([(0x10000, 0), (0x10008, s.mailbox.area - s.mailbox.area / 2 ^ 48 % 2 ^ 8 * 2 ^ 48),
      (0x10010, s.mailbox.limit), (0x20000, s.pkg.planeWord)] : List (Nat × Nat)),
    Happens (.registerWrite (.super core (0x80000000000000 + p.1) 8 none)) s (fun t =>
      t = { s with out := s.out ++ [.loaded core (0x80000000000000 + p.1) p.2 false] })) ∧
  (∀ w c p sc, 5 ≤ s.pkg.boot → (s.part p).enabled = true → (s.part p).hasWing w = true → w < Config.wings → c < 64 → p < 16 → 2 ≤ sc → sc ≤ 4 →
    Happens (.registerWrite (.context w c p sc)) s (fun t =>
    t.mem = s.mem ∧ t.ctxOf w c p = some ⟨w, c, p, sc, 0, 0, 0, 0, 0, []⟩)) ∧
  (∀ m, 5 ≤ s.pkg.boot → 0 < m → m ≤ 940 → s.sealedLive = false → Happens (.registerWrite (.clock m)) s (fun t => t.pkg.mhz = m))

/-- R325, R327, R330, R335 to R341: the supervisor ends a block, or lets an agent go on at its trapped word, behind it, or
behind its TRAP with the q registers that it writes; a pre-emption request is refused whole, done at once on an empty
cluster, or drains and saves; a settled block is written out and leaves its cluster; a context is restored as its block,
with the cells that its words hold, or discarded. That a skip without a word is not enabled is the model's reading (log 58), and so are
a flush at once and a save that waits for a decision (log 59). -/
def Obligations.SupervisorEvents : Prop := ∀ s : State, s.runs →
  (∀ b, s.block? b.id = some b → b.ended = false → b.stop.killed = false → s.isOwn b = true →
    Happens (.supervisorEndBlock b.id) s (fun t => t.mem = s.mem ∧ (∀ g ∈ t.gangs, g.block = b.id → g.life = .ended) ∧
      (b.resident = true → ∃ d, t.block? b.id = some d ∧ d.stop = .kill (s.killCode b.id) ∧ d.resident = true ∧ d.ended = false))) ∧
  (∀ gid sl g x, s.gang? gid = some g → g.lead sl = some x → (∀ p, g.kind ≠ .shadow p) → s.shadowOf gid = none →
    (x.hold.isTrap = true → Happens (.supervisorResume gid sl []) s (fun t => t.mem = s.mem ∧
      ∃ h, t.gang? gid = some h ∧ g.sameRegs h ∧ h.regs = g.regs ∧ g.become h sl (fun _ x y => x.hold.isTrap = true →
        y.hold = .none ∧ y.point = x.point ∧ (x.point.inside = true → x.point.pc ≠ x.point.stop →
          y.replay = some (x.replay.getD 0xFFFFFFFF))))) ∧
    (∀ b code, x.hold = .escalated code false → s.block? g.block = some b → x.point.inside = true → x.point.pc ≠ x.point.stop →
      Happens (.supervisorResumeSkip gid sl) s (fun t => t.mem = s.mem ∧ ∃ h, t.gang? gid = some h ∧ g.sameRegs h ∧
        let n := match s.code b.part x.point.pc with
          | some w => if w.getLsbD 28 then 2 else 1
          | none => 1
        g.become h sl (fun _ x y => x.hold.isTrap = true →
          y.hold = .none ∧ y.replay = none ∧ y.point.pc = x.point.pc + 4 * n))) ∧
    (∀ code, x.hold = .escalated code true → exec (.supervisorResumeSkip gid sl) s = .fault .notEnabled) ∧
    (∀ n pc ws, x.hold = .call n pc → (ws.map (·.1)).Nodup → (∀ w ∈ ws, w.1 < 31) → s.errs.poison = [] →
      Happens (.supervisorResume gid sl ws) s (fun t => t.mem = s.mem ∧ ∃ h, t.gang? gid = some h ∧
        (∀ w ∈ ws, h.getQ w.1 = w.2) ∧ (∀ r, r ∉ ws.map (·.1) → h.getQ r = g.getQ r) ∧
        g.become h sl (fun _ x y => x.asks = true → y.hold = .none ∧ y.point = x.point)))) ∧
  (∀ (i : Instr) (mode : Nat) (r : Reg), (i, mode) ∈ [(.preemptAdaptive r, 0), (.preemptSave r, 1), (.preemptFlush r, 2)] →
    bits r.toNat 9 8 = mode →
    (s.requestBad r.toNat = true → Happens i s (fun t => t = { s with mailbox := { s.mailbox with state := 3 } })) ∧
    (s.requestBad r.toNat = false → s.resident (bits r.toNat 7 0) = [] → Happens i s (fun t => t.blocks = s.blocks ∧
      t.mailbox = { s.mailbox with state := 2, drained := 0, flushed := 0, saved := 0, cluster := bits r.toNat 7 0
                                   next := s.mailbox.base, todo := [], full := false })) ∧
    (∀ b h, s.requestBad r.toNat = false → s.resident (bits r.toNat 7 0) = [b] → s.block? b.id = some b →
      s.hdrOf b = some h → b.stop.leaving = false →
      (mode = 0 → h.expcyc ≠ 0 → h.expcyc ≤ bits r.toNat 63 32 + s.elapsed b → Happens i s (fun t => t.mailbox.state = 1 ∧
        t.mailbox.todo = [b.id] ∧ t.block? b.id = some { b with stop := .drain (s.pkg.clock + bits r.toNat 63 32) })) ∧
      (mode = 1 ∨ (s.mayFlush b = false ∧ (mode = 2 ∨ mode = 0 ∧ (h.expcyc = 0 ∨ bits r.toNat 63 32 + s.elapsed b < h.expcyc))) →
        s.areaDue = 0 → s.areaOf b ≤ s.mailbox.limit → Happens i s (fun t => t.mailbox.state = 1 ∧
        t.mailbox.todo = [b.id] ∧ t.block? b.id = some { b with stop := if s.fw.holdsSaves then .toSave else .save })) ∧
      (s.mayFlush b = true →
        mode = 2 ∨ (mode = 0 ∧ (h.expcyc = 0 ∨ bits r.toNat 63 32 + s.elapsed b < h.expcyc)) → Happens i s (fun t =>
          t.mailbox.state = 1 ∧ t.mailbox.todo = [b.id] ∧ t.flushing b)))) ∧
  (∀ b t0, s.block? b.id = some b → b.stop = .drain t0 → b.ended = false → b.resident = true → t0 ≤ s.pkg.clock →
    (s.mayFlush b = true → Happens (.drainTimeout b.id) s (fun t => t.flushing b ∧ t.mem = s.mem)) ∧
    (s.mayFlush b = false → s.fw.holdsSaves = false → s.mailbox.next + s.areaDue + s.areaOf b ≤ s.mailbox.base + s.mailbox.limit →
      Happens (.drainTimeout b.id) s (fun t => t.block? b.id = some { b with stop := .save } ∧ t.mem = s.mem))) ∧
  (∀ b l, s.block? b.id = some b → s.launch? b.launch = some l → b.stop = .flush → b.ended = false → b.resident = true →
    s.isOwn b = true → (∀ g ∈ s.gangsOf b.id, g.life = .ended) → s.blockQuiet b.id = true → l.node = none →
    Happens (.blockEnd b.id) s (fun t =>
      (∃ d, t.block? b.id = some d ∧ d.ended = true ∧ d.resident = false) ∧ t.mem = s.mem ∧
      (∃ m, t.launch? l.id = some m ∧ m.again.map (·.2) = b.number :: l.again.map (·.2) ∧ m.next = l.next ∧
        m.blocksLeft = l.blocksLeft) ∧
      (b.id ∈ s.mailbox.todo → t.mailbox.flushed = s.mailbox.flushed + 1 ∧ b.id ∉ t.mailbox.todo))) ∧
  (∀ b l, s.block? b.id = some b → s.launch? b.launch = some l → b.stop = .save → b.ended = false →
    s.settled b.id = true → Happens (.blockSaved b.id) s (fun t =>
      t.mailbox.next = (if b.id ∈ s.mailbox.todo then s.mailbox.next + s.areaOf b else s.mailbox.next) ∧
      (∃ c, t.saved = s.saved ++ [c] ∧ c.addr = s.mailbox.next ∧ c.key = s.mailbox.key ∧ c.block = b.id ∧ c.layout = s.fw.writes ∧
        c.jobs = s.jobsOf b.id) ∧
      (∃ d, t.block? b.id = some d ∧ d.resident = false ∧ d.store = b.store ∧ d.elapsed = s.elapsed b ∧ d.bars = b.bars) ∧
      (∀ j ∈ t.fl.jobs, j.block ≠ b.id) ∧ ∀ g ∈ t.gangs, g.block = b.id → g.life = .saved ∨ g.life = .ended)) ∧
  (∀ a cl c b l, s.savedAt a = some c → s.block? c.block = some b → s.launch? b.launch = some l → s.fw.restarting = false →
    s.fw.holdsSaves = false → s.dispatchTurn l.part = true → s.restoreTurn l cl = true →
    cl < Config.clusters → s.fitsOn l cl false = true → s.withMates l b.number cl = true → s.ctxBad c l.hdr a = false → c.grants = [] →
    l.hdr.twin = false →
    Happens (.blockRestore a cl) s (fun t => t.mem.bytes = s.mem.bytes ∧
      (∃ d, t.block? b.id = some d ∧ d.resident = true ∧ d.cluster = cl ∧ d.scratch = b.scratch ∧
        d.tiles = s.ctxCells c l.hdr a ∧ d.elapsed = b.elapsed) ∧
      (∀ x ∈ t.saved, x.block ≠ b.id) ∧ (∀ j ∈ c.jobs, { j with cluster := cl } ∈ t.fl.jobs) ∧
      ∀ g ∈ t.gangs, g.block = b.id → (g.life = .pending ∧ g.easel / 4 = cl) ∨ g.life = .ended)) ∧
  (∀ a c b, s.savedAt a = some c → s.block? c.block = some b → Happens (.savedContextDiscard a) s (fun t =>
    b.resident = false → (∀ x ∈ t.saved, x.block ≠ b.id) ∧ ∀ d, t.block? b.id = some d → d.ended = true))

/-- R343, R344, R347, R352 to R357: an error is counted and struck where it lies; a link that errs steps down a notch and
retrains, and from the last notch is down, with its plane or its die; planes that die are rehashed around, under a map
whose every entry is live. That a ring or hub link down takes its die and the die's two planes is the model's (logs 61, 74), and so are the free count of failed replays (log 62) and that
LIVE, MAP and EPOCH change together (log 63). -/
def Obligations.ErrorAndLinkEvents : Prop := ∀ s : State, s.lives →
  (∀ e, s.siteThere e = true →
    Happens (.correctableError e) s (fun t => t.errs.poison = s.errs.poison ∧ t.mem = s.mem ∧
      (let old := ((s.errs.counts.find? (fun c => c.1 == s.countKey e)).map (·.2)).getD (0, 0)
       (s.countKey e, old.1 + 1, old.2) ∈ t.errs.counts ∧
       ∀ c, c.1 ≠ s.countKey e → (c ∈ t.errs.counts ↔ c ∈ s.errs.counts))) ∧
    Happens (.uncorrectableError e) s (fun t => t.mem.bytes = s.mem.bytes ∧ Out.errorEvent e ∈ t.out ∧
      (∀ g r l, e = .dreg g r l → t.poisoned e = true) ∧ (∀ b w, e = .scratch b w → t.poisoned e = true) ∧
      (∀ u, e = .hbm u → t.poisoned e = true) ∧ (∀ n w, e = .l2 n w true → ∀ c ∈ t.mem.copies, ¬(c.wing = n ∧ c.line = w / 32)) ∧
      (∀ c, e = .engine c → c ∈ t.errs.badEngines) ∧ (∀ w, e = .sketchUnit w → w ∈ t.errs.deadSketch))) ∧
  (∀ l x, s.link? l = some x → x.up = true →
    (∀ i ∈ [Instr.eyeMarginLow l, .symbolCountExceeded l],
      (x.notch ≠ 3 → Happens i s (fun t => t.mem = s.mem ∧
        t.link? l = some { x with notch := x.notch + 1, retraining := true, replays := 0 })) ∧
      (x.notch = 3 → Happens i s (fun t => (∃ y, t.link? l = some y ∧ y.up = false) ∧
        (∀ n, l = .port n → s.planeAlive n = true → ∃ r, t.pkg.rehash = some r ∧ bitAt r.dead n = true) ∧
        (∀ n, (l = .ring n ∨ l = .hub n) → n ∈ t.pkg.badDies ∧
          ∀ p, p < 8 → p / 2 = n → s.planeAlive p = true → t.planeAlive p = false)))) ∧
    (x.replays < 8 → Happens (.flitCrcFail l) s (fun t => ∃ k, t.link? l = some { x with replays := k } ∧ 1 ≤ k ∧
      k ≤ x.replays + 1 ∧ t.mem = s.mem)) ∧
    (x.retraining = true → Happens (.retrainComplete l) s (fun t => t.link? l = some { x with retraining := false })) ∧
    (∀ up, 5 ≤ s.pkg.boot → Happens (.retrainRequest l up) s (fun t => t.link? l =
      some { x with retraining := true, notch := if up then x.notch - 1 else x.notch }))) ∧
  (∀ p, p < 8 → s.planeAlive p = true → s.pkg.rehash = none → Happens (.signalLoss p) s (fun t => t.mem = s.mem ∧
    t.pkg.rehash = some ⟨2 ^ p, s.fresh, false, s.sentNow⟩ ∧ t.out = s.out ++ [.quiesce (2 ^ p)])) ∧
  (∀ m j, j < 8 → bitAt m j = true → s.planeAlive j = true → s.pkg.rehash = none → Happens (.quiesce m) s (fun t =>
    t.mem = s.mem ∧ t.pkg.rehash = some ⟨m % 256, s.fresh, false, s.sentNow⟩)) ∧
  (∀ m, (∀ j, j < 8 → ¬(bitAt m j = true ∧ s.planeAlive j = true)) → exec (.quiesce m) s = .next s) ∧
  (∀ r gone, s.pkg.rehash = some r → r.installed = false → s.unanswered r (fun p => !bitAt r.dead p) = false →
    (∀ o ∈ s.fl.ops, ∀ e ∈ o.elts, ∀ a, e.phys? = some a → r.sent o.id a = false) → Happens (.rehashDrainDone gone) s (fun t =>
    t.pkg.rehash = some { r with installed := true } ∧ t.pkg.planeEpoch = (s.pkg.planeEpoch + 1) % 2 ^ 16 ∧
    (∀ j, j < 8 → bitAt t.pkg.planeLive j = (bitAt s.pkg.planeLive j && !bitAt r.dead j)) ∧
    ((∃ j, j < 8 ∧ bitAt t.pkg.planeLive j = true) → ∀ i, i < 8 →
      bitAt t.pkg.planeLive (t.pkg.planeMap / 8 ^ i % 8) = true ∧
      (bitAt t.pkg.planeLive (s.pkg.planeMap / 8 ^ i % 8) = true →
        t.pkg.planeMap / 8 ^ i % 8 = s.pkg.planeMap / 8 ^ i % 8)) ∧
    ∀ g ∈ gone, g ≠ s.pkg.pkgid → g ∈ t.pkg.departed)) ∧
  (∀ r, s.pkg.rehash = some r → r.installed = true →
    s.unanswered r (fun _ => true) = false → Happens .rehashResume s (fun t => t.pkg.rehash = none ∧ t.mem = s.mem))

/-- R22 to R25, R315, R358 to R365: power, start-up, the client port, the firmware's mailboxes, measurements and updates: a
mailbox holds 32 messages; an image is staged only if it verifies; activation raises the count and its measurement, and
waits while a saved context has a layout that the image does not list. The answers' codes and the coding of algorithms are the model's
(log 93), and so is what a reset of the package keeps (log 65). -/
def Obligations.PackageEvents : Prop := ∀ s : State, s.pkg.powered = true →
  (∀ c m, c < 8 → m.sender < 8 → m.body.length ≤ 64 → s.fw.boxes.length = 8 → s.fw.held = [] → (s.fw.box c).length < 32 →
    Happens (.mailboxMessage c (some m)) s (fun t => t.mem = s.mem ∧ t.fw.box c = s.fw.box c ++ [m])) ∧
  (∀ c m, c < 8 → m.sender < 8 → m.body.length ≤ 64 → 32 ≤ (s.fw.box c).length →
    Happens (.mailboxMessage c (some m)) s (fun t => t.fw.box c = s.fw.box c ∧ t.fw.held = s.fw.held ++ [(c, m)])) ∧
  (∀ c m l, c < 8 → s.fw.boxes.length = 8 → s.fw.box c = m :: l → s.fw.held = [] → Happens (.mailboxMessage c none) s (fun t =>
    t.fw.box c = l)) ∧
  Happens .getVersion s (fun t => t.out = s.out ++ [.answer "VERSION" [0x12, 0x14]]) ∧
  (∀ v, Happens (.getCapabilities v) s (fun t => t.fw = s.fw ∧
    ∃ vals, t.out = s.out ++ [.answer (if v = 0x12 ∨ v = 0x14 then "CAPABILITIES" else "ERROR") vals])) ∧
  (∀ v a, (v = 0x14 ∧ (a = 1 ∨ a = 2)) ∨ (v = 0x12 ∧ a = 1) → Happens (.negotiateAlgorithms v a) s (fun t =>
    t.out = s.out ++ [.answer "ALGORITHMS" [a, 384]])) ∧
  (∀ a o n, ∀ i ∈ ([(.getDigests, "DIGESTS"), (.spdmUnsupportedRequest n, "ERROR_UNSUPPORTED_REQUEST")] ++
      (if a = 0x1201 ∨ a = 0x1401 ∨ a = 0x1402 then [(.getCertificate a o n, "CERTIFICATE"), (.challenge a n, "CHALLENGE_AUTH")]
        else [(.getCertificate a o n, "ERROR"), (.challenge a n, "ERROR")]) : List (Instr × String)), Happens i.1 s (fun t =>
    t.mem = s.mem ∧ t.fw = s.fw ∧ ∃ vals, t.out = s.out ++ [.answer i.2 vals])) ∧
  (∀ a i n, 1 ≤ i → i ≤ 5 → (a = 0x1201 ∨ a = 0x1401 ∨ a = 0x1402) →
    Happens (.getMeasurements a i n) s (fun t => t.fw = s.fw ∧ ∃ sig, t.out = s.out ++
    [.answer "MEASUREMENTS" (i :: (s.fw.measure.getD (i - 1) 0).toNat :: sig)])) ∧
  (∀ img ok, s.fw.holdsSaves = true → Happens (.requestFirmwareData 1 img ok) s (fun t =>
    t.fw = s.fw ∧ t.out = s.out ++ [.answer "TRANSFER_COMPLETE" [1]])) ∧
  (∀ c img ok, (c = 1 ∧ s.fw.holdsSaves = false ∨ c = 2) → s.fw.staging.length = 2 → s.fw.stage.length = 2 →
    Happens (.requestFirmwareData c img ok) s (fun t => t.fw.active = s.fw.active ∧
      if ok && imgVerifies img c (s.fw.minSvn.getD (c - 1) 0) then
        t.fw.staging[c - 1]? = some (some img) ∧ t.fw.stage[c - 1]? = some 2 ∧
        t.out = s.out ++ [.answer "TRANSFER_COMPLETE" [0], .answer "VERIFY_COMPLETE" [0], .answer "APPLY_COMPLETE" [0]]
      else t.fw.staging[c - 1]? = some none ∧ t.fw.stage[c - 1]? = some 0 ∧
        t.out = s.out ++ (if ok then [.answer "TRANSFER_COMPLETE" [0], .answer "VERIFY_COMPLETE" [1]]
          else [.answer "TRANSFER_COMPLETE" [1]]))) ∧
  (∀ img, s.fw.staging = [some img, none] → s.fw.active.length = 2 → s.fw.measure.length = 5 →
    (s.savesNow ≠ [] → s.fw.holdsSaves = false → Happens (.activateFirmware 1) s (fun t =>
      t.fw = { s.fw with stage := s.fw.stage.set 0 3, deciding := s.savesNow } ∧ t.out = s.out)) ∧
    (s.savesNow = [] → s.blocked img = true → Happens (.activateFirmware 1) s (fun t =>
      t.fw = { s.fw with staging := [some img, none], stage := s.fw.stage.set 0 2, reason := 200 } ∧
      t.out = s.out ++ [.answer "ACTIVATE_FIRMWARE" [1]])) ∧
    (s.savesNow = [] → s.blocked img = false → Happens (.activateFirmware 1) s (fun t => t.fw.active[0]? = some img ∧
      t.fw.activations = s.fw.activations + 1 ∧ t.fw.restarting = true ∧ t.fw.staging = [none, none] ∧
      t.fw.measure[1]? = some (Config.sha384 (img.header ++ img.payload.take (bits (imgWord img 8 8) 31 0))) ∧
      t.fw.measure[4]? = some (Config.sha384 ((leCells 0 8 (s.fw.activations + 1)).map (·.2))) ∧
      t.out = s.out ++ [.answer "ACTIVATE_FIRMWARE" [0]]))) ∧
  Happens .getStatus s (fun t => t.fw = s.fw ∧ t.out = s.out ++ [.answer "GET_STATUS"
    ((if s.fw.stage.all (· == 0) then 0 else 2) :: s.fw.reason :: s.fw.stage)]) ∧
  (∀ c, (c = 1 ∨ c = 2) → s.fw.staging.length = 2 → s.fw.stage.length = 2 → Happens (.cancelUpdate c) s (fun t =>
    t.fw.active = s.fw.active ∧ t.fw.measure = s.fw.measure ∧ t.fw.staging[c - 1]? = some none ∧
    t.fw.stage[c - 1]? = some 0)) ∧
  (∀ b, Happens (.packageReset b) s (fun t => t.gangs = [] ∧ t.blocks = [] ∧ t.graphs = [] ∧ t.mem.pages = [] ∧
    t.mem.bytes = [] ∧ t.pkg.clientReady = false ∧ t.fw.active = s.fw.active ∧ t.pkg.boot ≤ 5 ∧
    (t.pkg.boot = 5 ↔ t.pkg.halted = false))) ∧
  Happens .powerRemoval s (fun t => t.pkg.powered = false ∧ t.gangs = [] ∧ t.mem.bytes = [] ∧ t.fw.active = s.fw.active) ∧
  (s.pkg.halted = false →
    (∀ m, s.sealedLive = false → 0 < m → m ≤ s.pkg.mhz → Happens (.powerLimitThrottle m) s (fun t => t.pkg.mhz = m ∧
      t.mem = s.mem)) ∧
    (5 ≤ s.pkg.boot → Happens .clientPortReady s (fun t => t.pkg.clientReady = true ∧ t.mem = s.mem)) ∧
    (∀ fn, fn ≤ 16 → s.pkg.clientUp = true → Happens (.clientConfigRequest fn) s (fun t => t.mem = s.mem ∧
      t.out = s.out ++ [.config fn (!s.pkg.clientReady || (decide (1 ≤ fn) && s.resetting (fn - 1)))])) ∧
    Happens .clientLinkDown s (fun t => t = { s with pkg := { s.pkg with clientUp := false } }) ∧
    (s.fw.restarting = true → Happens .firmwareRestartDone s (fun t => t.fw = { s.fw with restarting := false })) ∧
    (∀ img x, s.fw.staging = [x, some img] → s.fw.stage[1]? = some 3 → s.fw.active.length = 2 → s.fw.measure.length = 5 →
      5 ≤ s.pkg.boot → Happens .supervisorOsRestart s (fun t => t.fw.active[1]? = some img ∧ t.fw.activations = s.fw.activations + 1 ∧
        t.fw.measure[2]? = some (Config.sha384 (img.header ++ img.payload.take (bits (imgWord img 8 8) 31 0))))))

/-- R354: the plane of a request is the map's entry for the XOR of the three-bit groups of its 48-bit local address from
bit 8 up; so the package id takes no part, and a 256-byte line travels on one plane. -/
def Obligations.PlaneOfRequest : Prop := ∀ (s : State) (a : Nat),
  s.planeOf a = s.pkg.planeMap / 8 ^ ((a % 2 ^ 48 / 2 ^ 8 % 8) ^^^ (a % 2 ^ 48 / 2 ^ 11 % 8) ^^^ (a % 2 ^ 48 / 2 ^ 14 % 8) ^^^
    (a % 2 ^ 48 / 2 ^ 17 % 8) ^^^ (a % 2 ^ 48 / 2 ^ 20 % 8) ^^^ (a % 2 ^ 48 / 2 ^ 23 % 8) ^^^ (a % 2 ^ 48 / 2 ^ 26 % 8) ^^^
    (a % 2 ^ 48 / 2 ^ 29 % 8) ^^^ (a % 2 ^ 48 / 2 ^ 32 % 8) ^^^ (a % 2 ^ 48 / 2 ^ 35 % 8) ^^^ (a % 2 ^ 48 / 2 ^ 38 % 8) ^^^
    (a % 2 ^ 48 / 2 ^ 41 % 8) ^^^ (a % 2 ^ 48 / 2 ^ 44 % 8) ^^^ (a % 2 ^ 48 / 2 ^ 47 % 8)) % 8 ∧
  (∀ n, s.planeOf (n * 2 ^ 48 + a) = s.planeOf a) ∧
  (∀ i, i < 256 → s.planeOf (a / 256 * 256 + i) = s.planeOf a)

/-- R67, R68: when the words at the point of the agent that holds the issue decode to `i`, the step is `exec` of `i`; without
them the easel's cycle passes. With no agent to issue, the first event from outside happens next; without power, nothing
happens of itself (the order of the three is the model's, log 1). -/
def Obligations.StepRunsDecoded : Prop := ∀ s : State,
  (∀ aid g x b, s.issuing = some aid → s.gang? aid.gang = some g → g.lead aid.slice = some x → s.block? g.block = some b →
    (∀ w e i, s.code b.part x.point.pc = some w →
      (w.getLsbD 28 = true → s.code b.part (x.point.pc + 4) = some e) →
      decodeWords (BitVec.ofNat 3 x.point.cls) w e = .ok i → step s = exec i s) ∧
    (s.code b.part x.point.pc = none → step s = .next (s.missed aid))) ∧
  (s.issuing = none →
    (∀ i rest, s.inputs = i :: rest → step s = exec i { s with inputs := rest }) ∧
    (s.inputs = [] → s.lives → step s = exec (s.chooseNext (enabled s)).1 (s.chooseNext (enabled s)).2) ∧
    (s.inputs = [] → ¬s.lives → step s = .next s))

/-- R65, R68, R71, R73: words of the spec's own encodings decode to the instructions that they stand for, with the fields
that the encoding gives them. -/
def Obligations.DecodeWords : Prop :=
  decodeWords 0 0x207C4146 0 = .ok (.imul { noFields with stall := 1, g := 7, d := 4, a := 5, b := 6 }) ∧
  decodeWords 3 0x103C2103 0x13028007 = 
    .ok (.mma { noFields with x := true, g := 7, d := 2, a := 4, b := 3, bq := true, cq := true, c := 5, mod := 7 }) ∧
  decodeWords 5 0x10FC0005 0x11008000 = .ok (.loop { noFields with x := true, g := 7, b := 5, cq := true, c := 1 }) ∧
  decodeWords 2 0x103C40C0 0x1C000001 = 
    .ok (.ld { noFields with x := true, g := 7, d := 4, a := 3, w := 3, aq := true, mod := 1 }) ∧
  decodeWords 5 0x011C0000 0 = .ok (.exit { noFields with g := 7 }) ∧
  decodeWords 6 0x00BC0000 0 = .ok (.tret { noFields with g := 7 }) ∧
  decodeWords 2 0x225C5000 0 = .ok (.bseal { noFields with stall := 1, g := 7, d := 5 }) ∧
  decodeWords 1 0x343C4000 0x18004040 = 
    .ok (.umovi { noFields with stall := 1, x := true, g := 7, d := 4, w := 3, mod := 0x4040 }) ∧
  decodeWords 4 0x007C6000 0 = .ok (.vstat { noFields with g := 7, d := 6 }) ∧
  decodeWords 0 0xD3000018 0 = .error .headerWord

/-- R65, R67, R68, R71 to R74: decoding the words of an encoded well-formed instruction gives it back, and the bytes that
follow it: no bit of an operand is dropped. -/
def Obligations.EncodeThenDecode : Prop := ∀ (i : Instr) (cls : BitVec 3) (ws : List Word) (rest : List Byte),
  i.wf = true → encode i = some (cls, ws) → decodeBytes cls (bytesOfWords ws ++ rest) = .ok (i, rest)

/-- R304, R335, R355 and log 1: at reset the partition table, the pre-emption mailbox, the stall counters and the clock are
zero, the plane map is as R355 gives it, nothing is placed or mapped, no byte of memory is listed; and the invariant holds. -/
def Obligations.ResetState : Prop :=
  State.reset.Inv ∧ State.reset.parts = List.replicate 16 PartEntry.zero ∧ State.reset.pkg.planeWord = 0xFFFAC688 ∧
  (∀ n, n < 8 → mapEntry State.reset.pkg.planeMap n = n) ∧ State.reset.counters = [] ∧ State.reset.pkg.clock = 0 ∧
  State.reset.mailbox.state = 0 ∧ State.reset.mailbox.area = 0 ∧ State.reset.mailbox.limit = 0 ∧
  State.reset.gangs = [] ∧ State.reset.blocks = [] ∧ State.reset.mem.pages = [] ∧
  (∀ key a, State.reset.mem.read key a = 0) ∧ State.reset.pkg.clientReady = false ∧ State.reset.issuing = none ∧
  State.reset.fw.boxes = List.replicate 8 []

/-- R11, R311 (the canonical form is the model's, log 2): whatever the machine does next keeps memory in its canonical form,
and no operation and no block bears a number that is still to be given. -/
def Obligations.EveryStepKeeps : Prop := ∀ s t : State, s.Inv → step s = .next t → t.Inv

end
end

