-- ==== Sys2Proof/Laws/Dispatch.lean ====
section
/-!
SUPPORT. Laws/Dispatch.lean: each arm of exec, as an equation.
-/

namespace Sys2Proof.Machine

variable (s : State)

@[simp] theorem exec_nop {cls} {f} : exec (.nop cls f) s = execNop cls f s := rfl
@[simp] theorem exec_iadd {f} : exec (.iadd f) s = execIadd f s := rfl
@[simp] theorem exec_isub {f} : exec (.isub f) s = execIsub f s := rfl
@[simp] theorem exec_imul {f} : exec (.imul f) s = execImul f s := rfl
@[simp] theorem exec_imulh {f} : exec (.imulh f) s = execImulh f s := rfl
@[simp] theorem exec_imad {f} : exec (.imad f) s = execImad f s := rfl
@[simp] theorem exec_iaddc {f} : exec (.iaddc f) s = execIaddc f s := rfl
@[simp] theorem exec_imin {f} : exec (.imin f) s = execImin f s := rfl
@[simp] theorem exec_imax {f} : exec (.imax f) s = execImax f s := rfl
@[simp] theorem exec_iabs {f} : exec (.iabs f) s = execIabs f s := rfl
@[simp] theorem exec_ineg {f} : exec (.ineg f) s = execIneg f s := rfl
@[simp] theorem exec_idot4 {f} : exec (.idot4 f) s = execIdot4 f s := rfl
@[simp] theorem exec_icmp {f} : exec (.icmp f) s = execIcmp f s := rfl
@[simp] theorem exec_and {f} : exec (.and f) s = execAnd f s := rfl
@[simp] theorem exec_or {f} : exec (.or f) s = execOr f s := rfl
@[simp] theorem exec_xor {f} : exec (.xor f) s = execXor f s := rfl
@[simp] theorem exec_andn {f} : exec (.andn f) s = execAndn f s := rfl
@[simp] theorem exec_not {f} : exec (.not f) s = execNot f s := rfl
@[simp] theorem exec_bitf {f} : exec (.bitf f) s = execBitf f s := rfl
@[simp] theorem exec_shl {f} : exec (.shl f) s = execShl f s := rfl
@[simp] theorem exec_shr {f} : exec (.shr f) s = execShr f s := rfl
@[simp] theorem exec_sar {f} : exec (.sar f) s = execSar f s := rfl
@[simp] theorem exec_rol {f} : exec (.rol f) s = execRol f s := rfl
@[simp] theorem exec_clz {f} : exec (.clz f) s = execClz f s := rfl
@[simp] theorem exec_ffs {f} : exec (.ffs f) s = execFfs f s := rfl
@[simp] theorem exec_popc {f} : exec (.popc f) s = execPopc f s := rfl
@[simp] theorem exec_brev {f} : exec (.brev f) s = execBrev f s := rfl
@[simp] theorem exec_bfx {f} : exec (.bfx f) s = execBfx f s := rfl
@[simp] theorem exec_bfi {f} : exec (.bfi f) s = execBfi f s := rfl
@[simp] theorem exec_fadd {f} : exec (.fadd f) s = execFadd f s := rfl
@[simp] theorem exec_fsub {f} : exec (.fsub f) s = execFsub f s := rfl
@[simp] theorem exec_fmul {f} : exec (.fmul f) s = execFmul f s := rfl
@[simp] theorem exec_ffma {f} : exec (.ffma f) s = execFfma f s := rfl
@[simp] theorem exec_fmin {f} : exec (.fmin f) s = execFmin f s := rfl
@[simp] theorem exec_fmax {f} : exec (.fmax f) s = execFmax f s := rfl
@[simp] theorem exec_fcmp {f} : exec (.fcmp f) s = execFcmp f s := rfl
@[simp] theorem exec_frnd {f} : exec (.frnd f) s = execFrnd f s := rfl
@[simp] theorem exec_fclass {f} : exec (.fclass f) s = execFclass f s := rfl
@[simp] theorem exec_fscale {f} : exec (.fscale f) s = execFscale f s := rfl
@[simp] theorem exec_frcp {f} : exec (.frcp f) s = execFrcp f s := rfl
@[simp] theorem exec_frsq {f} : exec (.frsq f) s = execFrsq f s := rfl
@[simp] theorem exec_fsqrt {f} : exec (.fsqrt f) s = execFsqrt f s := rfl
@[simp] theorem exec_fdiv {f} : exec (.fdiv f) s = execFdiv f s := rfl
@[simp] theorem exec_fexp2 {f} : exec (.fexp2 f) s = execFexp2 f s := rfl
@[simp] theorem exec_flog2 {f} : exec (.flog2 f) s = execFlog2 f s := rfl
@[simp] theorem exec_fsinp {f} : exec (.fsinp f) s = execFsinp f s := rfl
@[simp] theorem exec_fcosp {f} : exec (.fcosp f) s = execFcosp f s := rfl
@[simp] theorem exec_ftanh {f} : exec (.ftanh f) s = execFtanh f s := rfl
@[simp] theorem exec_cvt {f} : exec (.cvt f) s = execCvt f s := rfl
@[simp] theorem exec_cvtq {f} : exec (.cvtq f) s = execCvtq f s := rfl
@[simp] theorem exec_cvtd {f} : exec (.cvtd f) s = execCvtd f s := rfl
@[simp] theorem exec_amxrd {f} : exec (.amxrd f) s = execAmxrd f s := rfl
@[simp] theorem exec_amxset {f} : exec (.amxset f) s = execAmxset f s := rfl
@[simp] theorem exec_pack {f} : exec (.pack f) s = execPack f s := rfl
@[simp] theorem exec_unpk {f} : exec (.unpk f) s = execUnpk f s := rfl
@[simp] theorem exec_mov {f} : exec (.mov f) s = execMov f s := rfl
@[simp] theorem exec_movi {f} : exec (.movi f) s = execMovi f s := rfl
@[simp] theorem exec_sel {f} : exec (.sel f) s = execSel f s := rfl
@[simp] theorem exec_bpick {f} : exec (.bpick f) s = execBpick f s := rfl
@[simp] theorem exec_movu {f} : exec (.movu f) s = execMovu f s := rfl
@[simp] theorem exec_pmov {f} : exec (.pmov f) s = execPmov f s := rfl
@[simp] theorem exec_lxch {f} : exec (.lxch f) s = execLxch f s := rfl
@[simp] theorem exec_poll {f} : exec (.poll f) s = execPoll f s := rfl
@[simp] theorem exec_rfal {f} : exec (.rfal f) s = execRfal f s := rfl
@[simp] theorem exec_peers {f} : exec (.peers f) s = execPeers f s := rfl
@[simp] theorem exec_lfold {f} : exec (.lfold f) s = execLfold f s := rfl
@[simp] theorem exec_scan {f} : exec (.scan f) s = execScan f s := rfl
@[simp] theorem exec_uadd {f} : exec (.uadd f) s = execUadd f s := rfl
@[simp] theorem exec_usub {f} : exec (.usub f) s = execUsub f s := rfl
@[simp] theorem exec_umul {f} : exec (.umul f) s = execUmul f s := rfl
@[simp] theorem exec_umulh {f} : exec (.umulh f) s = execUmulh f s := rfl
@[simp] theorem exec_umad {f} : exec (.umad f) s = execUmad f s := rfl
@[simp] theorem exec_umin {f} : exec (.umin f) s = execUmin f s := rfl
@[simp] theorem exec_umax {f} : exec (.umax f) s = execUmax f s := rfl
@[simp] theorem exec_uand {f} : exec (.uand f) s = execUand f s := rfl
@[simp] theorem exec_uor {f} : exec (.uor f) s = execUor f s := rfl
@[simp] theorem exec_uxor {f} : exec (.uxor f) s = execUxor f s := rfl
@[simp] theorem exec_ushl {f} : exec (.ushl f) s = execUshl f s := rfl
@[simp] theorem exec_ushr {f} : exec (.ushr f) s = execUshr f s := rfl
@[simp] theorem exec_usar {f} : exec (.usar f) s = execUsar f s := rfl
@[simp] theorem exec_umov {f} : exec (.umov f) s = execUmov f s := rfl
@[simp] theorem exec_umovi {f} : exec (.umovi f) s = execUmovi f s := rfl
@[simp] theorem exec_usel {f} : exec (.usel f) s = execUsel f s := rfl
@[simp] theorem exec_ucmp {f} : exec (.ucmp f) s = execUcmp f s := rfl
@[simp] theorem exec_uld {f} : exec (.uld f) s = execUld f s := rfl
@[simp] theorem exec_usread {f} : exec (.usread f) s = execUsread f s := rfl
@[simp] theorem exec_ld {f} : exec (.ld f) s = execLd f s := rfl
@[simp] theorem exec_st {f} : exec (.st f) s = execSt f s := rfl
@[simp] theorem exec_atom {f} : exec (.atom f) s = execAtom f s := rfl
@[simp] theorem exec_red {f} : exec (.red f) s = execRed f s := rfl
@[simp] theorem exec_fence {f} : exec (.fence f) s = execFence f s := rfl
@[simp] theorem exec_pref {f} : exec (.pref f) s = execPref f s := rfl
@[simp] theorem exec_cctl {f} : exec (.cctl f) s = execCctl f s := rfl
@[simp] theorem exec_cpa {f} : exec (.cpa f) s = execCpa f s := rfl
@[simp] theorem exec_cpt {f} : exec (.cpt f) s = execCpt f s := rfl
@[simp] theorem exec_bseal {f} : exec (.bseal f) s = execBseal f s := rfl
@[simp] theorem exec_bwait {f} : exec (.bwait f) s = execBwait f s := rfl
@[simp] theorem exec_gath {f} : exec (.gath f) s = execGath f s := rfl
@[simp] theorem exec_coll {f} : exec (.coll f) s = execColl f s := rfl
@[simp] theorem exec_tlwait {f} : exec (.tlwait f) s = execTlwait f s := rfl
@[simp] theorem exec_tlrd {f} : exec (.tlrd f) s = execTlrd f s := rfl
@[simp] theorem exec_mma {f} : exec (.mma f) s = execMma f s := rfl
@[simp] theorem exec_mzero {f} : exec (.mzero f) s = execMzero f s := rfl
@[simp] theorem exec_acld {f} : exec (.acld f) s = execAcld f s := rfl
@[simp] theorem exec_acst {f} : exec (.acst f) s = execAcst f s := rfl
@[simp] theorem exec_acrd {f} : exec (.acrd f) s = execAcrd f s := rfl
@[simp] theorem exec_acwr {f} : exec (.acwr f) s = execAcwr f s := rfl
@[simp] theorem exec_plane {f} : exec (.plane f) s = execPlane f s := rfl
@[simp] theorem exec_mcoef {f} : exec (.mcoef f) s = execMcoef f s := rfl
@[simp] theorem exec_mpoly {f} : exec (.mpoly f) s = execMpoly f s := rfl
@[simp] theorem exec_miter {f} : exec (.miter f) s = execMiter f s := rfl
@[simp] theorem exec_mnorm {f} : exec (.mnorm f) s = execMnorm f s := rfl
@[simp] theorem exec_mistat {f} : exec (.mistat f) s = execMistat f s := rfl
@[simp] theorem exec_view {f} : exec (.view f) s = execView f s := rfl
@[simp] theorem exec_viewl {f} : exec (.viewl f) s = execViewl f s := rfl
@[simp] theorem exec_vstat {f} : exec (.vstat f) s = execVstat f s := rfl
@[simp] theorem exec_ndalloc {f} : exec (.ndalloc f) s = execNdalloc f s := rfl
@[simp] theorem exec_ndemit {f} : exec (.ndemit f) s = execNdemit f s := rfl
@[simp] theorem exec_nddone {f} : exec (.nddone f) s = execNddone f s := rfl
@[simp] theorem exec_ndlaunch {f} : exec (.ndlaunch f) s = execNdlaunch f s := rfl
@[simp] theorem exec_bra {f} : exec (.bra f) s = execBra f s := rfl
@[simp] theorem exec_braGuarded {f} : exec (.braGuarded f) s = execBraGuarded f s := rfl
@[simp] theorem exec_brx {f} : exec (.brx f) s = execBrx f s := rfl
@[simp] theorem exec_pad {f} : exec (.pad f) s = execPad f s := rfl
@[simp] theorem exec_call {f} : exec (.call f) s = execCall f s := rfl
@[simp] theorem exec_callx {f} : exec (.callx f) s = execCallx f s := rfl
@[simp] theorem exec_ret {f} : exec (.ret f) s = execRet f s := rfl
@[simp] theorem exec_loop {f} : exec (.loop f) s = execLoop f s := rfl
@[simp] theorem exec_exit {f} : exec (.exit f) s = execExit f s := rfl
@[simp] theorem exec_regang {f} : exec (.regang f) s = execRegang f s := rfl
@[simp] theorem exec_yield {f} : exec (.yield f) s = execYield f s := rfl
@[simp] theorem exec_kwait {f} : exec (.kwait f) s = execKwait f s := rfl
@[simp] theorem exec_barinit {f} : exec (.barinit f) s = execBarinit f s := rfl
@[simp] theorem exec_bararv {f} : exec (.bararv f) s = execBararv f s := rfl
@[simp] theorem exec_barwait {f} : exec (.barwait f) s = execBarwait f s := rfl
@[simp] theorem exec_barxb {f} : exec (.barxb f) s = execBarxb f s := rfl
@[simp] theorem exec_barsync {f} : exec (.barsync f) s = execBarsync f s := rfl
@[simp] theorem exec_pace {f} : exec (.pace f) s = execPace f s := rfl
@[simp] theorem exec_pacerd {f} : exec (.pacerd f) s = execPacerd f s := rfl
@[simp] theorem exec_sigchk {f} : exec (.sigchk f) s = execSigchk f s := rfl
@[simp] theorem exec_trap {f} : exec (.trap f) s = execTrap f s := rfl
@[simp] theorem exec_brk {f} : exec (.brk f) s = execBrk f s := rfl
@[simp] theorem exec_sread {f} : exec (.sread f) s = execSread f s := rfl
@[simp] theorem exec_swrite {f} : exec (.swrite f) s = execSwrite f s := rfl
@[simp] theorem exec_tret {f} : exec (.tret f) s = execTret f s := rfl
@[simp] theorem exec_tretSkip {f} : exec (.tretSkip f) s = execTretSkip f s := rfl
@[simp] theorem exec_chkpt {f} : exec (.chkpt f) s = execChkpt f s := rfl
@[simp] theorem exec_deadrd {f} : exec (.deadrd f) s = execDeadrd f s := rfl
@[simp] theorem exec_packageReset {b} : exec (.packageReset b) s = execPackageReset b s := rfl
@[simp] theorem exec_powerLimitThrottle {mhz} : exec (.powerLimitThrottle mhz) s = execPowerLimitThrottle mhz s := rfl
@[simp] theorem exec_clientPortReady : exec (.clientPortReady) s = execClientPortReady s := rfl
@[simp] theorem exec_clientConfigRequest {fn} : exec (.clientConfigRequest fn) s = execClientConfigRequest fn s := rfl
@[simp] theorem exec_clientLinkReset : exec (.clientLinkReset) s = execClientLinkReset s := rfl
@[simp] theorem exec_functionLevelReset {fn} : exec (.functionLevelReset fn) s = execFunctionLevelReset fn s := rfl
@[simp] theorem exec_backgroundScrubEnd {key} : exec (.backgroundScrubEnd key) s = execBackgroundScrubEnd key s := rfl
@[simp] theorem exec_partitionResetEnd {part} : exec (.partitionResetEnd part) s = execPartitionResetEnd part s := rfl
@[simp] theorem exec_doorbell {part} {q} {tail} : exec (.doorbell part q tail) s = execDoorbell part q tail s := rfl
@[simp] theorem exec_submissionEntryRead {part} {q} : exec (.submissionEntryRead part q) s = execSubmissionEntryRead part q s := rfl
@[simp] theorem exec_blockPlacement {launch} : exec (.blockPlacement launch) s = execBlockPlacement launch s := rfl
@[simp] theorem exec_headOfLevelTimeout {launch} : exec (.headOfLevelTimeout launch) s = execHeadOfLevelTimeout launch s := rfl
@[simp] theorem exec_blockEnd {block} : exec (.blockEnd block) s = execBlockEnd block s := rfl
@[simp] theorem exec_heatTimeout {graph} {node} : exec (.heatTimeout graph node) s = execHeatTimeout graph node s := rfl
@[simp] theorem exec_easelCycle {easel} : exec (.easelCycle easel) s = execEaselCycle easel s := rfl
@[simp] theorem exec_gangPromotion {easel} : exec (.gangPromotion easel) s = execGangPromotion easel s := rfl
@[simp] theorem exec_residencyLimit {easel} : exec (.residencyLimit easel) s = execResidencyLimit easel s := rfl
@[simp] theorem exec_resultWriteback {gang} : exec (.resultWriteback gang) s = execResultWriteback gang s := rfl
@[simp] theorem exec_barStarved {gang} {sl} : exec (.barStarved gang sl) s = execBarStarved gang sl s := rfl
@[simp] theorem exec_loadSectorArrival {op} {lane} : exec (.loadSectorArrival op lane) s = execLoadSectorArrival op lane s := rfl
@[simp] theorem exec_storePerformed {op} {lane} : exec (.storePerformed op lane) s = execStorePerformed op lane s := rfl
@[simp] theorem exec_atomicPerform {op} {lane} : exec (.atomicPerform op lane) s = execAtomicPerform op lane s := rfl
@[simp] theorem exec_specialFunctionDelivery {op} : exec (.specialFunctionDelivery op) s = execSpecialFunctionDelivery op s := rfl
@[simp] theorem exec_fenceComplete {op} : exec (.fenceComplete op) s = execFenceComplete op s := rfl
@[simp] theorem exec_copyComplete {op} : exec (.copyComplete op) s = execCopyComplete op s := rfl
@[simp] theorem exec_streamOpComplete {wing} {ctx} {num} : exec (.streamOpComplete wing ctx num) s = execStreamOpComplete wing ctx num s := rfl
@[simp] theorem exec_matrixEntryComplete {op} : exec (.matrixEntryComplete op) s = execMatrixEntryComplete op s := rfl
@[simp] theorem exec_acrdDelivery {op} : exec (.acrdDelivery op) s = execAcrdDelivery op s := rfl
@[simp] theorem exec_miterUnit {op} : exec (.miterUnit op) s = execMiterUnit op s := rfl
@[simp] theorem exec_sketchTurn {wing} : exec (.sketchTurn wing) s = execSketchTurn wing s := rfl
@[simp] theorem exec_shadingGangStart {view} : exec (.shadingGangStart view) s = execShadingGangStart view s := rfl
@[simp] theorem exec_viewDelivery {view} : exec (.viewDelivery view) s = execViewDelivery view s := rfl
@[simp] theorem exec_faultResolve {park} {pages} : exec (.faultResolve park pages) s = execFaultResolve park pages s := rfl
@[simp] theorem exec_faultDecline {park} : exec (.faultDecline park) s = execFaultDecline park s := rfl
@[simp] theorem exec_parkReplay {park} : exec (.parkReplay park) s = execParkReplay park s := rfl
@[simp] theorem exec_pageMigration {part} {vbase} {pbase} : exec (.pageMigration part vbase pbase) s = execPageMigration part vbase pbase s := rfl
@[simp] theorem exec_supervisorEndBlock {block} : exec (.supervisorEndBlock block) s = execSupervisorEndBlock block s := rfl
@[simp] theorem exec_supervisorResume {gang} {sl} {writes} : exec (.supervisorResume gang sl writes) s = execSupervisorResume gang sl writes s := rfl
@[simp] theorem exec_supervisorResumeSkip {gang} {sl} : exec (.supervisorResumeSkip gang sl) s = execSupervisorResumeSkip gang sl s := rfl
@[simp] theorem exec_preemptAdaptive {request} : exec (.preemptAdaptive request) s = execPreemptAdaptive request s := rfl
@[simp] theorem exec_preemptSave {request} : exec (.preemptSave request) s = execPreemptSave request s := rfl
@[simp] theorem exec_preemptFlush {request} : exec (.preemptFlush request) s = execPreemptFlush request s := rfl
@[simp] theorem exec_drainTimeout {block} : exec (.drainTimeout block) s = execDrainTimeout block s := rfl
@[simp] theorem exec_blockSaved {block} : exec (.blockSaved block) s = execBlockSaved block s := rfl
@[simp] theorem exec_blockRestore {addr} {cluster} : exec (.blockRestore addr cluster) s = execBlockRestore addr cluster s := rfl
@[simp] theorem exec_partitionTableWrite {part} {word} {val} : exec (.partitionTableWrite part word val) s = execPartitionTableWrite part word val s := rfl
@[simp] theorem exec_registerWrite {w} : exec (.registerWrite w) s = execRegisterWrite w s := rfl
@[simp] theorem exec_msixUnmask {part} {vector} : exec (.msixUnmask part vector) s = execMsixUnmask part vector s := rfl
@[simp] theorem exec_irqWindow : exec (.irqWindow) s = execIrqWindow s := rfl
@[simp] theorem exec_mailboxMessage {core} {msg} : exec (.mailboxMessage core msg) s = execMailboxMessage core msg s := rfl
@[simp] theorem exec_correctableError {e} : exec (.correctableError e) s = execCorrectableError e s := rfl
@[simp] theorem exec_uncorrectableError {e} : exec (.uncorrectableError e) s = execUncorrectableError e s := rfl
@[simp] theorem exec_matrixEngineFail {cluster} : exec (.matrixEngineFail cluster) s = execMatrixEngineFail cluster s := rfl
@[simp] theorem exec_matrixRetest {cluster} {pass} : exec (.matrixRetest cluster pass) s = execMatrixRetest cluster pass s := rfl
@[simp] theorem exec_twinStoreCompare {gang} {sl} : exec (.twinStoreCompare gang sl) s = execTwinStoreCompare gang sl s := rfl
@[simp] theorem exec_flitCrcFail {link} : exec (.flitCrcFail link) s = execFlitCrcFail link s := rfl
@[simp] theorem exec_eyeMarginLow {link} : exec (.eyeMarginLow link) s = execEyeMarginLow link s := rfl
@[simp] theorem exec_symbolCountExceeded {link} : exec (.symbolCountExceeded link) s = execSymbolCountExceeded link s := rfl
@[simp] theorem exec_retrainComplete {link} : exec (.retrainComplete link) s = execRetrainComplete link s := rfl
@[simp] theorem exec_retrainRequest {link} {up} : exec (.retrainRequest link up) s = execRetrainRequest link up s := rfl
@[simp] theorem exec_signalLoss {n} : exec (.signalLoss n) s = execSignalLoss n s := rfl
@[simp] theorem exec_quiesce {planes} : exec (.quiesce planes) s = execQuiesce planes s := rfl
@[simp] theorem exec_rehashDrainDone {gone} : exec (.rehashDrainDone gone) s = execRehashDrainDone gone s := rfl
@[simp] theorem exec_rehashResume : exec (.rehashResume) s = execRehashResume s := rfl
@[simp] theorem exec_getVersion : exec (.getVersion) s = execGetVersion s := rfl
@[simp] theorem exec_getCapabilities {ver} : exec (.getCapabilities ver) s = execGetCapabilities ver s := rfl
@[simp] theorem exec_negotiateAlgorithms {ver} {alg} : exec (.negotiateAlgorithms ver alg) s = execNegotiateAlgorithms ver alg s := rfl
@[simp] theorem exec_getDigests : exec (.getDigests) s = execGetDigests s := rfl
@[simp] theorem exec_getCertificate {alg} {offset} {length} : exec (.getCertificate alg offset length) s = execGetCertificate alg offset length s := rfl
@[simp] theorem exec_challenge {alg} {nonce} : exec (.challenge alg nonce) s = execChallenge alg nonce s := rfl
@[simp] theorem exec_getMeasurements {alg} {index} {nonce} : exec (.getMeasurements alg index nonce) s = execGetMeasurements alg index nonce s := rfl
@[simp] theorem exec_spdmUnsupportedRequest {code} : exec (.spdmUnsupportedRequest code) s = execSpdmUnsupportedRequest code s := rfl
@[simp] theorem exec_requestFirmwareData {component} {image} {ok} : exec (.requestFirmwareData component image ok) s = execRequestFirmwareData component image ok s := rfl
@[simp] theorem exec_activateFirmware {component} : exec (.activateFirmware component) s = execActivateFirmware component s := rfl
@[simp] theorem exec_getStatus : exec (.getStatus) s = execGetStatus s := rfl
@[simp] theorem exec_cancelUpdate {component} : exec (.cancelUpdate component) s = execCancelUpdate component s := rfl
@[simp] theorem exec_firmwareRestartDone : exec (.firmwareRestartDone) s = execFirmwareRestartDone s := rfl
@[simp] theorem exec_supervisorOsRestart : exec (.supervisorOsRestart) s = execSupervisorOsRestart s := rfl
@[simp] theorem exec_unassignedOpcode {cls} {op} {f} : exec (.unassignedOpcode cls op f) s = execUnassignedOpcode cls op f s := rfl
@[simp] theorem exec_cctlComplete {op} : exec (.cctlComplete op) s = execCctlComplete op s := rfl
@[simp] theorem exec_codeFetchArrival {gang} {sl} {poisoned} : exec (.codeFetchArrival gang sl poisoned) s = execCodeFetchArrival gang sl poisoned s := rfl
@[simp] theorem exec_queueReset {part} {q} : exec (.queueReset part q) s = execQueueReset part q s := rfl
@[simp] theorem exec_savedContextDiscard {addr} : exec (.savedContextDiscard addr) s = execSavedContextDiscard addr s := rfl
@[simp] theorem exec_powerRemoval : exec (.powerRemoval) s = execPowerRemoval s := rfl
@[simp] theorem exec_clientLinkDown : exec (.clientLinkDown) s = execClientLinkDown s := rfl
@[simp] theorem exec_rootPortDeviceAccess {device} {addr} {write} {bytes} : exec (.rootPortDeviceAccess device addr write bytes) s = execRootPortDeviceAccess device addr write bytes s := rfl

end Sys2Proof.Machine
end

