-- ==== Sys2Proof/Laws/State.lean ====
section
/-!
SUPPORT. Laws/State.lean: what each named update of the state leaves alone, one lemma per field and update, and the
lookups after an update.
-/

namespace Sys2Proof.Machine

variable (s : State)

section modGang
variable (id : Nat) (f : Gang → Gang)

@[simp] theorem State.modGang_pkg : (s.modGang id f).pkg = s.pkg := rfl
@[simp] theorem State.modGang_mem : (s.modGang id f).mem = s.mem := rfl
@[simp] theorem State.modGang_parts : (s.modGang id f).parts = s.parts := rfl
@[simp] theorem State.modGang_funcs : (s.modGang id f).funcs = s.funcs := rfl
@[simp] theorem State.modGang_graphs : (s.modGang id f).graphs = s.graphs := rfl
@[simp] theorem State.modGang_launches : (s.modGang id f).launches = s.launches := rfl
@[simp] theorem State.modGang_blocks : (s.modGang id f).blocks = s.blocks := rfl
@[simp] theorem State.modGang_fl : (s.modGang id f).fl = s.fl := rfl
@[simp] theorem State.modGang_mailbox : (s.modGang id f).mailbox = s.mailbox := rfl
@[simp] theorem State.modGang_saved : (s.modGang id f).saved = s.saved := rfl
@[simp] theorem State.modGang_errs : (s.modGang id f).errs = s.errs := rfl
@[simp] theorem State.modGang_fw : (s.modGang id f).fw = s.fw := rfl
@[simp] theorem State.modGang_counters : (s.modGang id f).counters = s.counters := rfl
@[simp] theorem State.modGang_fresh : (s.modGang id f).fresh = s.fresh := rfl
@[simp] theorem State.modGang_choice : (s.modGang id f).choice = s.choice := rfl
@[simp] theorem State.modGang_turn : (s.modGang id f).turn = s.turn := rfl
@[simp] theorem State.modGang_issuing : (s.modGang id f).issuing = s.issuing := rfl
@[simp] theorem State.modGang_inputs : (s.modGang id f).inputs = s.inputs := rfl
@[simp] theorem State.modGang_out : (s.modGang id f).out = s.out := rfl

end modGang

section modBlock
variable (id : Nat) (f : Block → Block)

@[simp] theorem State.modBlock_pkg : (s.modBlock id f).pkg = s.pkg := rfl
@[simp] theorem State.modBlock_mem : (s.modBlock id f).mem = s.mem := rfl
@[simp] theorem State.modBlock_parts : (s.modBlock id f).parts = s.parts := rfl
@[simp] theorem State.modBlock_funcs : (s.modBlock id f).funcs = s.funcs := rfl
@[simp] theorem State.modBlock_graphs : (s.modBlock id f).graphs = s.graphs := rfl
@[simp] theorem State.modBlock_launches : (s.modBlock id f).launches = s.launches := rfl
@[simp] theorem State.modBlock_gangs : (s.modBlock id f).gangs = s.gangs := rfl
@[simp] theorem State.modBlock_fl : (s.modBlock id f).fl = s.fl := rfl
@[simp] theorem State.modBlock_mailbox : (s.modBlock id f).mailbox = s.mailbox := rfl
@[simp] theorem State.modBlock_saved : (s.modBlock id f).saved = s.saved := rfl
@[simp] theorem State.modBlock_errs : (s.modBlock id f).errs = s.errs := rfl
@[simp] theorem State.modBlock_fw : (s.modBlock id f).fw = s.fw := rfl
@[simp] theorem State.modBlock_counters : (s.modBlock id f).counters = s.counters := rfl
@[simp] theorem State.modBlock_fresh : (s.modBlock id f).fresh = s.fresh := rfl
@[simp] theorem State.modBlock_choice : (s.modBlock id f).choice = s.choice := rfl
@[simp] theorem State.modBlock_turn : (s.modBlock id f).turn = s.turn := rfl
@[simp] theorem State.modBlock_issuing : (s.modBlock id f).issuing = s.issuing := rfl
@[simp] theorem State.modBlock_inputs : (s.modBlock id f).inputs = s.inputs := rfl
@[simp] theorem State.modBlock_out : (s.modBlock id f).out = s.out := rfl

end modBlock

section modLaunch
variable (id : Nat) (f : Launch → Launch)

@[simp] theorem State.modLaunch_pkg : (s.modLaunch id f).pkg = s.pkg := rfl
@[simp] theorem State.modLaunch_mem : (s.modLaunch id f).mem = s.mem := rfl
@[simp] theorem State.modLaunch_parts : (s.modLaunch id f).parts = s.parts := rfl
@[simp] theorem State.modLaunch_funcs : (s.modLaunch id f).funcs = s.funcs := rfl
@[simp] theorem State.modLaunch_graphs : (s.modLaunch id f).graphs = s.graphs := rfl
@[simp] theorem State.modLaunch_blocks : (s.modLaunch id f).blocks = s.blocks := rfl
@[simp] theorem State.modLaunch_gangs : (s.modLaunch id f).gangs = s.gangs := rfl
@[simp] theorem State.modLaunch_fl : (s.modLaunch id f).fl = s.fl := rfl
@[simp] theorem State.modLaunch_mailbox : (s.modLaunch id f).mailbox = s.mailbox := rfl
@[simp] theorem State.modLaunch_saved : (s.modLaunch id f).saved = s.saved := rfl
@[simp] theorem State.modLaunch_errs : (s.modLaunch id f).errs = s.errs := rfl
@[simp] theorem State.modLaunch_fw : (s.modLaunch id f).fw = s.fw := rfl
@[simp] theorem State.modLaunch_counters : (s.modLaunch id f).counters = s.counters := rfl
@[simp] theorem State.modLaunch_fresh : (s.modLaunch id f).fresh = s.fresh := rfl
@[simp] theorem State.modLaunch_choice : (s.modLaunch id f).choice = s.choice := rfl
@[simp] theorem State.modLaunch_turn : (s.modLaunch id f).turn = s.turn := rfl
@[simp] theorem State.modLaunch_issuing : (s.modLaunch id f).issuing = s.issuing := rfl
@[simp] theorem State.modLaunch_inputs : (s.modLaunch id f).inputs = s.inputs := rfl
@[simp] theorem State.modLaunch_out : (s.modLaunch id f).out = s.out := rfl

end modLaunch

section modGraph
variable (id : Nat) (f : Graph → Graph)

@[simp] theorem State.modGraph_pkg : (s.modGraph id f).pkg = s.pkg := rfl
@[simp] theorem State.modGraph_mem : (s.modGraph id f).mem = s.mem := rfl
@[simp] theorem State.modGraph_parts : (s.modGraph id f).parts = s.parts := rfl
@[simp] theorem State.modGraph_funcs : (s.modGraph id f).funcs = s.funcs := rfl
@[simp] theorem State.modGraph_launches : (s.modGraph id f).launches = s.launches := rfl
@[simp] theorem State.modGraph_blocks : (s.modGraph id f).blocks = s.blocks := rfl
@[simp] theorem State.modGraph_gangs : (s.modGraph id f).gangs = s.gangs := rfl
@[simp] theorem State.modGraph_fl : (s.modGraph id f).fl = s.fl := rfl
@[simp] theorem State.modGraph_mailbox : (s.modGraph id f).mailbox = s.mailbox := rfl
@[simp] theorem State.modGraph_saved : (s.modGraph id f).saved = s.saved := rfl
@[simp] theorem State.modGraph_errs : (s.modGraph id f).errs = s.errs := rfl
@[simp] theorem State.modGraph_fw : (s.modGraph id f).fw = s.fw := rfl
@[simp] theorem State.modGraph_counters : (s.modGraph id f).counters = s.counters := rfl
@[simp] theorem State.modGraph_fresh : (s.modGraph id f).fresh = s.fresh := rfl
@[simp] theorem State.modGraph_choice : (s.modGraph id f).choice = s.choice := rfl
@[simp] theorem State.modGraph_turn : (s.modGraph id f).turn = s.turn := rfl
@[simp] theorem State.modGraph_issuing : (s.modGraph id f).issuing = s.issuing := rfl
@[simp] theorem State.modGraph_inputs : (s.modGraph id f).inputs = s.inputs := rfl
@[simp] theorem State.modGraph_out : (s.modGraph id f).out = s.out := rfl

end modGraph

section modNode
variable (gid i : Nat) (f : Node → Node)

@[simp] theorem State.modNode_pkg : (s.modNode gid i f).pkg = s.pkg := rfl
@[simp] theorem State.modNode_mem : (s.modNode gid i f).mem = s.mem := rfl
@[simp] theorem State.modNode_parts : (s.modNode gid i f).parts = s.parts := rfl
@[simp] theorem State.modNode_funcs : (s.modNode gid i f).funcs = s.funcs := rfl
@[simp] theorem State.modNode_launches : (s.modNode gid i f).launches = s.launches := rfl
@[simp] theorem State.modNode_blocks : (s.modNode gid i f).blocks = s.blocks := rfl
@[simp] theorem State.modNode_gangs : (s.modNode gid i f).gangs = s.gangs := rfl
@[simp] theorem State.modNode_fl : (s.modNode gid i f).fl = s.fl := rfl
@[simp] theorem State.modNode_mailbox : (s.modNode gid i f).mailbox = s.mailbox := rfl
@[simp] theorem State.modNode_saved : (s.modNode gid i f).saved = s.saved := rfl
@[simp] theorem State.modNode_errs : (s.modNode gid i f).errs = s.errs := rfl
@[simp] theorem State.modNode_fw : (s.modNode gid i f).fw = s.fw := rfl
@[simp] theorem State.modNode_counters : (s.modNode gid i f).counters = s.counters := rfl
@[simp] theorem State.modNode_fresh : (s.modNode gid i f).fresh = s.fresh := rfl
@[simp] theorem State.modNode_choice : (s.modNode gid i f).choice = s.choice := rfl
@[simp] theorem State.modNode_turn : (s.modNode gid i f).turn = s.turn := rfl
@[simp] theorem State.modNode_issuing : (s.modNode gid i f).issuing = s.issuing := rfl
@[simp] theorem State.modNode_inputs : (s.modNode gid i f).inputs = s.inputs := rfl
@[simp] theorem State.modNode_out : (s.modNode gid i f).out = s.out := rfl

end modNode

section modPart
variable (n : Nat) (f : PartEntry → PartEntry)

@[simp] theorem State.modPart_pkg : (s.modPart n f).pkg = s.pkg := rfl
@[simp] theorem State.modPart_mem : (s.modPart n f).mem = s.mem := rfl
@[simp] theorem State.modPart_funcs : (s.modPart n f).funcs = s.funcs := rfl
@[simp] theorem State.modPart_graphs : (s.modPart n f).graphs = s.graphs := rfl
@[simp] theorem State.modPart_launches : (s.modPart n f).launches = s.launches := rfl
@[simp] theorem State.modPart_blocks : (s.modPart n f).blocks = s.blocks := rfl
@[simp] theorem State.modPart_gangs : (s.modPart n f).gangs = s.gangs := rfl
@[simp] theorem State.modPart_fl : (s.modPart n f).fl = s.fl := rfl
@[simp] theorem State.modPart_mailbox : (s.modPart n f).mailbox = s.mailbox := rfl
@[simp] theorem State.modPart_saved : (s.modPart n f).saved = s.saved := rfl
@[simp] theorem State.modPart_errs : (s.modPart n f).errs = s.errs := rfl
@[simp] theorem State.modPart_fw : (s.modPart n f).fw = s.fw := rfl
@[simp] theorem State.modPart_counters : (s.modPart n f).counters = s.counters := rfl
@[simp] theorem State.modPart_fresh : (s.modPart n f).fresh = s.fresh := rfl
@[simp] theorem State.modPart_choice : (s.modPart n f).choice = s.choice := rfl
@[simp] theorem State.modPart_turn : (s.modPart n f).turn = s.turn := rfl
@[simp] theorem State.modPart_issuing : (s.modPart n f).issuing = s.issuing := rfl
@[simp] theorem State.modPart_inputs : (s.modPart n f).inputs = s.inputs := rfl
@[simp] theorem State.modPart_out : (s.modPart n f).out = s.out := rfl

end modPart

section modFunc
variable (n : Nat) (f : Func → Func)

@[simp] theorem State.modFunc_pkg : (s.modFunc n f).pkg = s.pkg := rfl
@[simp] theorem State.modFunc_mem : (s.modFunc n f).mem = s.mem := rfl
@[simp] theorem State.modFunc_parts : (s.modFunc n f).parts = s.parts := rfl
@[simp] theorem State.modFunc_graphs : (s.modFunc n f).graphs = s.graphs := rfl
@[simp] theorem State.modFunc_launches : (s.modFunc n f).launches = s.launches := rfl
@[simp] theorem State.modFunc_blocks : (s.modFunc n f).blocks = s.blocks := rfl
@[simp] theorem State.modFunc_gangs : (s.modFunc n f).gangs = s.gangs := rfl
@[simp] theorem State.modFunc_fl : (s.modFunc n f).fl = s.fl := rfl
@[simp] theorem State.modFunc_mailbox : (s.modFunc n f).mailbox = s.mailbox := rfl
@[simp] theorem State.modFunc_saved : (s.modFunc n f).saved = s.saved := rfl
@[simp] theorem State.modFunc_errs : (s.modFunc n f).errs = s.errs := rfl
@[simp] theorem State.modFunc_fw : (s.modFunc n f).fw = s.fw := rfl
@[simp] theorem State.modFunc_counters : (s.modFunc n f).counters = s.counters := rfl
@[simp] theorem State.modFunc_fresh : (s.modFunc n f).fresh = s.fresh := rfl
@[simp] theorem State.modFunc_choice : (s.modFunc n f).choice = s.choice := rfl
@[simp] theorem State.modFunc_turn : (s.modFunc n f).turn = s.turn := rfl
@[simp] theorem State.modFunc_issuing : (s.modFunc n f).issuing = s.issuing := rfl
@[simp] theorem State.modFunc_inputs : (s.modFunc n f).inputs = s.inputs := rfl
@[simp] theorem State.modFunc_out : (s.modFunc n f).out = s.out := rfl

end modFunc

section modView
variable (id : Nat) (f : View → View)

@[simp] theorem State.modView_pkg : (s.modView id f).pkg = s.pkg := rfl
@[simp] theorem State.modView_mem : (s.modView id f).mem = s.mem := rfl
@[simp] theorem State.modView_parts : (s.modView id f).parts = s.parts := rfl
@[simp] theorem State.modView_funcs : (s.modView id f).funcs = s.funcs := rfl
@[simp] theorem State.modView_graphs : (s.modView id f).graphs = s.graphs := rfl
@[simp] theorem State.modView_launches : (s.modView id f).launches = s.launches := rfl
@[simp] theorem State.modView_blocks : (s.modView id f).blocks = s.blocks := rfl
@[simp] theorem State.modView_gangs : (s.modView id f).gangs = s.gangs := rfl
@[simp] theorem State.modView_mailbox : (s.modView id f).mailbox = s.mailbox := rfl
@[simp] theorem State.modView_saved : (s.modView id f).saved = s.saved := rfl
@[simp] theorem State.modView_errs : (s.modView id f).errs = s.errs := rfl
@[simp] theorem State.modView_fw : (s.modView id f).fw = s.fw := rfl
@[simp] theorem State.modView_counters : (s.modView id f).counters = s.counters := rfl
@[simp] theorem State.modView_fresh : (s.modView id f).fresh = s.fresh := rfl
@[simp] theorem State.modView_choice : (s.modView id f).choice = s.choice := rfl
@[simp] theorem State.modView_turn : (s.modView id f).turn = s.turn := rfl
@[simp] theorem State.modView_issuing : (s.modView id f).issuing = s.issuing := rfl
@[simp] theorem State.modView_inputs : (s.modView id f).inputs = s.inputs := rfl
@[simp] theorem State.modView_out : (s.modView id f).out = s.out := rfl

end modView

section dropView
variable (id : Nat)

@[simp] theorem State.dropView_pkg : (s.dropView id).pkg = s.pkg := rfl
@[simp] theorem State.dropView_mem : (s.dropView id).mem = s.mem := rfl
@[simp] theorem State.dropView_parts : (s.dropView id).parts = s.parts := rfl
@[simp] theorem State.dropView_funcs : (s.dropView id).funcs = s.funcs := rfl
@[simp] theorem State.dropView_graphs : (s.dropView id).graphs = s.graphs := rfl
@[simp] theorem State.dropView_launches : (s.dropView id).launches = s.launches := rfl
@[simp] theorem State.dropView_blocks : (s.dropView id).blocks = s.blocks := rfl
@[simp] theorem State.dropView_gangs : (s.dropView id).gangs = s.gangs := rfl
@[simp] theorem State.dropView_mailbox : (s.dropView id).mailbox = s.mailbox := rfl
@[simp] theorem State.dropView_saved : (s.dropView id).saved = s.saved := rfl
@[simp] theorem State.dropView_errs : (s.dropView id).errs = s.errs := rfl
@[simp] theorem State.dropView_fw : (s.dropView id).fw = s.fw := rfl
@[simp] theorem State.dropView_counters : (s.dropView id).counters = s.counters := rfl
@[simp] theorem State.dropView_fresh : (s.dropView id).fresh = s.fresh := rfl
@[simp] theorem State.dropView_choice : (s.dropView id).choice = s.choice := rfl
@[simp] theorem State.dropView_turn : (s.dropView id).turn = s.turn := rfl
@[simp] theorem State.dropView_issuing : (s.dropView id).issuing = s.issuing := rfl
@[simp] theorem State.dropView_inputs : (s.dropView id).inputs = s.inputs := rfl
@[simp] theorem State.dropView_out : (s.dropView id).out = s.out := rfl

end dropView

section modPark
variable (id : Nat) (f : Park → Park)

@[simp] theorem State.modPark_pkg : (s.modPark id f).pkg = s.pkg := rfl
@[simp] theorem State.modPark_mem : (s.modPark id f).mem = s.mem := rfl
@[simp] theorem State.modPark_parts : (s.modPark id f).parts = s.parts := rfl
@[simp] theorem State.modPark_funcs : (s.modPark id f).funcs = s.funcs := rfl
@[simp] theorem State.modPark_graphs : (s.modPark id f).graphs = s.graphs := rfl
@[simp] theorem State.modPark_launches : (s.modPark id f).launches = s.launches := rfl
@[simp] theorem State.modPark_blocks : (s.modPark id f).blocks = s.blocks := rfl
@[simp] theorem State.modPark_gangs : (s.modPark id f).gangs = s.gangs := rfl
@[simp] theorem State.modPark_mailbox : (s.modPark id f).mailbox = s.mailbox := rfl
@[simp] theorem State.modPark_saved : (s.modPark id f).saved = s.saved := rfl
@[simp] theorem State.modPark_errs : (s.modPark id f).errs = s.errs := rfl
@[simp] theorem State.modPark_fw : (s.modPark id f).fw = s.fw := rfl
@[simp] theorem State.modPark_counters : (s.modPark id f).counters = s.counters := rfl
@[simp] theorem State.modPark_fresh : (s.modPark id f).fresh = s.fresh := rfl
@[simp] theorem State.modPark_choice : (s.modPark id f).choice = s.choice := rfl
@[simp] theorem State.modPark_turn : (s.modPark id f).turn = s.turn := rfl
@[simp] theorem State.modPark_issuing : (s.modPark id f).issuing = s.issuing := rfl
@[simp] theorem State.modPark_inputs : (s.modPark id f).inputs = s.inputs := rfl
@[simp] theorem State.modPark_out : (s.modPark id f).out = s.out := rfl

end modPark

section dropPark
variable (id : Nat)

@[simp] theorem State.dropPark_pkg : (s.dropPark id).pkg = s.pkg := rfl
@[simp] theorem State.dropPark_mem : (s.dropPark id).mem = s.mem := rfl
@[simp] theorem State.dropPark_parts : (s.dropPark id).parts = s.parts := rfl
@[simp] theorem State.dropPark_funcs : (s.dropPark id).funcs = s.funcs := rfl
@[simp] theorem State.dropPark_graphs : (s.dropPark id).graphs = s.graphs := rfl
@[simp] theorem State.dropPark_launches : (s.dropPark id).launches = s.launches := rfl
@[simp] theorem State.dropPark_blocks : (s.dropPark id).blocks = s.blocks := rfl
@[simp] theorem State.dropPark_gangs : (s.dropPark id).gangs = s.gangs := rfl
@[simp] theorem State.dropPark_mailbox : (s.dropPark id).mailbox = s.mailbox := rfl
@[simp] theorem State.dropPark_saved : (s.dropPark id).saved = s.saved := rfl
@[simp] theorem State.dropPark_errs : (s.dropPark id).errs = s.errs := rfl
@[simp] theorem State.dropPark_fw : (s.dropPark id).fw = s.fw := rfl
@[simp] theorem State.dropPark_counters : (s.dropPark id).counters = s.counters := rfl
@[simp] theorem State.dropPark_fresh : (s.dropPark id).fresh = s.fresh := rfl
@[simp] theorem State.dropPark_choice : (s.dropPark id).choice = s.choice := rfl
@[simp] theorem State.dropPark_turn : (s.dropPark id).turn = s.turn := rfl
@[simp] theorem State.dropPark_issuing : (s.dropPark id).issuing = s.issuing := rfl
@[simp] theorem State.dropPark_inputs : (s.dropPark id).inputs = s.inputs := rfl
@[simp] theorem State.dropPark_out : (s.dropPark id).out = s.out := rfl

end dropPark

section modOp
variable (id : Nat) (f : MemOp → MemOp)

@[simp] theorem State.modOp_pkg : (s.modOp id f).pkg = s.pkg := rfl
@[simp] theorem State.modOp_mem : (s.modOp id f).mem = s.mem := rfl
@[simp] theorem State.modOp_parts : (s.modOp id f).parts = s.parts := rfl
@[simp] theorem State.modOp_funcs : (s.modOp id f).funcs = s.funcs := rfl
@[simp] theorem State.modOp_graphs : (s.modOp id f).graphs = s.graphs := rfl
@[simp] theorem State.modOp_launches : (s.modOp id f).launches = s.launches := rfl
@[simp] theorem State.modOp_blocks : (s.modOp id f).blocks = s.blocks := rfl
@[simp] theorem State.modOp_gangs : (s.modOp id f).gangs = s.gangs := rfl
@[simp] theorem State.modOp_mailbox : (s.modOp id f).mailbox = s.mailbox := rfl
@[simp] theorem State.modOp_saved : (s.modOp id f).saved = s.saved := rfl
@[simp] theorem State.modOp_errs : (s.modOp id f).errs = s.errs := rfl
@[simp] theorem State.modOp_fw : (s.modOp id f).fw = s.fw := rfl
@[simp] theorem State.modOp_counters : (s.modOp id f).counters = s.counters := rfl
@[simp] theorem State.modOp_fresh : (s.modOp id f).fresh = s.fresh := rfl
@[simp] theorem State.modOp_choice : (s.modOp id f).choice = s.choice := rfl
@[simp] theorem State.modOp_turn : (s.modOp id f).turn = s.turn := rfl
@[simp] theorem State.modOp_issuing : (s.modOp id f).issuing = s.issuing := rfl
@[simp] theorem State.modOp_inputs : (s.modOp id f).inputs = s.inputs := rfl
@[simp] theorem State.modOp_out : (s.modOp id f).out = s.out := rfl

end modOp

section dropOp
variable (id : Nat)

@[simp] theorem State.dropOp_pkg : (s.dropOp id).pkg = s.pkg := rfl
@[simp] theorem State.dropOp_mem : (s.dropOp id).mem = s.mem := rfl
@[simp] theorem State.dropOp_parts : (s.dropOp id).parts = s.parts := rfl
@[simp] theorem State.dropOp_funcs : (s.dropOp id).funcs = s.funcs := rfl
@[simp] theorem State.dropOp_graphs : (s.dropOp id).graphs = s.graphs := rfl
@[simp] theorem State.dropOp_launches : (s.dropOp id).launches = s.launches := rfl
@[simp] theorem State.dropOp_blocks : (s.dropOp id).blocks = s.blocks := rfl
@[simp] theorem State.dropOp_gangs : (s.dropOp id).gangs = s.gangs := rfl
@[simp] theorem State.dropOp_mailbox : (s.dropOp id).mailbox = s.mailbox := rfl
@[simp] theorem State.dropOp_saved : (s.dropOp id).saved = s.saved := rfl
@[simp] theorem State.dropOp_errs : (s.dropOp id).errs = s.errs := rfl
@[simp] theorem State.dropOp_fw : (s.dropOp id).fw = s.fw := rfl
@[simp] theorem State.dropOp_counters : (s.dropOp id).counters = s.counters := rfl
@[simp] theorem State.dropOp_fresh : (s.dropOp id).fresh = s.fresh := rfl
@[simp] theorem State.dropOp_choice : (s.dropOp id).choice = s.choice := rfl
@[simp] theorem State.dropOp_turn : (s.dropOp id).turn = s.turn := rfl
@[simp] theorem State.dropOp_issuing : (s.dropOp id).issuing = s.issuing := rfl
@[simp] theorem State.dropOp_inputs : (s.dropOp id).inputs = s.inputs := rfl
@[simp] theorem State.dropOp_out : (s.dropOp id).out = s.out := rfl

end dropOp

section addOp
variable (o : MemOp)

@[simp] theorem State.addOp_pkg : (s.addOp o).pkg = s.pkg := rfl
@[simp] theorem State.addOp_mem : (s.addOp o).mem = s.mem := rfl
@[simp] theorem State.addOp_parts : (s.addOp o).parts = s.parts := rfl
@[simp] theorem State.addOp_funcs : (s.addOp o).funcs = s.funcs := rfl
@[simp] theorem State.addOp_graphs : (s.addOp o).graphs = s.graphs := rfl
@[simp] theorem State.addOp_launches : (s.addOp o).launches = s.launches := rfl
@[simp] theorem State.addOp_blocks : (s.addOp o).blocks = s.blocks := rfl
@[simp] theorem State.addOp_gangs : (s.addOp o).gangs = s.gangs := rfl
@[simp] theorem State.addOp_mailbox : (s.addOp o).mailbox = s.mailbox := rfl
@[simp] theorem State.addOp_saved : (s.addOp o).saved = s.saved := rfl
@[simp] theorem State.addOp_errs : (s.addOp o).errs = s.errs := rfl
@[simp] theorem State.addOp_fw : (s.addOp o).fw = s.fw := rfl
@[simp] theorem State.addOp_counters : (s.addOp o).counters = s.counters := rfl
@[simp] theorem State.addOp_fresh : (s.addOp o).fresh = s.fresh := rfl
@[simp] theorem State.addOp_choice : (s.addOp o).choice = s.choice := rfl
@[simp] theorem State.addOp_turn : (s.addOp o).turn = s.turn := rfl
@[simp] theorem State.addOp_issuing : (s.addOp o).issuing = s.issuing := rfl
@[simp] theorem State.addOp_inputs : (s.addOp o).inputs = s.inputs := rfl
@[simp] theorem State.addOp_out : (s.addOp o).out = s.out := rfl

end addOp

section modJob
variable (id : Nat) (f : MxJob → MxJob)

@[simp] theorem State.modJob_pkg : (s.modJob id f).pkg = s.pkg := rfl
@[simp] theorem State.modJob_mem : (s.modJob id f).mem = s.mem := rfl
@[simp] theorem State.modJob_parts : (s.modJob id f).parts = s.parts := rfl
@[simp] theorem State.modJob_funcs : (s.modJob id f).funcs = s.funcs := rfl
@[simp] theorem State.modJob_graphs : (s.modJob id f).graphs = s.graphs := rfl
@[simp] theorem State.modJob_launches : (s.modJob id f).launches = s.launches := rfl
@[simp] theorem State.modJob_blocks : (s.modJob id f).blocks = s.blocks := rfl
@[simp] theorem State.modJob_gangs : (s.modJob id f).gangs = s.gangs := rfl
@[simp] theorem State.modJob_mailbox : (s.modJob id f).mailbox = s.mailbox := rfl
@[simp] theorem State.modJob_saved : (s.modJob id f).saved = s.saved := rfl
@[simp] theorem State.modJob_errs : (s.modJob id f).errs = s.errs := rfl
@[simp] theorem State.modJob_fw : (s.modJob id f).fw = s.fw := rfl
@[simp] theorem State.modJob_counters : (s.modJob id f).counters = s.counters := rfl
@[simp] theorem State.modJob_fresh : (s.modJob id f).fresh = s.fresh := rfl
@[simp] theorem State.modJob_choice : (s.modJob id f).choice = s.choice := rfl
@[simp] theorem State.modJob_turn : (s.modJob id f).turn = s.turn := rfl
@[simp] theorem State.modJob_issuing : (s.modJob id f).issuing = s.issuing := rfl
@[simp] theorem State.modJob_inputs : (s.modJob id f).inputs = s.inputs := rfl
@[simp] theorem State.modJob_out : (s.modJob id f).out = s.out := rfl

end modJob

section dropJob
variable (id : Nat)

@[simp] theorem State.dropJob_pkg : (s.dropJob id).pkg = s.pkg := rfl
@[simp] theorem State.dropJob_mem : (s.dropJob id).mem = s.mem := rfl
@[simp] theorem State.dropJob_parts : (s.dropJob id).parts = s.parts := rfl
@[simp] theorem State.dropJob_funcs : (s.dropJob id).funcs = s.funcs := rfl
@[simp] theorem State.dropJob_graphs : (s.dropJob id).graphs = s.graphs := rfl
@[simp] theorem State.dropJob_launches : (s.dropJob id).launches = s.launches := rfl
@[simp] theorem State.dropJob_blocks : (s.dropJob id).blocks = s.blocks := rfl
@[simp] theorem State.dropJob_gangs : (s.dropJob id).gangs = s.gangs := rfl
@[simp] theorem State.dropJob_mailbox : (s.dropJob id).mailbox = s.mailbox := rfl
@[simp] theorem State.dropJob_saved : (s.dropJob id).saved = s.saved := rfl
@[simp] theorem State.dropJob_errs : (s.dropJob id).errs = s.errs := rfl
@[simp] theorem State.dropJob_fw : (s.dropJob id).fw = s.fw := rfl
@[simp] theorem State.dropJob_counters : (s.dropJob id).counters = s.counters := rfl
@[simp] theorem State.dropJob_fresh : (s.dropJob id).fresh = s.fresh := rfl
@[simp] theorem State.dropJob_choice : (s.dropJob id).choice = s.choice := rfl
@[simp] theorem State.dropJob_turn : (s.dropJob id).turn = s.turn := rfl
@[simp] theorem State.dropJob_issuing : (s.dropJob id).issuing = s.issuing := rfl
@[simp] theorem State.dropJob_inputs : (s.dropJob id).inputs = s.inputs := rfl
@[simp] theorem State.dropJob_out : (s.dropJob id).out = s.out := rfl

end dropJob

section modCtx
variable (wing ctx : Nat) (f : StreamCtx → StreamCtx)

@[simp] theorem State.modCtx_pkg : (s.modCtx wing ctx f).pkg = s.pkg := rfl
@[simp] theorem State.modCtx_mem : (s.modCtx wing ctx f).mem = s.mem := rfl
@[simp] theorem State.modCtx_parts : (s.modCtx wing ctx f).parts = s.parts := rfl
@[simp] theorem State.modCtx_funcs : (s.modCtx wing ctx f).funcs = s.funcs := rfl
@[simp] theorem State.modCtx_graphs : (s.modCtx wing ctx f).graphs = s.graphs := rfl
@[simp] theorem State.modCtx_launches : (s.modCtx wing ctx f).launches = s.launches := rfl
@[simp] theorem State.modCtx_blocks : (s.modCtx wing ctx f).blocks = s.blocks := rfl
@[simp] theorem State.modCtx_gangs : (s.modCtx wing ctx f).gangs = s.gangs := rfl
@[simp] theorem State.modCtx_mailbox : (s.modCtx wing ctx f).mailbox = s.mailbox := rfl
@[simp] theorem State.modCtx_saved : (s.modCtx wing ctx f).saved = s.saved := rfl
@[simp] theorem State.modCtx_errs : (s.modCtx wing ctx f).errs = s.errs := rfl
@[simp] theorem State.modCtx_fw : (s.modCtx wing ctx f).fw = s.fw := rfl
@[simp] theorem State.modCtx_counters : (s.modCtx wing ctx f).counters = s.counters := rfl
@[simp] theorem State.modCtx_fresh : (s.modCtx wing ctx f).fresh = s.fresh := rfl
@[simp] theorem State.modCtx_choice : (s.modCtx wing ctx f).choice = s.choice := rfl
@[simp] theorem State.modCtx_turn : (s.modCtx wing ctx f).turn = s.turn := rfl
@[simp] theorem State.modCtx_issuing : (s.modCtx wing ctx f).issuing = s.issuing := rfl
@[simp] theorem State.modCtx_inputs : (s.modCtx wing ctx f).inputs = s.inputs := rfl
@[simp] theorem State.modCtx_out : (s.modCtx wing ctx f).out = s.out := rfl

end modCtx

section emit
variable (o : Out)

@[simp] theorem State.emit_pkg : (s.emit o).pkg = s.pkg := rfl
@[simp] theorem State.emit_mem : (s.emit o).mem = s.mem := rfl
@[simp] theorem State.emit_parts : (s.emit o).parts = s.parts := rfl
@[simp] theorem State.emit_funcs : (s.emit o).funcs = s.funcs := rfl
@[simp] theorem State.emit_graphs : (s.emit o).graphs = s.graphs := rfl
@[simp] theorem State.emit_launches : (s.emit o).launches = s.launches := rfl
@[simp] theorem State.emit_blocks : (s.emit o).blocks = s.blocks := rfl
@[simp] theorem State.emit_gangs : (s.emit o).gangs = s.gangs := rfl
@[simp] theorem State.emit_fl : (s.emit o).fl = s.fl := rfl
@[simp] theorem State.emit_mailbox : (s.emit o).mailbox = s.mailbox := rfl
@[simp] theorem State.emit_saved : (s.emit o).saved = s.saved := rfl
@[simp] theorem State.emit_errs : (s.emit o).errs = s.errs := rfl
@[simp] theorem State.emit_fw : (s.emit o).fw = s.fw := rfl
@[simp] theorem State.emit_counters : (s.emit o).counters = s.counters := rfl
@[simp] theorem State.emit_fresh : (s.emit o).fresh = s.fresh := rfl
@[simp] theorem State.emit_choice : (s.emit o).choice = s.choice := rfl
@[simp] theorem State.emit_turn : (s.emit o).turn = s.turn := rfl
@[simp] theorem State.emit_issuing : (s.emit o).issuing = s.issuing := rfl
@[simp] theorem State.emit_inputs : (s.emit o).inputs = s.inputs := rfl

end emit

section clearPoison
variable (p : ErrSite → Bool)

@[simp] theorem State.clearPoison_pkg : (s.clearPoison p).pkg = s.pkg := rfl
@[simp] theorem State.clearPoison_mem : (s.clearPoison p).mem = s.mem := rfl
@[simp] theorem State.clearPoison_parts : (s.clearPoison p).parts = s.parts := rfl
@[simp] theorem State.clearPoison_funcs : (s.clearPoison p).funcs = s.funcs := rfl
@[simp] theorem State.clearPoison_graphs : (s.clearPoison p).graphs = s.graphs := rfl
@[simp] theorem State.clearPoison_launches : (s.clearPoison p).launches = s.launches := rfl
@[simp] theorem State.clearPoison_blocks : (s.clearPoison p).blocks = s.blocks := rfl
@[simp] theorem State.clearPoison_gangs : (s.clearPoison p).gangs = s.gangs := rfl
@[simp] theorem State.clearPoison_fl : (s.clearPoison p).fl = s.fl := rfl
@[simp] theorem State.clearPoison_mailbox : (s.clearPoison p).mailbox = s.mailbox := rfl
@[simp] theorem State.clearPoison_saved : (s.clearPoison p).saved = s.saved := rfl
@[simp] theorem State.clearPoison_fw : (s.clearPoison p).fw = s.fw := rfl
@[simp] theorem State.clearPoison_counters : (s.clearPoison p).counters = s.counters := rfl
@[simp] theorem State.clearPoison_fresh : (s.clearPoison p).fresh = s.fresh := rfl
@[simp] theorem State.clearPoison_choice : (s.clearPoison p).choice = s.choice := rfl
@[simp] theorem State.clearPoison_turn : (s.clearPoison p).turn = s.turn := rfl
@[simp] theorem State.clearPoison_issuing : (s.clearPoison p).issuing = s.issuing := rfl
@[simp] theorem State.clearPoison_inputs : (s.clearPoison p).inputs = s.inputs := rfl
@[simp] theorem State.clearPoison_out : (s.clearPoison p).out = s.out := rfl

end clearPoison

section physWrite
variable (key a n v : Nat)

@[simp] theorem State.physWrite_pkg : (s.physWrite key a n v).pkg = s.pkg := rfl
@[simp] theorem State.physWrite_parts : (s.physWrite key a n v).parts = s.parts := rfl
@[simp] theorem State.physWrite_funcs : (s.physWrite key a n v).funcs = s.funcs := rfl
@[simp] theorem State.physWrite_graphs : (s.physWrite key a n v).graphs = s.graphs := rfl
@[simp] theorem State.physWrite_launches : (s.physWrite key a n v).launches = s.launches := rfl
@[simp] theorem State.physWrite_blocks : (s.physWrite key a n v).blocks = s.blocks := rfl
@[simp] theorem State.physWrite_gangs : (s.physWrite key a n v).gangs = s.gangs := rfl
@[simp] theorem State.physWrite_fl : (s.physWrite key a n v).fl = s.fl := rfl
@[simp] theorem State.physWrite_mailbox : (s.physWrite key a n v).mailbox = s.mailbox := rfl
@[simp] theorem State.physWrite_saved : (s.physWrite key a n v).saved = s.saved := rfl
@[simp] theorem State.physWrite_fw : (s.physWrite key a n v).fw = s.fw := rfl
@[simp] theorem State.physWrite_counters : (s.physWrite key a n v).counters = s.counters := rfl
@[simp] theorem State.physWrite_fresh : (s.physWrite key a n v).fresh = s.fresh := rfl
@[simp] theorem State.physWrite_choice : (s.physWrite key a n v).choice = s.choice := rfl
@[simp] theorem State.physWrite_turn : (s.physWrite key a n v).turn = s.turn := rfl
@[simp] theorem State.physWrite_issuing : (s.physWrite key a n v).issuing = s.issuing := rfl
@[simp] theorem State.physWrite_inputs : (s.physWrite key a n v).inputs = s.inputs := rfl
@[simp] theorem State.physWrite_out : (s.physWrite key a n v).out = s.out := rfl

end physWrite

section scratchWrite
variable (blk o n v : Nat)

@[simp] theorem State.scratchWrite_pkg : (s.scratchWrite blk o n v).pkg = s.pkg := rfl
@[simp] theorem State.scratchWrite_mem : (s.scratchWrite blk o n v).mem = s.mem := rfl
@[simp] theorem State.scratchWrite_parts : (s.scratchWrite blk o n v).parts = s.parts := rfl
@[simp] theorem State.scratchWrite_funcs : (s.scratchWrite blk o n v).funcs = s.funcs := rfl
@[simp] theorem State.scratchWrite_graphs : (s.scratchWrite blk o n v).graphs = s.graphs := rfl
@[simp] theorem State.scratchWrite_launches : (s.scratchWrite blk o n v).launches = s.launches := rfl
@[simp] theorem State.scratchWrite_gangs : (s.scratchWrite blk o n v).gangs = s.gangs := rfl
@[simp] theorem State.scratchWrite_fl : (s.scratchWrite blk o n v).fl = s.fl := rfl
@[simp] theorem State.scratchWrite_mailbox : (s.scratchWrite blk o n v).mailbox = s.mailbox := rfl
@[simp] theorem State.scratchWrite_saved : (s.scratchWrite blk o n v).saved = s.saved := rfl
@[simp] theorem State.scratchWrite_fw : (s.scratchWrite blk o n v).fw = s.fw := rfl
@[simp] theorem State.scratchWrite_counters : (s.scratchWrite blk o n v).counters = s.counters := rfl
@[simp] theorem State.scratchWrite_fresh : (s.scratchWrite blk o n v).fresh = s.fresh := rfl
@[simp] theorem State.scratchWrite_choice : (s.scratchWrite blk o n v).choice = s.choice := rfl
@[simp] theorem State.scratchWrite_turn : (s.scratchWrite blk o n v).turn = s.turn := rfl
@[simp] theorem State.scratchWrite_issuing : (s.scratchWrite blk o n v).issuing = s.issuing := rfl
@[simp] theorem State.scratchWrite_inputs : (s.scratchWrite blk o n v).inputs = s.inputs := rfl
@[simp] theorem State.scratchWrite_out : (s.scratchWrite blk o n v).out = s.out := rfl

end scratchWrite

section newId

@[simp] theorem State.newId_pkg : (s.newId).2.pkg = s.pkg := rfl
@[simp] theorem State.newId_mem : (s.newId).2.mem = s.mem := rfl
@[simp] theorem State.newId_parts : (s.newId).2.parts = s.parts := rfl
@[simp] theorem State.newId_funcs : (s.newId).2.funcs = s.funcs := rfl
@[simp] theorem State.newId_graphs : (s.newId).2.graphs = s.graphs := rfl
@[simp] theorem State.newId_launches : (s.newId).2.launches = s.launches := rfl
@[simp] theorem State.newId_blocks : (s.newId).2.blocks = s.blocks := rfl
@[simp] theorem State.newId_gangs : (s.newId).2.gangs = s.gangs := rfl
@[simp] theorem State.newId_fl : (s.newId).2.fl = s.fl := rfl
@[simp] theorem State.newId_mailbox : (s.newId).2.mailbox = s.mailbox := rfl
@[simp] theorem State.newId_saved : (s.newId).2.saved = s.saved := rfl
@[simp] theorem State.newId_errs : (s.newId).2.errs = s.errs := rfl
@[simp] theorem State.newId_fw : (s.newId).2.fw = s.fw := rfl
@[simp] theorem State.newId_counters : (s.newId).2.counters = s.counters := rfl
@[simp] theorem State.newId_choice : (s.newId).2.choice = s.choice := rfl
@[simp] theorem State.newId_turn : (s.newId).2.turn = s.turn := rfl
@[simp] theorem State.newId_issuing : (s.newId).2.issuing = s.issuing := rfl
@[simp] theorem State.newId_inputs : (s.newId).2.inputs = s.inputs := rfl
@[simp] theorem State.newId_out : (s.newId).2.out = s.out := rfl
@[simp] theorem State.newId_fresh : (s.newId).2.fresh = s.fresh + 1 := rfl

end newId

section forgetCode

@[simp] theorem State.forgetCode_pkg : s.forgetCode.pkg = s.pkg := rfl
@[simp] theorem State.forgetCode_parts : s.forgetCode.parts = s.parts := rfl
@[simp] theorem State.forgetCode_funcs : s.forgetCode.funcs = s.funcs := rfl
@[simp] theorem State.forgetCode_graphs : s.forgetCode.graphs = s.graphs := rfl
@[simp] theorem State.forgetCode_launches : s.forgetCode.launches = s.launches := rfl
@[simp] theorem State.forgetCode_blocks : s.forgetCode.blocks = s.blocks := rfl
@[simp] theorem State.forgetCode_gangs : s.forgetCode.gangs = s.gangs := rfl
@[simp] theorem State.forgetCode_fl : s.forgetCode.fl = s.fl := rfl
@[simp] theorem State.forgetCode_mailbox : s.forgetCode.mailbox = s.mailbox := rfl
@[simp] theorem State.forgetCode_saved : s.forgetCode.saved = s.saved := rfl
@[simp] theorem State.forgetCode_errs : s.forgetCode.errs = s.errs := rfl
@[simp] theorem State.forgetCode_fw : s.forgetCode.fw = s.fw := rfl
@[simp] theorem State.forgetCode_counters : s.forgetCode.counters = s.counters := rfl
@[simp] theorem State.forgetCode_fresh : s.forgetCode.fresh = s.fresh := rfl
@[simp] theorem State.forgetCode_choice : s.forgetCode.choice = s.choice := rfl
@[simp] theorem State.forgetCode_turn : s.forgetCode.turn = s.turn := rfl
@[simp] theorem State.forgetCode_issuing : s.forgetCode.issuing = s.issuing := rfl
@[simp] theorem State.forgetCode_inputs : s.forgetCode.inputs = s.inputs := rfl
@[simp] theorem State.forgetCode_out : s.forgetCode.out = s.out := rfl

end forgetCode

section choose
variable (n : Nat)

@[simp] theorem State.choose_pkg : (s.choose n).2.pkg = s.pkg := rfl
@[simp] theorem State.choose_mem : (s.choose n).2.mem = s.mem := rfl
@[simp] theorem State.choose_parts : (s.choose n).2.parts = s.parts := rfl
@[simp] theorem State.choose_funcs : (s.choose n).2.funcs = s.funcs := rfl
@[simp] theorem State.choose_graphs : (s.choose n).2.graphs = s.graphs := rfl
@[simp] theorem State.choose_launches : (s.choose n).2.launches = s.launches := rfl
@[simp] theorem State.choose_blocks : (s.choose n).2.blocks = s.blocks := rfl
@[simp] theorem State.choose_gangs : (s.choose n).2.gangs = s.gangs := rfl
@[simp] theorem State.choose_fl : (s.choose n).2.fl = s.fl := rfl
@[simp] theorem State.choose_mailbox : (s.choose n).2.mailbox = s.mailbox := rfl
@[simp] theorem State.choose_saved : (s.choose n).2.saved = s.saved := rfl
@[simp] theorem State.choose_errs : (s.choose n).2.errs = s.errs := rfl
@[simp] theorem State.choose_fw : (s.choose n).2.fw = s.fw := rfl
@[simp] theorem State.choose_counters : (s.choose n).2.counters = s.counters := rfl
@[simp] theorem State.choose_fresh : (s.choose n).2.fresh = s.fresh := rfl
@[simp] theorem State.choose_turn : (s.choose n).2.turn = s.turn := rfl
@[simp] theorem State.choose_issuing : (s.choose n).2.issuing = s.issuing := rfl
@[simp] theorem State.choose_inputs : (s.choose n).2.inputs = s.inputs := rfl
@[simp] theorem State.choose_out : (s.choose n).2.out = s.out := rfl
@[simp] theorem State.choose_choice : (s.choose n).2.choice = s.choice + 1 := rfl

end choose

@[simp] theorem State.addPoison_pkg (e : ErrSite) : (s.addPoison e).pkg = s.pkg := by
  unfold State.addPoison; split <;> rfl
@[simp] theorem State.addPoison_mem (e : ErrSite) : (s.addPoison e).mem = s.mem := by
  unfold State.addPoison; split <;> rfl
@[simp] theorem State.addPoison_parts (e : ErrSite) : (s.addPoison e).parts = s.parts := by
  unfold State.addPoison; split <;> rfl
@[simp] theorem State.addPoison_funcs (e : ErrSite) : (s.addPoison e).funcs = s.funcs := by
  unfold State.addPoison; split <;> rfl
@[simp] theorem State.addPoison_graphs (e : ErrSite) : (s.addPoison e).graphs = s.graphs := by
  unfold State.addPoison; split <;> rfl
@[simp] theorem State.addPoison_launches (e : ErrSite) : (s.addPoison e).launches = s.launches := by
  unfold State.addPoison; split <;> rfl
@[simp] theorem State.addPoison_blocks (e : ErrSite) : (s.addPoison e).blocks = s.blocks := by
  unfold State.addPoison; split <;> rfl
@[simp] theorem State.addPoison_gangs (e : ErrSite) : (s.addPoison e).gangs = s.gangs := by
  unfold State.addPoison; split <;> rfl
@[simp] theorem State.addPoison_fl (e : ErrSite) : (s.addPoison e).fl = s.fl := by
  unfold State.addPoison; split <;> rfl
@[simp] theorem State.addPoison_mailbox (e : ErrSite) : (s.addPoison e).mailbox = s.mailbox := by
  unfold State.addPoison; split <;> rfl
@[simp] theorem State.addPoison_saved (e : ErrSite) : (s.addPoison e).saved = s.saved := by
  unfold State.addPoison; split <;> rfl
@[simp] theorem State.addPoison_fw (e : ErrSite) : (s.addPoison e).fw = s.fw := by
  unfold State.addPoison; split <;> rfl
@[simp] theorem State.addPoison_counters (e : ErrSite) : (s.addPoison e).counters = s.counters := by
  unfold State.addPoison; split <;> rfl
@[simp] theorem State.addPoison_fresh (e : ErrSite) : (s.addPoison e).fresh = s.fresh := by
  unfold State.addPoison; split <;> rfl
@[simp] theorem State.addPoison_choice (e : ErrSite) : (s.addPoison e).choice = s.choice := by
  unfold State.addPoison; split <;> rfl
@[simp] theorem State.addPoison_turn (e : ErrSite) : (s.addPoison e).turn = s.turn := by
  unfold State.addPoison; split <;> rfl
@[simp] theorem State.addPoison_issuing (e : ErrSite) : (s.addPoison e).issuing = s.issuing := by
  unfold State.addPoison; split <;> rfl
@[simp] theorem State.addPoison_inputs (e : ErrSite) : (s.addPoison e).inputs = s.inputs := by
  unfold State.addPoison; split <;> rfl
@[simp] theorem State.addPoison_out (e : ErrSite) : (s.addPoison e).out = s.out := by
  unfold State.addPoison; split <;> rfl

/-! ### Lookups after an update -/

theorem find?_mapWhere {α : Type} (p q : α → Bool) (f : α → α) (l : List α) (hq : ∀ x, p x = true → q (f x) = q x) :
    (mapWhere p f l).find? q = (l.find? q).map (fun x => if p x then f x else x) := by
  induction l with
  | nil => rfl
  | cons x t ih =>
    have hx : q (if p x then f x else x) = q x := by
      split
      · exact hq x ‹_›
      · rfl
    simp only [mapWhere, List.map_cons, List.find?_cons, hx] at *
    split
    · rfl
    · exact ih

variable {s}

/-- A gang after an update of a gang that keeps its number. -/
theorem State.gang?_modGang {id i : Nat} {f : Gang → Gang} (hf : ∀ g, (f g).id = g.id) :
    (s.modGang id f).gang? i = (s.gang? i).map (fun g => if g.id = id then f g else g) := by
  unfold State.gang? State.modGang
  rw [find?_mapWhere _ _ _ _ (fun g _ => by rw [hf])]
  simp

theorem State.gang?_modGang_same {id : Nat} {f : Gang → Gang} (hf : ∀ g, (f g).id = g.id) :
    (s.modGang id f).gang? id = (s.gang? id).map f := by
  rw [State.gang?_modGang hf]
  cases h : s.gang? id with
  | none => rfl
  | some g =>
    have : g.id = id := by simpa using List.find?_some h
    simp [this]

theorem State.gang?_modGang_other {id i : Nat} {f : Gang → Gang} (hf : ∀ g, (f g).id = g.id) (h : i ≠ id) :
    (s.modGang id f).gang? i = s.gang? i := by
  rw [State.gang?_modGang hf]
  cases hg : s.gang? i with
  | none => rfl
  | some g =>
    have : g.id = i := by simpa using List.find?_some hg
    simp [this, h]

theorem State.gang?_id {id : Nat} {g : Gang} (h : s.gang? id = some g) : g.id = id := by
  simpa using List.find?_some h

theorem State.block?_id {id : Nat} {b : Block} (h : s.block? id = some b) : b.id = id := by
  simpa using List.find?_some h

theorem State.block?_modBlock {id i : Nat} {f : Block → Block} (hf : ∀ b, (f b).id = b.id) :
    (s.modBlock id f).block? i = (s.block? i).map (fun b => if b.id = id then f b else b) := by
  unfold State.block? State.modBlock
  rw [find?_mapWhere _ _ _ _ (fun b _ => by rw [hf])]
  simp

end Sys2Proof.Machine
end

