-- ==== Sys2Proof/Laws/Frame.lean ====
section
/-!
SUPPORT. Laws/Frame.lean: the frames of the shared operations: what taking a trap, ending a clause, the loss of a
park and the end of an issue leave alone.
-/

namespace Sys2Proof.Machine

/-! ### Gangs with the same registers -/

/-- The second gang has the first one's number, register files, counters, stack and view status; its trap registers may
be those of a trap of a code in `T`. -/
structure Gang.Same (T : Nat → Prop) (g h : Gang) : Prop where
  id : h.id = g.id
  rest : h.rest = g.rest
  regs : h.regs = g.regs ∨ ∃ tr : Trap, T tr.code ∧ h.regs = g.regs.take tr
  d : h.d = g.d
  q : h.q = g.q
  p : h.p = g.p
  c : h.c = g.c
  amax : h.amax = g.amax

/-- Trap registers as one trap after another writes them. -/
theorem took {T : Nat → Prop} {a b c : GangRegs} (h : b = a ∨ ∃ tr : Trap, T tr.code ∧ b = a.take tr)
    (k : c = b ∨ ∃ tr : Trap, T tr.code ∧ c = b.take tr) : c = a ∨ ∃ tr : Trap, T tr.code ∧ c = a.take tr := by
  rcases k with rfl | ⟨tr, ht, rfl⟩
  · exact h
  · rcases h with rfl | ⟨tr', _, rfl⟩
    · exact .inr ⟨tr, ht, rfl⟩
    · exact .inr ⟨tr, ht, rfl⟩

variable {T : Nat → Prop}

theorem Gang.Same.refl (g : Gang) : Gang.Same T g g := ⟨rfl, rfl, .inl rfl, rfl, rfl, rfl, rfl, rfl⟩

theorem Gang.Same.trans {g h k : Gang} (a : Gang.Same T g h) (b : Gang.Same T h k) : Gang.Same T g k :=
  ⟨b.id.trans a.id, b.rest.trans a.rest, took a.regs b.regs, b.d.trans a.d, b.q.trans a.q, b.p.trans a.p, b.c.trans a.c,
   b.amax.trans a.amax⟩

theorem Gang.Same.lanes {g h : Gang} (a : Gang.Same T g h) : h.lanes = g.lanes := by
  have := a.rest
  simp only [Gang.rest, Prod.mk.injEq] at this
  simp [Gang.lanes, this.1]

theorem Gang.Same.getR {g h : Gang} (a : Gang.Same T g h) (r : RFile) (x l : Nat) : h.getR r x l = g.getR r x l := by
  have hp : h.getP x = g.getP x := by unfold Gang.getP; rw [a.p, a.lanes]
  cases r <;> simp only [Gang.getR, Gang.getD, Gang.getQ, Gang.getC, Gang.getAmax, a.d, a.q, a.c, a.amax, hp]

theorem Gang.same_modSlice (g : Gang) (i : Nat) (f : Slice → Slice) : Gang.Same T g (g.modSlice i f) :=
  ⟨rfl, rfl, .inl rfl, rfl, rfl, rfl, rfl, rfl⟩

/-- A fold of changes that keep the registers keeps them. -/
theorem Gang.same_foldl {α : Type} (f : Gang → α → Gang) (hf : ∀ (g : Gang) a, Gang.Same T g (f g a)) (l : List α) (g : Gang) :
    Gang.Same T g (l.foldl f g) := by
  induction l generalizing g with
  | nil => exact .refl g
  | cons a t ih => exact (hf g a).trans (ih _)

theorem Gang.same_modAgent (g : Gang) (sl : Option Nat) (f : Slice → Slice) : Gang.Same T g (g.modAgent sl f) :=
  Gang.same_foldl _ (fun h i => h.same_modSlice i f) _ g

theorem Gang.modAgent_regs (g : Gang) (sl : Option Nat) (f : Slice → Slice) : (g.modAgent sl f).regs = g.regs := by
  unfold Gang.modAgent
  induction (g.members sl) generalizing g with
  | nil => rfl
  | cons i l ih => exact ih (g.modSlice i f)

theorem Gang.same_escalate (g : Gang) (sl : Option Nat) {t : Trap} (ht : T t.code) (m : Mask) (now : Nat) :
    Gang.Same T g (g.escalate sl t m now) :=
  (g.same_modAgent sl _).trans ⟨rfl, rfl, .inr ⟨t, ht, by rw [g.modAgent_regs]; rfl⟩, rfl, rfl, rfl, rfl, rfl⟩

theorem Gang.same_enterHandler (g : Gang) (sl : Option Nat) {t : Trap} (ht : T t.code) (m : Mask) (vec now : Nat) :
    Gang.Same T g (g.enterHandler sl t m vec now) := by
  unfold Gang.enterHandler
  extract_lets ts wait start g1
  have h : Gang.Same T g g1 := Gang.same_foldl _ (fun h i => h.same_modSlice i _) _ g
  exact ⟨h.id, h.rest, .inr ⟨t, ht, rfl⟩, h.d, h.q, h.p, h.c, h.amax⟩

theorem Gang.same_leaveHandler (g : Gang) (ts : TrapState) (skip : Option Nat) (now : Nat) :
    Gang.Same T g (g.leaveHandler ts skip now) :=
  (Gang.same_foldl _ (fun h (p : Nat × Slice) => h.same_modSlice p.1 _) _ g).trans ⟨rfl, rfl, .inl rfl, rfl, rfl, rfl, rfl, rfl⟩

theorem Gang.same_repart (g : Gang) : Gang.Same T g g.repart := by
  unfold Gang.repart
  split
  · exact .refl g
  · split
    · exact ⟨rfl, rfl, .inl rfl, rfl, rfl, rfl, rfl, rfl⟩
    · exact .refl g

theorem Gang.same_fold (g : Gang) (ws : List Word) : Gang.Same T g (g.fold ws) := by
  unfold Gang.fold
  split
  · exact ⟨rfl, rfl, .inl rfl, rfl, rfl, rfl, rfl, rfl⟩
  · exact .refl g

theorem Gang.same_regangWhole (g : Gang) : Gang.Same T g g.regangWhole :=
  (Gang.same_foldl _ (fun h i => h.same_modSlice i _) _ g).trans ⟨rfl, rfl, .inl rfl, rfl, rfl, rfl, rfl, rfl⟩

theorem Gang.same_regang (g : Gang) : Gang.Same T g g.regang := by
  unfold Gang.regang
  dsimp only
  split
  · exact .refl g
  · split
    · exact .refl g
    · have h := Gang.same_foldl (T := T) (fun (h : Gang) (i : Nat) => h.modSlice i Slice.pastRegang)
        (fun h i => h.same_modSlice i _) g.liveSlices g
      have h' : ∀ b, Gang.Same T g { (g.liveSlices.foldl (fun h i => h.modSlice i Slice.pastRegang) g) with cede := b } :=
        fun _ => ⟨h.id, h.rest, h.regs, h.d, h.q, h.p, h.c, h.amax⟩
      split
      · exact ((h' _).trans (Gang.same_regangWhole _)).trans (Gang.same_fold _ _)
      · exact h' _

theorem Gang.same_endClauses {g h : Gang} {sl : Option Nat} (he : g.endClauses sl = some h) : Gang.Same T g h := by
  unfold Gang.endClauses at he
  have key : ∀ (l : List Nat) (acc : Option Gang), (∀ k, acc = some k → Gang.Same T g k) →
      ∀ k, l.foldl (fun acc i => acc.bind (fun h => match h.slice? i with
        | some x => if x.active &&& g.live ≠ 0 ∧ x.atEnd then x.endClause.map (fun y => h.modSlice i (fun _ => y)) else some h
        | none => some h)) acc = some k → Gang.Same T g k := by
    intro l
    induction l with
    | nil => intro acc ha k hk; exact ha k hk
    | cons i t ih =>
      intro acc ha k hk
      refine ih _ ?_ k hk
      intro m hm
      obtain ⟨h0, hacc, hm⟩ := Option.bind_eq_some_iff.1 hm
      have h1 := ha h0 hacc
      split at hm
      · split at hm
        · obtain ⟨y, _, rfl⟩ := Option.map_eq_some_iff.1 hm
          exact h1.trans (h0.same_modSlice i _)
        · cases hm; exact h1
      · cases hm; exact h1
  exact key _ _ (fun k hk => by cases hk; exact .refl g) h he

/-! ### Frames -/

variable {W : Nat → RFile → Nat → Nat → Prop} {T : Nat → Prop} {s t u : State}

theorem Frame.refl (s : State) : Frame W T s s :=
  ⟨fun _ g h => ⟨g, h, rfl, .inl rfl, fun _ _ _ _ _ => rfl⟩, fun _ b h => ⟨b, h, rfl⟩, rfl⟩

theorem Frame.trans (a : Frame W T s t) (b : Frame W T t u) : Frame W T s u := by
  refine ⟨fun i g hg => ?_, fun i x hx => ?_, b.mem.trans a.mem⟩
  · obtain ⟨h, hh, h1, h3, h2⟩ := a.gangs i g hg
    obtain ⟨k, hk, k1, k3, k2⟩ := b.gangs i h hh
    exact ⟨k, hk, k1.trans h1, took h3 k3, fun r x l hl hw => (k2 r x l hl hw).trans (h2 r x l hl hw)⟩
  · obtain ⟨d, hd, h1⟩ := a.blocks i x hx
    obtain ⟨e, he, h2⟩ := b.blocks i d hd
    exact ⟨e, he, h2.trans h1⟩

/-- States with the same gangs, blocks and memory. -/
theorem Frame.of_eq (hg : t.gangs = s.gangs) (hb : t.blocks = s.blocks) (hm : t.mem = s.mem) : Frame W T s t :=
  ⟨fun i g h => ⟨g, by rw [State.gang?, hg]; exact h, rfl, .inl rfl, fun _ _ _ _ _ => rfl⟩,
   fun i b h => ⟨b, by rw [State.block?, hb]; exact h, rfl⟩, hm⟩

/-- An update of a gang that keeps its registers. -/
theorem Frame.modGang {id : Nat} {f : Gang → Gang} (hf : ∀ g : Gang, Gang.Same T g (f g)) : Frame W T s (s.modGang id f) := by
  refine ⟨fun i g hg => ?_, fun i b h => ⟨b, h, rfl⟩, rfl⟩
  refine ⟨if g.id = id then f g else g, ?_, ?_, ?_, ?_⟩
  · rw [State.gang?_modGang (fun g => (hf g).id), hg]; rfl
  · split
    · exact (hf g).rest
    · rfl
  · split
    · exact (hf g).regs
    · exact .inl rfl
  · intro r x l _ _
    split
    · exact (hf g).getR r x l
    · rfl

theorem Frame.modBlock {id : Nat} {f : Block → Block} (hf : ∀ b, (f b).id = b.id ∧ (f b).store = b.store) :
    Frame W T s (s.modBlock id f) := by
  refine ⟨fun i g hg => ⟨g, hg, rfl, .inl rfl, fun _ _ _ _ _ => rfl⟩, fun i b hb => ?_, rfl⟩
  refine ⟨if b.id = id then f b else b, ?_, ?_⟩
  · rw [State.block?_modBlock (fun b => (hf b).1), hb]; rfl
  · split
    · exact (hf b).2
    · rfl

theorem Frame.clearPoison (p : ErrSite → Bool) : Frame W T s (s.clearPoison p) := .of_eq rfl rfl rfl

theorem Frame.foldl {α : Type} (f : State → α → State) (hf : ∀ s a, Frame W T s (f s a)) (l : List α) (s : State) :
    Frame W T s (l.foldl f s) := by
  induction l generalizing s with
  | nil => exact .refl s
  | cons a t ih => exact (hf s a).trans (ih _)

/-! ### Shading gangs (R290, R291, R301) -/

theorem Frame.startShading (v : View) (hdr : LaunchHdr) (rays : List Ray) (cl pl : Nat) :
    Frame W T s (s.startShading v hdr rays cl pl) := by
  refine ⟨fun i g hg => ⟨g, ?_, rfl, .inl rfl, fun _ _ _ _ _ => rfl⟩, fun i b hb => ⟨b, ?_, rfl⟩, rfl⟩
  · show List.find? _ (_ ++ _) = _
    rw [List.find?_append, show s.gangs.find? (fun g => g.id == i) = some g from hg]; rfl
  · show List.find? _ (_ ++ _) = _
    rw [List.find?_append, show s.blocks.find? (fun b => b.id == i) = some b from hb]; rfl

theorem Frame.startNext {l lv w : Nat} (h : s.startNext l lv w = some t) : Frame W T s t := by
  unfold State.startNext at h
  split at h
  · cases h
  · split at h
    · cases h; exact Frame.startShading ..
    · cases h

theorem Frame.modView {id : Nat} {f : View → View} : Frame W T s (s.modView id f) := .of_eq rfl rfl rfl

theorem Frame.shadeEnded (b v : Nat) : Frame W T s (s.shadeEnded b v) := by
  unfold State.shadeEnded
  have h1 : Frame W T s ((s.modView v (fun w => { w with running := w.running - 1 })).modBlock b
      (fun b => { b with ended := true })) := Frame.modView.trans (Frame.modBlock fun b => ⟨rfl, rfl⟩)
  dsimp only
  split
  · exact h1
  · refine h1.trans ?_
    have hd : ∀ (u : State) (c : Bool) (i : Nat), Frame W T u (if c then u.dropView i else u) := fun u c i => by
      cases c
      · exact .refl u
      · exact .of_eq rfl rfl rfl
    refine Frame.trans ?_ (hd _ _ _)
    cases hn : State.startNext _ _ _ _ with
    | none => exact .refl _
    | some u => exact Frame.startNext hn

/-- The end of a gang changes no register and no memory (R46). -/
theorem Frame.endGang (gid : Nat) : Frame W T s (s.endGang gid) := by
  unfold State.endGang
  split
  · exact .refl s
  · split
    · exact .refl s
    · have h1 : Frame W T s (s.modGang gid (fun g => { g with life := .ended, pendTraps := [], arrivals := [] })) :=
        Frame.modGang fun g => ⟨rfl, rfl, .inl rfl, rfl, rfl, rfl, rfl, rfl⟩
      dsimp only
      split
      · exact h1.trans (Frame.shadeEnded ..)
      · exact h1

theorem Gang.same_without (g : Gang) (m : Mask) : Gang.Same T g (g.without m) := ⟨rfl, rfl, .inl rfl, rfl, rfl, rfl, rfl, rfl⟩

theorem Frame.endShading (g : Gang) (v : Nat) (px : List (Nat × Nat)) : Frame W T s (s.endShading g v px) := by
  unfold State.endShading
  extract_lets s1
  have h1 : Frame W T s s1 := Frame.modGang fun g => ⟨rfl, rfl, .inl rfl, rfl, rfl, rfl, rfl, rfl⟩
  exact h1.trans (Frame.modView.trans (Frame.endGang g.id))

/-! ### Traps (R320 to R325) -/

theorem Frame.escalates (g : Gang) (sl : Option Nat) {tr : Trap} (ht : T tr.code) (m : Mask) : Frame W T s (s.escalates g sl tr m) := by
  unfold State.escalates
  have h1 : Frame W T s (s.modGang g.id (fun g => g.escalate sl tr m s.pkg.clock)) :=
    Frame.modGang fun g => g.same_escalate sl ht ..
  dsimp only
  split
  · exact h1.trans (Frame.endShading ..)
  · exact h1

theorem Frame.cleanTrapState (gid : Nat) : Frame W T s (s.cleanTrapState gid) := by
  unfold State.cleanTrapState
  split
  · exact .refl s
  · exact Frame.clearPoison _

/-- Taking a trap changes no register, no memory and no tile (R320 to R325). -/
theorem Frame.takeTrap (aid : AgentId) {tr : Trap} (ht : T tr.code) (m : Mask) : Frame W T s (s.takeTrap aid tr m) := by
  unfold State.takeTrap
  split
  · exact .refl s
  · extract_lets vec now
    split
    · split
      · exact Frame.escalates _ _ ht _
      · exact Frame.modGang fun g => g.same_modAgent ..
    · split
      · exact Frame.escalates _ _ ht _
      · exact (Frame.modGang fun g => g.same_enterHandler aid.slice ht ..).trans (Frame.cleanTrapState _)

/-! ### The end of an issue (R81, R84, R350) -/

theorem Frame.endTurn (e k : Nat) : Frame W T s (s.endTurn e k) := by
  unfold State.endTurn
  dsimp only
  split <;> exact .of_eq rfl rfl rfl

/-- The gang has no twin: no other copy of it lives (R348). -/
def State.Untwinned (s : State) (gid : Nat) : Prop := ∀ g, s.gang? gid = some g → s.otherCopy g = none

/-- Changes of a gang that keep its number, kind and life keep it without a twin. -/
theorem State.Untwinned.modGang {i gid : Nat} {f : Gang → Gang} (hf : ∀ g, (f g).id = g.id ∧ (f g).kind = g.kind ∧ (f g).life = g.life)
    (h : s.Untwinned i) : (s.modGang gid f).Untwinned i := by
  have hshadow : ∀ p, (s.modGang gid f).shadowOf p = (s.shadowOf p).map (fun g => if g.id == gid then f g else g) := fun p => by
    unfold State.shadowOf State.modGang
    exact find?_mapWhere _ _ _ _ (fun x _ => by rw [(hf x).2.1, (hf x).2.2])
  intro g' hg'
  rw [State.gang?_modGang (fun g => (hf g).1)] at hg'
  obtain ⟨g, hg, rfl⟩ := Option.map_eq_some_iff.1 hg'
  have hk : (if g.id = gid then f g else g).kind = g.kind := by split <;> simp [hf]
  have hi : (if g.id = gid then f g else g).id = g.id := by split <;> simp [hf]
  have ho := h g hg
  unfold State.otherCopy at ho ⊢
  rw [hk, hi]
  cases hkind : g.kind with
  | plain => rw [hkind] at ho; simp only at ho ⊢; rw [hshadow, ho]; rfl
  | shading v px pl => rw [hkind] at ho; simp only at ho ⊢; rw [hshadow, ho]; rfl
  | shadow p =>
    rw [hkind] at ho; simp only at ho ⊢
    rw [State.gang?_modGang (fun g => (hf g).1)]
    cases hp : s.gang? p with
    | none => rfl
    | some x =>
      rw [hp] at ho
      simp only [Option.map_some, Option.filter] at ho ⊢
      have hl : (if x.id = gid then f x else x).life = x.life := by split <;> simp [hf]
      simp only [hl]
      split at ho <;> simp_all

theorem State.Untwinned.of_gangs {gid : Nat} (hg : t.gangs = s.gangs) (h : s.Untwinned gid) : t.Untwinned gid := by
  intro g hg'
  have := h g (by rw [State.gang?, ← hg]; exact hg')
  unfold State.otherCopy State.shadowOf State.gang? at this ⊢
  rw [hg]; exact this

/-- Of a gang without a twin the agent takes the trap, and no other (R349). -/
theorem Frame.trapAtNext (aid : AgentId) {tr : Trap} (same : Gang → Bool) (h : s.Untwinned aid.gang) (ht : T tr.code) :
    Frame W T s (s.trapAtNext aid tr same) := by
  unfold State.trapAtNext
  split
  · exact .refl s
  next g hg => rw [h g hg]; exact Frame.takeTrap aid ht _

theorem Frame.endBodies (aid : AgentId) (h : s.Untwinned aid.gang) (ht : T 7) : Frame W T s (s.endBodies aid) := by
  unfold State.endBodies
  split
  · exact .refl s
  next g hg =>
    split
    next h he =>
      refine ⟨fun i k hk => ?_, fun i b hb => ⟨b, hb, rfl⟩, rfl⟩
      have hs : Gang.Same T g h.repart := (Gang.same_endClauses he).trans (Gang.same_repart h)
      have hid := State.gang?_id hg
      have hk' : k.id = g.id → k = g := fun heq => by
        have h1 : k.id = i := State.gang?_id hk
        have : aid.gang = i := by rw [← hid, ← heq, h1]
        rw [this, hk] at hg; exact Option.some.inj hg
      refine ⟨if k.id = g.id then h.repart else k, ?_, ?_, ?_, ?_⟩
      · show (State.modGang s g.id (fun _ => h.repart)).gang? i = _
        unfold State.gang? State.modGang
        rw [find?_mapWhere]
        · rw [show s.gangs.find? (fun g => g.id == i) = some k from hk]; simp
        · intro x hx
          have hx' : x.id = g.id := by simpa using hx
          show ((h.repart).id == i) = (x.id == i)
          rw [hs.id, hx']
      · split
        next heq => rw [hk' heq]; exact hs.rest
        · rfl
      · split
        next heq => rw [hk' heq]; exact hs.regs
        · exact .inl rfl
      · intro r x l _ _
        split
        next heq => rw [hk' heq]; exact hs.getR r x l
        · rfl
    · split
      next t hend =>
        split
        · refine Frame.trapAtNext aid _ h ?_
          have : t.code = 7 := by
            unfold Gang.endTrap at hend
            split at hend
            · cases hend; rfl
            · cases hend
          rw [this]; exact ht
        · exact .refl s
      · exact .refl s

/-- A fold over an agent's slices keeps a gang's number, kind and life. -/
theorem Gang.named_foldl (f : Slice → Slice) (l : List Nat) (g : Gang) :
    (l.foldl (fun h i => h.modSlice i f) g).id = g.id ∧ (l.foldl (fun h i => h.modSlice i f) g).kind = g.kind ∧
    (l.foldl (fun h i => h.modSlice i f) g).life = g.life := by
  induction l generalizing g with
  | nil => exact ⟨rfl, rfl, rfl⟩
  | cons i t ih => exact ⟨(ih _).1, (ih _).2.1, (ih _).2.2⟩

/-- What every issue of a gang without a twin does after its effect changes no register, no memory and no tile. -/
theorem Frame.finish (c : Ctx) (rst jumped : Bool) (h : s.Untwinned c.aid.gang) (ht : T 7) : Frame W T s (s.finish c rst jumped) := by
  have h1 : (if s.errs.poison = [] then s else s.clearPoison c.cleans).gangs = s.gangs := by split <;> rfl
  have h2 := h.of_gangs h1
  have h3 : Frame W T s (if s.errs.poison = [] then s else s.clearPoison c.cleans) := by
    split
    · exact .refl s
    · exact Frame.clearPoison _
  unfold State.finish
  generalize (if s.errs.poison = [] then s else s.clearPoison c.cleans) = r at h2 h3
  extract_lets s1 s2
  have hupd : ∀ g, (c.leaves s rst jumped g).id = g.id ∧ (c.leaves s rst jumped g).kind = g.kind ∧
      (c.leaves s rst jumped g).life = g.life := fun g => Gang.named_foldl (c.issued jumped) (c.g.members c.aid.slice) g
  have hb : Frame W T s s2 := by
    refine Frame.trans ?_ (Frame.endBodies _ ((h2.modGang hupd).of_gangs rfl) ht)
    refine h3.trans (Frame.trans (Frame.modGang (W := W) (id := c.g.id) fun g => ?_) (.of_eq rfl rfl rfl))
    exact (Gang.same_foldl _ (fun h i => h.same_modSlice i (c.issued jumped)) _ g).trans ⟨rfl, rfl, .inl rfl, rfl, rfl, rfl, rfl, rfl⟩
  split
  · exact hb
  · exact hb.trans (Frame.endTurn _ _)

end Sys2Proof.Machine
end

