-- ==== Sys2Proof/Laws/Map.lean ====
section
/-!
SUPPORT. Laws/Map.lean: the laws of sparse maps: a read after a write, and that every operation keeps the
canonical form.
-/

namespace Sys2Proof.Machine

variable {w : Nat}

theorem mapAbove_cons {n k : Nat} {v : BitVec w} {m : SMap w} :
    mapAbove n ((k, v) :: m) = true ↔ n < k ∧ mapAbove n m = true := by
  simp [mapAbove]

theorem mapAbove_mono {n k : Nat} {m : SMap w} (h : n ≤ k) (hm : mapAbove k m = true) : mapAbove n m = true := by
  simp only [mapAbove, List.all_eq_true, decide_eq_true_eq] at *
  exact fun p hp => Nat.lt_of_le_of_lt h (hm p hp)

theorem mapWf_cons {k : Nat} {v : BitVec w} {m : SMap w} :
    mapWf ((k, v) :: m) = true ↔ v ≠ 0 ∧ mapAbove k m = true ∧ mapWf m = true := by
  simp [mapWf, and_assoc]

/-- A key below every listed key reads as zero. -/
theorem mapGet_of_above {a : Nat} {m : SMap w} (h : mapAbove a m = true) : mapGet m a = 0 := by
  induction m with
  | nil => rfl
  | cons p t ih =>
    obtain ⟨k, v⟩ := p
    obtain ⟨hk, ht⟩ := mapAbove_cons.1 h
    simp [mapGet, Nat.ne_of_gt hk, ih ht]

theorem mapAbove_filter {n : Nat} {m : SMap w} {f : Nat × BitVec w → Bool} (h : mapAbove n m = true) :
    mapAbove n (m.filter f) = true := by
  simp only [mapAbove, List.all_eq_true] at *
  exact fun p hp => h p (List.mem_filter.1 hp).1

theorem mapFilter_wf {m : SMap w} {f : Nat × BitVec w → Bool} (h : mapWf m = true) : mapWf (m.filter f) = true := by
  induction m with
  | nil => rfl
  | cons p t ih =>
    obtain ⟨k, v⟩ := p
    obtain ⟨hv, hk, ht⟩ := mapWf_cons.1 h
    rw [List.filter_cons]
    split
    · exact mapWf_cons.2 ⟨hv, mapAbove_filter hk, ih ht⟩
    · exact ih ht

theorem mapGet_drop_same {a : Nat} (m : SMap w) : mapGet (mapDrop m a) a = 0 := by
  induction m with
  | nil => rfl
  | cons p t ih =>
    obtain ⟨k, x⟩ := p
    by_cases hk : k = a
    · simpa [mapDrop, List.filter_cons, hk] using ih
    · simpa [mapDrop, List.filter_cons, hk, mapGet] using ih

theorem mapGet_drop_other {a b : Nat} (m : SMap w) (h : b ≠ a) : mapGet (mapDrop m a) b = mapGet m b := by
  induction m with
  | nil => rfl
  | cons p t ih =>
    obtain ⟨k, x⟩ := p
    by_cases hk : k = a
    · subst hk; simpa [mapDrop, List.filter_cons, mapGet, Ne.symm h] using ih
    · have e : mapDrop ((k, x) :: t) a = (k, x) :: mapDrop t a := by simp [mapDrop, List.filter_cons, hk]
      rw [e]; simp only [mapGet, ih]

theorem mapAbove_drop {a n : Nat} {m : SMap w} (hm : mapAbove n m = true) : mapAbove n (mapDrop m a) = true :=
  mapAbove_filter hm

theorem mapSet_above {n a : Nat} {v : BitVec w} {m : SMap w} (h : mapAbove n m = true) (ha : n < a) :
    mapAbove n (mapSet m a v) = true := by
  induction m with
  | nil => unfold mapSet; split <;> simp [mapAbove, ha]
  | cons p t ih =>
    obtain ⟨k, x⟩ := p
    obtain ⟨hk, ht⟩ := mapAbove_cons.1 h
    simp only [mapSet]
    split
    · exact mapAbove_cons.2 ⟨hk, ih ht⟩
    · split
      · exact mapAbove_drop h
      · exact mapAbove_cons.2 ⟨ha, mapAbove_drop h⟩

/-- Dropping a key below every other key but itself leaves the keys above it. -/
theorem mapAbove_drop_self {a k : Nat} {x : BitVec w} {t : SMap w} (hk : ¬k < a) (h : mapAbove k t = true) :
    mapAbove a (mapDrop ((k, x) :: t) a) = true := by
  simp only [mapAbove, mapDrop, List.all_eq_true, List.mem_filter, decide_eq_true_eq] at *
  rintro p ⟨hp, hne⟩
  rcases List.mem_cons.1 hp with rfl | hp
  · exact Nat.lt_of_le_of_ne (Nat.not_lt.1 hk) (Ne.symm hne)
  · exact Nat.lt_of_le_of_lt (Nat.not_lt.1 hk) (h p hp)

/-- Setting a key keeps the canonical form. -/
theorem mapSet_wf {a : Nat} {v : BitVec w} {m : SMap w} (h : mapWf m = true) : mapWf (mapSet m a v) = true := by
  induction m with
  | nil =>
    unfold mapSet
    split
    · exact h
    · exact mapWf_cons.2 ⟨‹_›, rfl, h⟩
  | cons p t ih =>
    obtain ⟨k, x⟩ := p
    obtain ⟨hx, hk, ht⟩ := mapWf_cons.1 h
    simp only [mapSet]
    split
    next hlt => exact mapWf_cons.2 ⟨hx, mapSet_above hk hlt, ih ht⟩
    next hge =>
      split
      · exact mapFilter_wf h
      · exact mapWf_cons.2 ⟨‹_›, mapAbove_drop_self hge hk, mapFilter_wf h⟩

/-- A read after a write to the same key gives the value written. -/
theorem mapGet_mapSet_same {a : Nat} {v : BitVec w} {m : SMap w} : mapGet (mapSet m a v) a = v := by
  induction m with
  | nil =>
    unfold mapSet
    split
    next hv => exact hv.symm
    · simp [mapGet]
  | cons p t ih =>
    obtain ⟨k, x⟩ := p
    simp only [mapSet]
    split
    next hlt => simp [mapGet, Nat.ne_of_lt hlt, ih]
    next hge =>
      split
      next hv => rw [hv]; exact mapGet_drop_same _
      · simp [mapGet]

/-- A write leaves every other key alone. -/
theorem mapGet_mapSet_other {a b : Nat} {v : BitVec w} {m : SMap w} (hab : b ≠ a) :
    mapGet (mapSet m a v) b = mapGet m b := by
  induction m with
  | nil => unfold mapSet; split <;> simp [mapGet, Ne.symm hab]
  | cons p t ih =>
    obtain ⟨k, x⟩ := p
    simp only [mapSet]
    split
    · simp [mapGet, ih]
    · split
      · exact mapGet_drop_other _ hab
      · rw [mapGet, if_neg (Ne.symm hab)]; exact mapGet_drop_other _ hab

theorem mapGet_mapSet {a b : Nat} {v : BitVec w} {m : SMap w} :
    mapGet (mapSet m a v) b = if b = a then v else mapGet m b := by
  split
  next h => rw [h]; exact mapGet_mapSet_same
  next h => exact mapGet_mapSet_other h

theorem mapSetAll_wf {l : List (Nat × BitVec w)} {m : SMap w} (h : mapWf m = true) :
    mapWf (mapSetAll m l) = true := by
  unfold mapSetAll
  induction l generalizing m with
  | nil => exact h
  | cons p t ih => exact ih (mapSet_wf h)

/-- Keys that are not set read as before. -/
theorem mapGet_mapSetAll_other {l : List (Nat × BitVec w)} {m : SMap w} {b : Nat} (h : ∀ p ∈ l, p.1 ≠ b) :
    mapGet (mapSetAll m l) b = mapGet m b := by
  unfold mapSetAll
  induction l generalizing m with
  | nil => rfl
  | cons p t ih =>
    rw [List.foldl_cons, ih (fun q hq => h q (List.mem_cons_of_mem _ hq))]
    exact mapGet_mapSet_other (Ne.symm (h p (List.mem_cons_self ..)))

theorem mapClear_wf {m : SMap w} {lo hi : Nat} (h : mapWf m = true) : mapWf (mapClear m lo hi) = true :=
  mapFilter_wf h

theorem mapGet_filter {m : SMap w} {f : Nat → Bool} {a : Nat} (h : mapWf m = true) :
    mapGet (m.filter (fun p => f p.1)) a = if f a then mapGet m a else 0 := by
  induction m with
  | nil => simp [mapGet]
  | cons p t ih =>
    obtain ⟨k, v⟩ := p
    obtain ⟨_, hk, ht⟩ := mapWf_cons.1 h
    rw [List.filter_cons]
    by_cases hka : k = a
    · subst hka
      cases hf : f k
      · simp [ih ht, hf]
      · simp [mapGet]
    · cases hf : f k <;> simp [mapGet, hka, ih ht]

/-- Cleared keys read as zero, the others as before. -/
theorem mapGet_mapClear {m : SMap w} {lo hi a : Nat} (h : mapWf m = true) :
    mapGet (mapClear m lo hi) a = if lo ≤ a ∧ a < hi then 0 else mapGet m a := by
  unfold mapClear
  rw [mapGet_filter (f := fun k => decide (k < lo) || decide (hi ≤ k)) h]
  by_cases h1 : lo ≤ a <;> by_cases h2 : a < hi <;> simp [h1, h2, Nat.not_le.1, Nat.not_lt.1] <;> omega

end Sys2Proof.Machine
end

