-- ==== Sys2Proof/Laws/Issue.lean ====
section
/-!
SUPPORT. Laws/Issue.lean: what an issue answers, and what a fixed-latency write leaves in a register.
-/

namespace Sys2Proof.Machine

variable {s t : State} {cls op : Nat} {f : Fields} {c : Ctx} {b : Body}

/-- An instruction answers a next state whenever its agent holds the issue. -/
theorem issueOp_next (h : Sees s cls op f c) :
    issueOp cls op f b s = .next ((c.issue b (s.begun c.aid)).consumed { s with issuing := none } c.aid.gang) := by
  unfold issueOp
  rw [h.1]
  dsimp only
  rw [h.2]
  rfl

/-- Where nothing is poisoned, no poisoned entry is consumed. -/
theorem State.consumed_clean {o : State} {gid : Nat} (h : s.errs.poison = []) : s.consumed o gid = s := by
  unfold State.consumed; rw [if_pos h]

/-- What was consumed of poisoned stack entries is a matter of marks only. -/
theorem Frame.consumed {W : Nat → RFile → Nat → Nat → Prop} {T : Nat → Prop} (s o : State) (gid : Nat) :
    Frame W T s (s.consumed o gid) := by
  unfold State.consumed
  split
  · exact .refl s
  · split
    · exact .of_eq rfl rfl rfl
    · exact .refl s

/-- Without an agent that holds the issue nothing is executed. -/
theorem issueOp_idle (h : s.issuing = none) : issueOp cls op f b s = .fault .noIssuingAgent := by
  unfold issueOp; rw [h]

@[simp] theorem State.begun_errs (s : State) (a : AgentId) : (s.begun a).errs = s.errs := rfl
@[simp] theorem State.begun_mem (s : State) (a : AgentId) : (s.begun a).mem = s.mem := rfl
@[simp] theorem State.begun_fl (s : State) (a : AgentId) : (s.begun a).fl = s.fl := rfl
@[simp] theorem State.begun_blocks (s : State) (a : AgentId) : (s.begun a).blocks = s.blocks := rfl
@[simp] theorem State.begun_pkg (s : State) (a : AgentId) : (s.begun a).pkg = s.pkg := rfl

theorem Frame.begun {W : Nat → RFile → Nat → Nat → Prop} {T : Nat → Prop} (s : State) (a : AgentId) : Frame W T s (s.begun a) :=
  Frame.trans (t := { s with issuing := none }) (.of_eq rfl rfl rfl) (Frame.modGang fun g => g.same_modAgent ..)

/-- What an instruction sees names its own agent, gang and clock. -/
theorem Sees.spec (h : Sees s cls op f c) :
    s.gang? c.g.id = some c.g ∧ c.g.id = c.aid.gang ∧ c.now = s.pkg.clock ∧ c.choice = s.choice ∧
    s.block? c.g.block = some c.blk ∧ c.f = f ∧ c.cls = cls ∧ c.op = op := by
  have h2 := h.2
  unfold State.ctx? at h2
  dsimp only at h2
  split at h2
  · cases h2
  next g hg =>
    split at h2
    next x b hx hb =>
      split at h2
      · cases h2
      next hd hh =>
        have hid := State.gang?_id hg
        injection h2 with h2
        have e1 : c.g = g := by rw [← h2]
        have e2 : c.blk = b := by rw [← h2]
        refine ⟨?_, ?_, by rw [← h2], by rw [← h2], ?_, by rw [← h2], by rw [← h2], by rw [← h2]⟩
        · rw [e1, hid]; exact hg
        · rw [e1, hid]
        · rw [e1, e2]; exact hb
    · cases h2

theorem Gang.modAgent_olds (g : Gang) (sl : Option Nat) (f : Slice → Slice) : (g.modAgent sl f).olds = g.olds := by
  unfold Gang.modAgent
  induction (g.members sl) generalizing g with
  | nil => rfl
  | cons i l ih => exact ih (g.modSlice i f)

/-- The gang when the instruction acts: only holds of its agent are over. -/
theorem Sees.begun (h : Sees s cls op f c) (T : Nat → Prop) :
    ∃ g, (s.begun c.aid).gang? c.g.id = some g ∧ Gang.Same T c.g g ∧ g.olds = c.g.olds ∧ g.regs = c.g.regs := by
  have hs := h.spec
  refine ⟨c.g.modAgent c.aid.slice (fun x => { x with hold := .none }), ?_, c.g.same_modAgent _ _,
    c.g.modAgent_olds _ _, c.g.modAgent_regs _ _⟩
  unfold State.begun
  rw [← hs.2.1, State.gang?_modGang_same (fun g => (g.same_modAgent (T := T) _ _).id)]
  show (s.gang? c.g.id).map _ = _
  rw [hs.1]; rfl

theorem mapWhere_find?_none {α : Type} (p q : α → Bool) (g : α → α) (l : List α) (hq : ∀ x, p x = true → q (g x) = q x)
    (h : l.find? q = none) : (mapWhere p g l).find? q = none := by
  rw [find?_mapWhere _ _ _ _ hq, h]; rfl

theorem Gang.modAgent_kind (g : Gang) (sl : Option Nat) (u : Slice → Slice) :
    (g.modAgent sl u).kind = g.kind ∧ (g.modAgent sl u).life = g.life := by
  unfold Gang.modAgent
  induction (g.members sl) generalizing g with
  | nil => exact ⟨rfl, rfl⟩
  | cons i l ih => exact ⟨(ih (g.modSlice i u)).1, (ih (g.modSlice i u)).2⟩

theorem State.shadowOf_begun {a : AgentId} {gid : Nat} (h : s.shadowOf gid = none) : (s.begun a).shadowOf gid = none := by
  unfold State.shadowOf State.begun State.modGang
  refine mapWhere_find?_none _ _ _ _ (fun x _ => ?_) h
  rw [(Gang.modAgent_kind ..).1, (Gang.modAgent_kind ..).2]

/-! ### Nothing poisoned stays so -/

theorem State.startNext_errs {l lv w : Nat} (h : s.startNext l lv w = some t) : t.errs = s.errs := by
  unfold State.startNext at h
  split at h
  · cases h
  · split at h
    · cases h; rfl
    · cases h

theorem State.shadeEnded_errs (b v : Nat) : (s.shadeEnded b v).errs = s.errs := by
  have hd : ∀ (u : State) (c : Bool) (i : Nat), (if c then u.dropView i else u).errs = u.errs := fun u c i => by cases c <;> rfl
  unfold State.shadeEnded
  dsimp only
  split
  · rfl
  · rw [hd]
    cases hn : State.startNext _ _ _ _ with
    | none => rfl
    | some u => exact (State.startNext_errs hn).trans rfl

theorem State.endGang_errs (gid : Nat) : (s.endGang gid).errs = s.errs := by
  unfold State.endGang
  split
  · rfl
  · split
    · rfl
    · dsimp only
      split
      · exact State.shadeEnded_errs ..
      · rfl

theorem State.escalates_errs (g : Gang) (sl : Option Nat) (tr : Trap) (m : Mask) : (s.escalates g sl tr m).errs = s.errs := by
  unfold State.escalates
  dsimp only
  split
  · exact State.endGang_errs ..
  · rfl

theorem State.takeTrap_clean {aid : AgentId} {tr : Trap} {m : Mask} (h : s.errs.poison = []) :
    (s.takeTrap aid tr m).errs.poison = [] := by
  unfold State.takeTrap
  split
  · exact h
  · extract_lets vec now
    split
    · split
      · rw [State.escalates_errs]; exact h
      · exact h
    · split
      · rw [State.escalates_errs]; exact h
      · unfold State.cleanTrapState; rw [if_pos (by exact h)]; exact h

theorem State.endTurn_clean {e k : Nat} (h : s.errs.poison = []) : (s.endTurn e k).errs.poison = [] := by
  unfold State.endTurn; dsimp only; split <;> exact h

theorem State.trapAtNext_clean {aid : AgentId} {tr : Trap} {same : Gang → Bool} (h : s.errs.poison = []) :
    (s.trapAtNext aid tr same).errs.poison = [] := by
  unfold State.trapAtNext
  split
  · exact h
  · split
    · exact State.takeTrap_clean h
    · dsimp only
      split
      · exact State.takeTrap_clean (State.takeTrap_clean h)
      · split <;> exact State.takeTrap_clean (State.takeTrap_clean h)

theorem State.endBodies_clean {aid : AgentId} (h : s.errs.poison = []) : (s.endBodies aid).errs.poison = [] := by
  unfold State.endBodies
  split
  · exact h
  · split
    · exact h
    · split
      · split
        · exact State.trapAtNext_clean h
        · exact h
      · exact h

theorem State.finish_clean {rst jumped : Bool} (h : s.errs.poison = []) : (s.finish c rst jumped).errs.poison = [] := by
  unfold State.finish
  rw [if_pos h]
  extract_lets s1 s2
  have hb : s2.errs.poison = [] := State.endBodies_clean h
  split
  · exact hb
  · exact State.endTurn_clean hb

/-- The code words that decide the instruction's target are there. -/
def Ctx.targetsThere (c : Ctx) (b : Body) (s : State) : Prop := ∀ a ∈ b.needs c, s.codeHeld c.blk.part a = false

theorem Ctx.targetsThere_nil (h : b.needs c = []) : c.targetsThere b s := by unfold Ctx.targetsThere; rw [h]; nofun

/-- An instruction that nothing stands before meets no check of its own. -/
theorem Ctx.Unhindered.early (hu : c.Unhindered s (b.late c (s.begun c.aid)) (b.more c))
    (ht : b.target c (s.begun c.aid) = none) (hx : b.unassigned = none) (hw : c.targetsThere b (s.begun c.aid)) :
    c.early b (s.begun c.aid) = none := by
  have hn : (b.needs c).find? ((s.begun c.aid).codeHeld c.blk.part) = none :=
    List.find?_eq_none.2 fun a ha => by rw [hw a ha]; decide
  unfold Ctx.early
  dsimp only
  split
  · rfl
  · simp only [hx, hu.legal, hn, ht, hu.score]; rfl

/-- The outcome of an instruction that nothing stands before is that of its own part. -/
theorem Ctx.Unhindered.outcome (hu : c.Unhindered s (b.late c (s.begun c.aid)) (b.more c))
    (ht : b.target c (s.begun c.aid) = none) (hx : b.unassigned = none) (hw : c.targetsThere b (s.begun c.aid)) :
    c.outcome b (s.begun c.aid) = b.run c (s.begun c.aid) := by
  have hc : (s.begun c.aid).errs.poison = [] := hu.clean
  have hb : c.before b (s.begun c.aid) = none := by
    unfold Ctx.before Ctx.checks
    simp only [hu.noTrap, ite_self, hu.early ht hx hw]
  have hs : c.soft (s.begun c.aid) = none := by unfold Ctx.soft; rw [if_pos hc]
  have hk : c.softK (s.begun c.aid) = none := by unfold Ctx.softK; rw [if_pos hc]
  have ha : c.acts b (s.begun c.aid) = b.run c (s.begun c.aid) := by
    unfold Ctx.acts Ctx.runs
    simp only [hs, hk, ite_self, hu.room]; rfl
  have hv : c.survive b (s.begun c.aid) = (s.begun c.aid, some c) := by
    have hp : s.errs.poison = [] := hu.clean
    unfold Ctx.survive
    simp [hp]
  unfold Ctx.outcome
  simp only [hb, hv, ha]

/-- So is its result, where that is no trap. -/
theorem Ctx.Unhindered.result (hu : c.Unhindered s (b.late c (s.begun c.aid)) (b.more c))
    (ht : b.target c (s.begun c.aid) = none) (hx : b.unassigned = none) (hw : c.targetsThere b (s.begun c.aid))
    (hn : ∀ t tr m, b.run c (s.begun c.aid) ≠ .trap t tr m) : c.result b (s.begun c.aid) = b.run c (s.begun c.aid) := by
  unfold Ctx.result Ctx.barring
  rw [hu.outcome ht hx hw]
  split
  next t tr m h => exact absurd h (hn t tr m)
  · rfl

/-- The issue of an instruction of a gang without a twin is what its result leaves. -/
theorem issueOp_plain (h : Sees s cls op f c) (hk : ∀ p, c.g.kind ≠ .shadow p) (ha : s.shadowOf c.g.id = none)
    (hc : (c.conclude b (c.result b (s.begun c.aid))).errs.poison = []) :
    issueOp cls op f b s = .next (c.conclude b (c.result b (s.begun c.aid))) := by
  rw [issueOp_next h]
  unfold Ctx.issue
  split
  next p hp => exact absurd hp (hk p)
  · simp only [State.shadowOf_begun ha, State.consumed_clean hc]

/-- An instruction that nothing stands before and whose own part is done completes. -/
theorem issueOp_done (h : Sees s cls op f c) (hu : c.Unhindered s (b.late c (s.begun c.aid)) (b.more c))
    (ht : b.target c (s.begun c.aid) = none) (hx : b.unassigned = none) (hw : c.targetsThere b (s.begun c.aid))
    (hr : b.run c (s.begun c.aid) = .done t) (hc : t.errs.poison = []) :
    issueOp cls op f b s = .next (t.finish c (b.rst c) false) := by
  have ho : c.conclude b (c.result b (s.begun c.aid)) = t.finish c (b.rst c) false := by
    rw [hu.result ht hx hw (by rw [hr]; nofun), hr]; rfl
  rw [issueOp_plain h hu.kind hu.alone (by rw [ho]; exact State.finish_clean hc), ho]

/-- The same for one that sends its slices on. -/
theorem issueOp_jump (h : Sees s cls op f c) (hu : c.Unhindered s (b.late c (s.begun c.aid)) (b.more c))
    (ht : b.target c (s.begun c.aid) = none) (hx : b.unassigned = none) (hw : c.targetsThere b (s.begun c.aid))
    (hr : b.run c (s.begun c.aid) = .jump t) (hc : t.errs.poison = []) :
    issueOp cls op f b s = .next (t.finish c (b.rst c) true) := by
  have ho : c.conclude b (c.result b (s.begun c.aid)) = t.finish c (b.rst c) true := by
    rw [hu.result ht hx hw (by rw [hr]; nofun), hr]; rfl
  rw [issueOp_plain h hu.kind hu.alone (by rw [ho]; exact State.finish_clean hc), ho]

/-- The same for one that has done all but the end of its cycle. -/
theorem issueOp_own (h : Sees s cls op f c) (hu : c.Unhindered s (b.late c (s.begun c.aid)) (b.more c))
    (ht : b.target c (s.begun c.aid) = none) (hx : b.unassigned = none) (hw : c.targetsThere b (s.begun c.aid))
    (hr : b.run c (s.begun c.aid) = .own t) (hc : t.errs.poison = []) :
    issueOp cls op f b s = .next (t.endTurn c.g.easel 0) := by
  have ho : c.conclude b (c.result b (s.begun c.aid)) = t.endTurn c.g.easel 0 := by
    rw [hu.result ht hx hw (by rw [hr]; nofun), hr]; rfl
  rw [issueOp_plain h hu.kind hu.alone (by rw [ho]; exact State.endTurn_clean hc), ho]

/-- The same for one that raises a trap, outside the handler of another agent (R324). -/
theorem issueOp_trap {tr : Trap} {m : Mask} (h : Sees s cls op f c)
    (hu : c.Unhindered s (b.late c (s.begun c.aid)) (b.more c)) (ht : b.target c (s.begun c.aid) = none)
    (hx : b.unassigned = none) (hw : c.targetsThere b (s.begun c.aid)) (hb : c.barred = false)
    (hr : b.run c (s.begun c.aid) = .trap t tr m) (hc : t.errs.poison = []) :
    issueOp cls op f b s = .next (t.takeTrap c.aid tr m) := by
  have ho : c.conclude b (c.result b (s.begun c.aid)) = t.takeTrap c.aid tr m := by
    unfold Ctx.result Ctx.barring
    rw [hu.outcome ht hx hw, hr, hb]; rfl
  rw [issueOp_plain h hu.kind hu.alone (by rw [ho]; exact State.takeTrap_clean hc), ho]

/-! ### Register reads (R83) -/

/-- A register over which no write is pending reads as it stands. -/
theorem Gang.readR_landed {g : Gang} {now i lane : Nat} {r : RFile} (h : g.oldOf now r i lane = none) (choice w : Nat) :
    g.readR now choice w r i lane = g.getR r i lane := by
  have h0 : g.oldsOf now r i lane = [] := List.head?_eq_none_iff.1 h
  unfold Gang.readR
  rw [h0]; rfl

/-! ### Register writes (R80, R83) -/

theorem mem_lanesOf {m : Mask} {l : Nat} : l ∈ lanesOf m ↔ l < 32 ∧ hasLane m l = true := by
  simp [lanesOf]

theorem hasLane_or {a b : Mask} {l : Nat} : hasLane (a ||| b) l = (hasLane a l || hasLane b l) := by simp [hasLane]

theorem hasLane_and {a b : Mask} {l : Nat} : hasLane (a &&& b) l = (hasLane a l && hasLane b l) := by simp [hasLane]

theorem hasLane_not {a : Mask} {l : Nat} (h : l < 32) : hasLane (~~~a) l = !hasLane a l := by simp [hasLane, h]

theorem hasLane_laneBit {i l : Nat} (h : l < 32) : hasLane (laneBit i) l = decide (l = i) := by
  simp only [hasLane, laneBit, BitVec.getLsbD_ofNat, h, decide_true, Bool.true_and, Nat.testBit_two_pow]
  by_cases e : i = l <;> simp [e, eq_comm]

theorem Gang.getR_touch (g : Gang) (f r' : RFile) (r x lane l : Nat) : (g.touch f r lane).getR r' x l = g.getR r' x l := by
  cases r' <;> rfl

/-- A register after a plain write of one lane. -/
theorem Gang.getR_setR_same (g : Gang) (r : RFile) (i l : Nat) (v : Reg) (hl : l < 32) (hi : ignoredReg r i = false)
    (hp : r = .p → v = 0 ∨ v = 1) (ha : r = .amax → v.toNat < 2 ^ 32) : (g.setR r i l v).getR r i l = v := by
  cases r with
  | d => exact mapGet_mapSet_same
  | q =>
    have h31 : i ≠ 31 := by intro h; simp [ignoredReg, h] at hi
    simp [Gang.setR, Gang.setQ, Gang.getR, Gang.getQ, h31, mapGet_mapSet_same]
  | c => exact mapGet_mapSet_same
  | p =>
    have h7 : i ≠ 7 := by intro h; simp [ignoredReg, h] at hi
    rcases hp rfl with rfl | rfl
    · simp [Gang.setR, Gang.setP, Gang.getR, Gang.getP, h7, mapGet_mapSet_same, hasLane_and, hasLane_not hl,
        hasLane_laneBit hl]
    · simp [Gang.setR, Gang.setP, Gang.getR, Gang.getP, h7, mapGet_mapSet_same, hasLane_or, hasLane_laneBit hl]
  | amax =>
    simp only [Gang.setR, Gang.setAmax, Gang.getR, Gang.getAmax, mapGet_mapSet_same]
    apply BitVec.eq_of_toNat_eq
    have := ha rfl
    rw [BitVec.toNat_setWidth, BitVec.toNat_setWidth, Nat.mod_eq_of_lt this, Nat.mod_eq_of_lt v.isLt]

/-- A register or lane that a plain write does not name. -/
theorem Gang.getR_setR_other (g : Gang) (r r' : RFile) (i x lane l : Nat) (v : Reg) (hl : l < 32) (hn : lane < 32)
    (h : r' ≠ r ∨ (r ≠ .amax ∧ x ≠ i) ∨ (r ≠ .q ∧ r ≠ .c ∧ l ≠ lane)) : (g.setR r i lane v).getR r' x l = g.getR r' x l := by
  cases r <;> cases r' <;> try rfl
  case d.d =>
    have : dKey x l ≠ dKey i lane := by simp only [dKey]; simp at h; omega
    exact mapGet_mapSet_other this
  case q.q =>
    have hx : x ≠ i := by simpa using h
    by_cases h31 : i = 31
    · simp [Gang.setR, Gang.setQ, h31]
    · simp [Gang.setR, Gang.setQ, Gang.getR, Gang.getQ, h31, mapGet_mapSet_other hx]
  case q.p => unfold Gang.setR Gang.setQ; dsimp only; split <;> rfl
  case q.d => unfold Gang.setR Gang.setQ; dsimp only; split <;> rfl
  case q.c => unfold Gang.setR Gang.setQ; dsimp only; split <;> rfl
  case q.amax => unfold Gang.setR Gang.setQ; dsimp only; split <;> rfl
  case c.c =>
    have hx : x ≠ i := by simpa using h
    exact mapGet_mapSet_other hx
  case p.d => unfold Gang.setR Gang.setP; dsimp only; split <;> rfl
  case p.q => unfold Gang.setR Gang.setP; dsimp only; split <;> rfl
  case p.c => unfold Gang.setR Gang.setP; dsimp only; split <;> rfl
  case p.amax => unfold Gang.setR Gang.setP; dsimp only; split <;> rfl
  case p.p =>
    by_cases h7 : i = 7
    · simp [Gang.setR, Gang.setP, h7]
    · by_cases hx : x = i
      · subst hx
        have hll : l ≠ lane := by simpa using h
        simp only [Gang.setR, Gang.setP, h7, if_false, Gang.getR, Gang.getP, mapGet_mapSet_same]
        split <;> simp [hasLane_or, hasLane_and, hasLane_not hl, hasLane_laneBit hl, hll]
      · have hg : (g.setR .p i lane v).getP x = g.getP x := by
          simp only [Gang.setR, Gang.setP, h7, if_false, Gang.getP, mapGet_mapSet_other hx, Gang.lanes]
        simp only [Gang.getR, hg]
  case amax.amax =>
    have hll : l ≠ lane := by simpa using h
    simp only [Gang.setR, Gang.getR, Gang.setAmax, Gang.getAmax, mapGet_mapSet_other hll]

/-- The value of a predicate or of AMAX as a register's value. -/
def fits (r : RFile) (v : Reg) : Prop := (r = .p → v = 0 ∨ v = 1) ∧ (r = .amax → v.toNat < 2 ^ 32)

theorem fits_d (v : Reg) : fits .d v := ⟨nofun, nofun⟩
theorem fits_q (v : Reg) : fits .q v := ⟨nofun, nofun⟩
theorem fits_c (v : Reg) : fits .c v := ⟨nofun, nofun⟩
theorem fits_boolReg (b : Bool) : fits .p (boolReg b) := ⟨fun _ => by cases b <;> simp [boolReg], nofun⟩

section writes
variable (g : Gang) (now choice lat w : Nat) (r : RFile) (i : Nat)

theorem Gang.writeR_shape (l : Nat) (v : Reg) (h : ignoredReg r i = false) (ho : g.oldOf now r i l = none) :
    ∃ k : Gang, g.writeR now choice lat w r i l v = k.setR r i l v := by
  unfold Gang.writeR
  simp only [h, ho]
  exact ⟨_, rfl⟩

/-- A fixed-latency write over no pending one gives the register the value (R80). -/
theorem Gang.getR_writeR_same (l : Nat) (v : Reg) (hl : l < 32) (h : ignoredReg r i = false)
    (ho : g.oldOf now r i l = none) (hv : fits r v) : (g.writeR now choice lat w r i l v).getR r i l = v := by
  obtain ⟨k, e⟩ := g.writeR_shape now choice lat w r i l v h ho
  rw [e]
  exact k.getR_setR_same r i l v hl h hv.1 hv.2

theorem Gang.setR_olds (l : Nat) (v : Reg) : (g.setR r i l v).olds = g.olds := by
  cases r
  · rfl
  · unfold Gang.setR Gang.setQ; dsimp only; split <;> rfl
  · unfold Gang.setR Gang.setP; dsimp only; split <;> rfl
  · rfl
  · rfl

/-- A fixed-latency write leaves other registers and lanes (R80). -/
theorem Gang.getR_writeR_other (r' : RFile) (x l lane : Nat) (v : Reg) (hl : l < 32) (hn : lane < 32)
    (h : r' ≠ r ∨ (r ≠ .amax ∧ x ≠ i) ∨ (r ≠ .q ∧ r ≠ .c ∧ l ≠ lane)) :
    (g.writeR now choice lat w r i lane v).getR r' x l = g.getR r' x l := by
  unfold Gang.writeR
  split
  · rfl
  · extract_lets cur v' rest g1
    rw [Gang.getR_setR_other _ r r' i x lane l v' hl hn h]
    split
    · rw [Gang.getR_touch]; cases r' <;> rfl
    · cases r' <;> rfl

theorem Gang.setR_frame (l : Nat) (v : Reg) :
    (g.setR r i l v).id = g.id ∧ (g.setR r i l v).rest = g.rest ∧ (g.setR r i l v).regs = g.regs := by
  cases r
  · exact ⟨rfl, rfl, rfl⟩
  · unfold Gang.setR Gang.setQ; dsimp only; split <;> exact ⟨rfl, rfl, rfl⟩
  · unfold Gang.setR Gang.setP; dsimp only; split <;> exact ⟨rfl, rfl, rfl⟩
  · exact ⟨rfl, rfl, rfl⟩
  · exact ⟨rfl, rfl, rfl⟩

theorem Gang.writeR_frame (l : Nat) (v : Reg) :
    (g.writeR now choice lat w r i l v).id = g.id ∧ (g.writeR now choice lat w r i l v).rest = g.rest ∧
    (g.writeR now choice lat w r i l v).regs = g.regs := by
  unfold Gang.writeR
  split
  · exact ⟨rfl, rfl, rfl⟩
  · extract_lets cur v' rest g1
    split
    · exact Gang.setR_frame (g1.touch r i l) r i l v'
    · exact Gang.setR_frame g1 r i l v'

theorem find?_filter_of_imp {α : Type} (l : List α) (p q : α → Bool) (h : ∀ x, q x = true → p x = true) :
    (l.filter p).find? q = l.find? q := by
  rw [List.find?_filter]
  congr 1
  funext x
  cases hq : q x <;> simp [hq, h x]

theorem Gang.oldOf_writeR_other (r' : RFile) (x l lane : Nat) (v : Reg)
    (h : r' ≠ r ∨ x ≠ i ∨ laneKey r l ≠ laneKey r lane) :
    (g.writeR now choice lat w r i lane v).oldOf now r' x l = g.oldOf now r' x l := by
  unfold Gang.writeR
  split
  · rfl
  · extract_lets cur v' rest g1
    have ho : (if g.isOut r i lane then (g1.touch r i lane) else g1).olds = g1.olds := by split <;> rfl
    unfold Gang.oldOf Gang.oldsOf
    rw [List.head?_filter, List.head?_filter, Gang.setR_olds, ho]
    have hrest : rest.find? (fun o => o.file == r' && o.idx == x && o.lane == laneKey r' l && decide (now < o.till)) =
        g.olds.find? (fun o => o.file == r' && o.idx == x && o.lane == laneKey r' l && decide (now < o.till)) := by
      refine find?_filter_of_imp _ _ _ fun o ho => ?_
      simp only [Bool.and_eq_true, beq_iff_eq, decide_eq_true_eq] at ho
      obtain ⟨⟨⟨rfl, rfl⟩, hlane⟩, _⟩ := ho
      simp only [Bool.not_eq_true', Bool.and_eq_false_iff, beq_eq_false_iff_ne, ne_eq]
      rcases h with h | h | h
      · exact .inl (.inl h)
      · exact .inl (.inr h)
      · by_cases e : o.file = r
        · refine .inr ?_; rw [hlane, e]; exact h
        · exact .inl (.inl e)
    show List.find? _ (if lat = 0 then rest else rest ++ _) = _
    split
    · exact hrest
    · rw [List.find?_append, hrest]
      have : List.find? (fun o : OldVal => o.file == r' && o.idx == x && o.lane == laneKey r' l && decide (now < o.till))
          (⟨r, i, laneKey r lane, cur, now + lat, now + lat⟩ :: g.unlanded now r i lane) = none := by
        refine List.find?_eq_none.2 fun o ho => ?_
        have hk : o.file = r ∧ o.idx = i ∧ o.lane = laneKey r lane := by
          rcases List.mem_cons.1 ho with rfl | ho
          · exact ⟨rfl, rfl, rfl⟩
          · have hf := (List.mem_filter.1 ho).2
            simp only [Bool.and_eq_true, beq_iff_eq] at hf
            exact ⟨hf.1.1.1.1, hf.1.1.1.2, hf.1.1.2⟩
        simp only [Bool.and_eq_true, beq_iff_eq, decide_eq_true_eq]
        rintro ⟨⟨⟨e1, e2⟩, e3⟩, _⟩
        rcases h with h | h | h
        · exact h (e1.symm.trans hk.1)
        · exact h (e2.symm.trans hk.2.1)
        · refine h ?_; rw [← hk.2.2, e3, e1.symm.trans hk.1]
      rw [this]
      cases List.find? _ g.olds <;> rfl

/-- A result written in every lane of a list of lanes (R80, R107). -/
theorem Gang.getR_writes (v : Nat → Reg) (hk : ∀ l, laneKey r l = l) (h : ignoredReg r i = false)
    (hv : ∀ l, fits r (v l)) (ls : List Nat) (hnd : ls.Nodup) (hls : ∀ l ∈ ls, l < 32) (hr : r ≠ .q ∧ r ≠ .c)
    (ho : ∀ l, g.oldOf now r i l = none) (l : Nat) (hl : l < 32) :
    (ls.foldl (fun g l => g.writeR now choice lat w r i l (v l)) g).getR r i l = if l ∈ ls then v l else g.getR r i l := by
  have key : ∀ (ls : List Nat) (g : Gang), ls.Nodup → (∀ l ∈ ls, l < 32) → (∀ l ∈ ls, g.oldOf now r i l = none) →
      (ls.foldl (fun g l => g.writeR now choice lat w r i l (v l)) g).getR r i l = if l ∈ ls then v l else g.getR r i l := by
    intro ls
    induction ls with
    | nil => intro g _ _ _; simp
    | cons a t ih =>
      intro g hnd hls ho
      obtain ⟨ha, hnd⟩ := List.nodup_cons.1 hnd
      rw [List.foldl_cons, ih _ hnd (fun x hx => hls x (List.mem_cons_of_mem _ hx))]
      · by_cases hla : l = a
        · subst hla
          rw [if_neg ha, Gang.getR_writeR_same _ _ _ _ _ _ _ _ _ hl h (ho l (List.mem_cons_self ..)) (hv l)]
          simp
        · rw [Gang.getR_writeR_other _ _ _ _ _ _ _ _ _ _ _ _ hl (hls a (List.mem_cons_self ..)) (.inr (.inr ⟨hr.1, hr.2, hla⟩))]
          simp [hla]
      · intro x hx
        have hxa : x ≠ a := fun e => ha (e ▸ hx)
        rw [Gang.oldOf_writeR_other _ _ _ _ _ _ _ _ _ _ _ _ (.inr (.inr (by rw [hk, hk]; exact hxa)))]
        exact ho x (List.mem_cons_of_mem _ hx)
  exact key ls g hnd hls (fun l _ => ho l)

theorem Gang.getR_writes_other (r' : RFile) (x : Nat) (v : Nat → Reg) (ls : List Nat) (hls : ∀ l ∈ ls, l < 32) (l : Nat) (hl : l < 32)
    (h : r' ≠ r ∨ (r ≠ .amax ∧ x ≠ i) ∨ (r ≠ .q ∧ r ≠ .c ∧ l ∉ ls)) :
    (ls.foldl (fun g l => g.writeR now choice lat w r i l (v l)) g).getR r' x l = g.getR r' x l := by
  induction ls generalizing g with
  | nil => rfl
  | cons a t ih =>
    rw [List.foldl_cons, ih]
    · refine Gang.getR_writeR_other _ _ _ _ _ _ _ _ _ _ _ _ hl (hls a (List.mem_cons_self ..)) ?_
      rcases h with h | h | ⟨h1, h2, h3⟩
      · exact .inl h
      · exact .inr (.inl h)
      · exact .inr (.inr ⟨h1, h2, fun e => h3 (e ▸ List.mem_cons_self ..)⟩)
    · exact fun x hx => hls x (List.mem_cons_of_mem _ hx)
    · rcases h with h | h | ⟨h1, h2, h3⟩
      · exact .inl h
      · exact .inr (.inl h)
      · exact .inr (.inr ⟨h1, h2, fun e => h3 (List.mem_cons_of_mem _ e)⟩)

theorem Gang.writes_frame (v : Nat → Reg) (ls : List Nat) :
    (ls.foldl (fun g l => g.writeR now choice lat w r i l (v l)) g).id = g.id ∧
    (ls.foldl (fun g l => g.writeR now choice lat w r i l (v l)) g).rest = g.rest ∧
    (ls.foldl (fun g l => g.writeR now choice lat w r i l (v l)) g).regs = g.regs := by
  induction ls generalizing g with
  | nil => exact ⟨rfl, rfl, rfl⟩
  | cons a t ih =>
    have h1 := g.writeR_frame now choice lat w r i a (v a)
    have h2 := ih (g.writeR now choice lat w r i a (v a))
    exact ⟨h2.1.trans h1.1, h2.2.1.trans h1.2.1, h2.2.2.trans h1.2.2⟩

/-- A slice's write of a shared register names that register only (R135). -/
theorem Gang.writeShared_frame (sl : Option Nat) (v : Reg) :
    (g.writeShared sl now choice lat w r i v).id = g.id ∧ (g.writeShared sl now choice lat w r i v).rest = g.rest ∧
    (g.writeShared sl now choice lat w r i v).regs = g.regs := by
  unfold Gang.writeShared
  split
  · exact Gang.writeR_frame { g with olds := g.oldsBut r i 0 } now choice lat w r i 0 _
  · exact Gang.writeR_frame g now choice lat w r i 0 v

theorem Gang.getR_olds (l : List OldVal) (r' : RFile) (x m : Nat) : ({ g with olds := l } : Gang).getR r' x m = g.getR r' x m := by
  cases r' <;> rfl

theorem Gang.getR_writeShared_other (sl : Option Nat) (r' : RFile) (x l : Nat) (v : Reg) (hl : l < 32)
    (h : r' ≠ r ∨ (r ≠ .amax ∧ x ≠ i)) : (g.writeShared sl now choice lat w r i v).getR r' x l = g.getR r' x l := by
  have h' : r' ≠ r ∨ (r ≠ .amax ∧ x ≠ i) ∨ (r ≠ .q ∧ r ≠ .c ∧ l ≠ 0) := h.elim .inl (fun h => .inr (.inl h))
  unfold Gang.writeShared
  split
  · rw [Gang.getR_olds, Gang.getR_writeR_other _ _ _ _ _ _ _ _ _ _ _ _ hl (by decide) h', Gang.getR_olds]
  · exact Gang.getR_writeR_other _ _ _ _ _ _ _ _ _ _ _ _ hl (by decide) h'

/-- Over no pending write it gives the register the value (R80, R135). -/
theorem Gang.getR_writeShared_same (sl : Option Nat) (v : Reg) (h : ignoredReg r i = false) (ho : g.oldOf now r i 0 = none)
    (hv : fits r v) : (g.writeShared sl now choice lat w r i v).getR r i 0 = v := by
  unfold Gang.writeShared
  simp only [ho, Option.isSome_none, Bool.and_false, Bool.false_eq_true, if_false]
  exact Gang.getR_writeR_same _ _ _ _ _ _ _ _ _ (by decide) h ho hv

end writes

theorem nodup_lanesOf (m : Mask) : (lanesOf m).Nodup := List.Pairwise.filter _ List.nodup_range

/-! ### Results of the executing lanes (R80, R107) and of the agent (R135) -/

variable {r : RFile} {i : Nat} {v : Nat → Reg}

/-- The gang after a result in every executing lane. -/
theorem Ctx.put_gang {g : Gang} (h : s.gang? c.g.id = some g) :
    (c.put s r i v).gang? c.g.id =
      some ((lanesOf c.exec).foldl (fun g l => g.writeR c.now c.choice c.e.lat c.w r i l (v l)) g) := by
  unfold Ctx.put
  rw [State.gang?_modGang_same (fun g => (Gang.writes_frame g _ _ _ _ _ _ _ _).1), h]; rfl

/-- A result in every executing lane writes that register in those lanes only. -/
theorem Frame.put {W : Nat → RFile → Nat → Nat → Prop} {T : Nat → Prop}
    (hW : ∀ r' x l, ¬W c.g.id r' x l → r' ≠ r ∨ (r ≠ .amax ∧ x ≠ i) ∨ (r ≠ .q ∧ r ≠ .c ∧ l ∉ lanesOf c.exec)) :
    Frame W T s (c.put s r i v) := by
  unfold Ctx.put
  refine ⟨fun j g hg => ?_, fun i b hb => ⟨b, hb, rfl⟩, rfl⟩
  refine ⟨if g.id = c.g.id then (lanesOf c.exec).foldl (fun g l => g.writeR c.now c.choice c.e.lat c.w r i l (v l)) g
    else g, ?_, ?_, ?_, ?_⟩
  · rw [State.gang?_modGang (fun g => (Gang.writes_frame g _ _ _ _ _ _ _ _).1), hg]; rfl
  · split
    · exact (Gang.writes_frame g _ _ _ _ _ _ _ _).2.1
    · rfl
  · split
    · exact .inl (Gang.writes_frame g _ _ _ _ _ _ _ _).2.2
    · exact .inl rfl
  · intro r' x l hl hw
    split
    next e =>
      have hj : j = c.g.id := by rw [← e]; exact (State.gang?_id hg).symm
      subst hj
      exact Gang.getR_writes_other g _ _ _ _ _ _ _ _ _ _ (fun l hl => (mem_lanesOf.1 hl).1) l hl (hW r' x l hw)
    · rfl

theorem Frame.putQ {W : Nat → RFile → Nat → Nat → Prop} {T : Nat → Prop} {v : Reg}
    (hW : ∀ r' x l, ¬W c.g.id r' x l → r' ≠ r ∨ (r ≠ .amax ∧ x ≠ i)) : Frame W T s (c.putQ s r i v) := by
  unfold Ctx.putQ
  split
  · refine ⟨fun j g hg => ?_, fun i b hb => ⟨b, hb, rfl⟩, rfl⟩
    refine ⟨if g.id = c.g.id then g.writeShared c.aid.slice c.now c.choice c.e.lat c.w r i v else g, ?_, ?_, ?_, ?_⟩
    · rw [State.gang?_modGang (fun g => (Gang.writeShared_frame g _ _ _ _ _ _ _ _).1), hg]; rfl
    · split
      · exact (Gang.writeShared_frame g _ _ _ _ _ _ _ _).2.1
      · rfl
    · split
      · exact .inl (Gang.writeShared_frame g _ _ _ _ _ _ _ _).2.2
      · exact .inl rfl
    · intro r' x l hl hw
      split
      next e =>
        have hj : j = c.g.id := by rw [← e]; exact (State.gang?_id hg).symm
        subst hj
        exact Gang.getR_writeShared_other g _ _ _ _ _ _ _ _ _ _ _ hl (hW r' x l hw)
      · rfl
  · exact .refl s

end Sys2Proof.Machine
end

