-- ==== Sys2Proof/Laws/GoesOn.lean ====
section
/-!
SUPPORT. Laws/GoesOn.lean: where an agent stands after an issue that sends it nowhere else.
-/

namespace Sys2Proof.Machine

variable {s t u : State} {cls op : Nat} {f : Fields} {c : Ctx} {g h : Gang}

theorem Gang.slice?_modSlice (g : Gang) (i j : Nat) (u : Slice → Slice) :
    (g.modSlice i u).slice? j = if i = j then (g.slice? j).map u else g.slice? j := by
  simp only [Gang.slice?, Gang.modSlice, List.getElem?_modify]
  split <;> cases g.slices[j]? <;> rfl

theorem Gang.nodup_members (g : Gang) (sl : Option Nat) : (g.members sl).Nodup := by
  cases sl with
  | some i => simp [Gang.members]
  | none => exact List.Pairwise.filter _ List.nodup_range

/-- Every slice of a list changed once. -/
theorem Gang.slice?_foldl (u : Slice → Slice) (l : List Nat) (hl : l.Nodup) (g : Gang) (j : Nat) :
    (l.foldl (fun h i => h.modSlice i u) g).slice? j = if j ∈ l then (g.slice? j).map u else g.slice? j := by
  induction l generalizing g with
  | nil => simp
  | cons i t ih =>
    have hn := List.nodup_cons.1 hl
    rw [List.foldl_cons, ih hn.2, Gang.slice?_modSlice]
    by_cases e : i = j
    · subst e; simp [hn.1]
    · simp [e, Ne.symm e]

theorem Gang.slice?_modAgent (g : Gang) (sl : Option Nat) (u : Slice → Slice) (j : Nat) :
    (g.modAgent sl u).slice? j = if j ∈ g.members sl then (g.slice? j).map u else g.slice? j :=
  Gang.slice?_foldl u _ (g.nodup_members sl) g j

/-- A fold over slices keeps the lanes of a gang. -/
theorem Gang.lanes_foldl (u : Slice → Slice) (l : List Nat) (g : Gang) :
    (l.foldl (fun h i => h.modSlice i u) g).nslices = g.nslices ∧ (l.foldl (fun h i => h.modSlice i u) g).exited = g.exited ∧
    (l.foldl (fun h i => h.modSlice i u) g).dead = g.dead := by
  induction l generalizing g with
  | nil => exact ⟨rfl, rfl, rfl⟩
  | cons i t ih => exact ih _

/-- Which lanes live, and so which slices an agent issues for, hangs on three fields. -/
theorem Gang.live_congr (hn : h.nslices = g.nslices) (he : h.exited = g.exited) (hd : h.dead = g.dead) : h.live = g.live := by
  unfold Gang.live Gang.lanes; rw [hn, he, hd]

theorem Gang.members_congr (hn : h.nslices = g.nslices) (he : h.exited = g.exited) (hd : h.dead = g.dead) (sl : Option Nat) :
    h.members sl = g.members sl := by
  have hs : h.sliceLive = g.sliceLive := by funext i; unfold Gang.sliceLive; rw [Gang.live_congr hn he hd]
  cases sl with
  | some i => rfl
  | none => simp only [Gang.members, Gang.liveSlices, hn, hs]

/-- A slice after its clause's end check. -/
def Slice.ended (x : Slice) (live : Mask) : Slice := if x.active &&& live ≠ 0 ∧ x.atEnd then x.endClause.getD x else x

/-- Where no slice's end check fails, each slice of the agent has passed its own. -/
theorem Gang.endClauses_some (g : Gang) (sl : Option Nat)
    (hok : ∀ i ∈ g.members sl, ∀ x, g.slice? i = some x → x.active &&& g.live ≠ 0 → x.atEnd = true → x.endClause.isSome = true) :
    ∃ k, g.endClauses sl = some k ∧ k.id = g.id ∧
      ∀ j, k.slice? j = if j ∈ g.members sl then (g.slice? j).map (·.ended g.live) else g.slice? j := by
  have key : ∀ (l : List Nat), l.Nodup → ∀ m : Gang,
      (∀ i ∈ l, ∀ x, m.slice? i = some x → x.active &&& g.live ≠ 0 → x.atEnd = true → x.endClause.isSome = true) →
      ∃ k, l.foldl (fun acc i => acc.bind (fun h => match h.slice? i with
        | some x => if x.active &&& g.live ≠ 0 ∧ x.atEnd then x.endClause.map (fun y => h.modSlice i (fun _ => y)) else some h
        | none => some h)) (some m) = some k ∧ k.id = m.id ∧
        ∀ j, k.slice? j = if j ∈ l then (m.slice? j).map (·.ended g.live) else m.slice? j := by
    intro l
    induction l with
    | nil => intro _ m _; exact ⟨m, rfl, rfl, fun j => by simp⟩
    | cons i t ih =>
      intro hl m hm
      have hn := List.nodup_cons.1 hl
      have step : ∃ m', (match m.slice? i with
          | some x => if x.active &&& g.live ≠ 0 ∧ x.atEnd then x.endClause.map (fun y => m.modSlice i (fun _ => y)) else some m
          | none => some m) = some m' ∧ m'.id = m.id ∧
          ∀ j, m'.slice? j = if i = j then (m.slice? j).map (·.ended g.live) else m.slice? j := by
        cases hx : m.slice? i with
        | none =>
          refine ⟨m, rfl, rfl, fun j => ?_⟩
          split
          next e => subst e; rw [hx]; rfl
          · rfl
        | some x =>
          dsimp only
          split
          next hc =>
            obtain ⟨y, hy⟩ := Option.isSome_iff_exists.1 (hm i (List.mem_cons_self ..) x hx hc.1 hc.2)
            refine ⟨m.modSlice i (fun _ => y), by rw [hy]; rfl, rfl, fun j => ?_⟩
            rw [Gang.slice?_modSlice]
            split
            next e => subst e; rw [hx]; simp only [Option.map_some, Slice.ended, if_pos hc, hy, Option.getD_some]
            · rfl
          next hc =>
            refine ⟨m, rfl, rfl, fun j => ?_⟩
            split
            next e => subst e; rw [hx]; simp only [Option.map_some, Slice.ended, if_neg hc]
            · rfl
      obtain ⟨m', h1, h2, h3⟩ := step
      have hm' : ∀ k ∈ t, ∀ x, m'.slice? k = some x → x.active &&& g.live ≠ 0 → x.atEnd = true → x.endClause.isSome = true := by
        intro k hk x hx
        have e : i ≠ k := fun e => hn.1 (e ▸ hk)
        rw [h3, if_neg e] at hx
        exact hm k (List.mem_cons_of_mem _ hk) x hx
      obtain ⟨k, k1, k2, k3⟩ := ih hn.2 m' hm'
      refine ⟨k, ?_, k2.trans h2, fun j => ?_⟩
      · rw [List.foldl_cons, Option.bind_some, h1]; exact k1
      · rw [k3, h3]
        by_cases e : i = j
        · subst e; simp [hn.1]
        · simp [e, Ne.symm e]
  obtain ⟨k, k1, k2, k3⟩ := key _ (g.nodup_members sl) g hok
  exact ⟨k, k1, k2, k3⟩

theorem Gang.repart_slices (g : Gang) : g.repart.slices = g.slices ∧ g.repart.id = g.id := by
  unfold Gang.repart
  split
  · exact ⟨rfl, rfl⟩
  · split <;> exact ⟨rfl, rfl⟩

theorem Slice.produce_same (x : Slice) (r : RFile) (i lat : Nat) :
    ∃ b, x.produce r i lat = { x with budgets := b } := by
  unfold Slice.produce
  split
  · exact ⟨_, rfl⟩
  · split
    · exact ⟨_, rfl⟩
    · exact ⟨x.budgets, rfl⟩

theorem Slice.produces_same (l : List (RFile × Nat)) (lat : Nat) (x : Slice) :
    ∃ b, l.foldl (fun x p => x.produce p.1 p.2 lat) x = { x with budgets := b } := by
  induction l generalizing x with
  | nil => exact ⟨x.budgets, rfl⟩
  | cons p t ih =>
    obtain ⟨b, hb⟩ := x.produce_same p.1 p.2 lat
    obtain ⟨d, hd⟩ := ih (x.produce p.1 p.2 lat)
    exact ⟨d, by rw [List.foldl_cons, hd, hb]⟩

/-- What an issue leaves of a slice, and where it goes on. -/
theorem Ctx.issued_spec (c : Ctx) (jumped : Bool) (x : Slice) :
    let y := c.issued jumped x
    y.active = x.active ∧ y.deferred = x.deferred ∧ y.loops = x.loops ∧ y.calls = x.calls ∧ y.hold = x.hold ∧
    y.point = (if !jumped && decide (x.point = c.lead.point) && decide (x.active ≠ 0) then x.point.skip c.words else x.point) ∧
    y.earliest = if c.resumed then x.earliest else c.now + c.f.stall.toNat + 1 := by
  have h : ∃ b, (if c.e.lat = 0 then x else (c.e.written c.f).foldl (fun x p => x.produce p.1 p.2 c.e.lat) x) = { x with budgets := b } := by
    split
    · exact ⟨x.budgets, rfl⟩
    · exact x.produces_same _ _
  obtain ⟨b, hb⟩ := h
  unfold Ctx.issued
  dsimp only
  rw [hb]
  exact ⟨rfl, rfl, rfl, rfl, rfl, rfl, rfl⟩

/-- The gang stands as the instruction found it, but that its agent waits for nothing any more. -/
structure Gang.StandsAs (h : Gang) (c : Ctx) : Prop where
  nslices : h.nslices = c.g.nslices
  exited : h.exited = c.g.exited
  dead : h.dead = c.g.dead
  slices : ∀ i ∈ c.g.members c.aid.slice, h.slice? i = (c.g.slice? i).map (fun x => { x with hold := .none })

theorem Gang.StandsAs.of_eq (a : g.StandsAs c) (hn : h.nslices = g.nslices) (he : h.exited = g.exited) (hd : h.dead = g.dead)
    (hs : h.slices = g.slices) : h.StandsAs c :=
  ⟨hn.trans a.nslices, he.trans a.exited, hd.trans a.dead, fun i hi => by
    have := a.slices i hi
    unfold Gang.slice? at this ⊢
    rw [hs, this]⟩

/-- The agent's gang when the instruction begins. -/
theorem Gang.standsAs_begun (c : Ctx) : (c.g.modAgent c.aid.slice (fun x => { x with hold := .none })).StandsAs c :=
  have h := c.g.lanes_foldl (fun x => { x with hold := .none }) (c.g.members c.aid.slice)
  ⟨h.1, h.2.1, h.2.2, fun i hi => (Gang.slice?_modAgent _ _ _ i).trans (if_pos hi)⟩

/-- A slice of the agent that has an active lane. -/
theorem Ctx.mem_running {q : Nat × Slice} :
    q ∈ c.running ↔ q.1 ∈ c.g.members c.aid.slice ∧ c.g.slice? q.1 = some q.2 ∧ q.2.active &&& c.g.live ≠ 0 := by
  unfold Ctx.running
  simp only [List.mem_filterMap]
  constructor
  · rintro ⟨i, hi, hq⟩
    obtain ⟨x, hx, hq⟩ := Option.bind_eq_some_iff.1 hq
    split at hq
    · cases hq
    next ha => cases hq; exact ⟨hi, hx, ha⟩
  · rintro ⟨hi, hx, ha⟩
    exact ⟨q.1, hi, by rw [hx, Option.bind_some, if_neg ha]⟩

@[simp] theorem State.gang?_endTurn (s : State) (e k i : Nat) : (s.endTurn e k).gang? i = s.gang? i := by
  unfold State.endTurn; dsimp only; split <;> rfl

/-- Where no end check fails, the agent's slices pass theirs. -/
theorem State.endBodies_some {aid : AgentId} {k : Gang} (hg : s.gang? aid.gang = some g) (hk : g.endClauses aid.slice = some k)
    (hid : k.id = g.id) : ∃ m, (s.endBodies aid).gang? aid.gang = some m ∧ m.slices = k.slices := by
  refine ⟨k.repart, ?_, k.repart_slices.1⟩
  unfold State.endBodies
  rw [hg]
  dsimp only
  rw [hk]
  dsimp only
  have e := State.gang?_id hg
  have hr : k.repart.id = aid.gang := by rw [k.repart_slices.2, hid, e]
  unfold State.gang? State.modGang at *
  rw [e, find?_mapWhere _ _ _ _ (fun x hx => by rw [hr]; simpa using hx.symm), hg]
  simp [e]

/-- A slice that stood at the instruction, after the issue and its end check. -/
theorem Ctx.issued_ended {q : Nat × Slice} {live : Mask} (hq : q ∈ c.running) (hl : live = c.g.live) (hin : c.inStep) :
    let x := c.issued false { q.2 with hold := .none }
    (x.active &&& live ≠ 0 → x.atEnd = true → x.endClause.isSome = true) ∧
    let y := x.ended live
    y.hold = .none ∧ y.active = q.2.active ∧ y.deferred = q.2.deferred ∧ y.calls = q.2.calls ∧
    (c.resumed = false → y.earliest = c.now + c.f.stall.toNat + 1) ∧
    (q.2.point.pc + 4 * c.words ≠ q.2.point.stop → y.point = q.2.point.skip c.words ∧ y.loops = q.2.loops) ∧
    (∀ l a, q.2.point.pc + 4 * c.words = q.2.point.stop →
      endLoops q.2.point.head q.2.point.stop q.2.deferred.length q.2.loops = some (l, a) →
      y.loops = l ∧ y.point = .atHeader a) := by
  obtain ⟨hp, hi, he⟩ := hin q hq
  have ha := (Ctx.mem_running.1 hq).2.2
  have ha0 : q.2.active ≠ 0 := fun e => ha (by rw [e]; simp)
  obtain ⟨h1, h2, h3, h4, h5, h6, h7⟩ := c.issued_spec false { q.2 with hold := .none }
  dsimp only at h1 h2 h3 h4 h5 h6 h7 ⊢
  generalize c.issued false { q.2 with hold := .none } = x at *
  simp only [hp, Bool.not_false, decide_true, Bool.true_and, decide_eq_true ha0, if_true] at h6
  have hpt : x.point.head = q.2.point.head ∧ x.point.stop = q.2.point.stop ∧ x.point.pc = q.2.point.pc + 4 * c.words ∧
      x.point.inside = true := by rw [h6, hp]; exact ⟨rfl, rfl, rfl, hp ▸ hi⟩
  have hend : x.atEnd = true ↔ q.2.point.pc + 4 * c.words = q.2.point.stop := by
    simp [Slice.atEnd, hpt.2.1, hpt.2.2.1, hpt.2.2.2]
  have hact : x.active &&& live ≠ 0 := by rw [h1, hl]; exact ha
  by_cases hs : q.2.point.pc + 4 * c.words = q.2.point.stop
  · obtain ⟨⟨l, a⟩, hla⟩ := Option.isSome_iff_exists.1 (he hs)
    have hec : x.endClause = some { x with loops := l, point := .atHeader a } := by
      unfold Slice.endClause; rw [hpt.1, hpt.2.1, h2, h3, hla]
    have hy : x.ended live = { x with loops := l, point := .atHeader a } := by
      rw [Slice.ended, if_pos ⟨hact, hend.2 hs⟩, hec]; rfl
    rw [hec, hy]
    refine ⟨fun _ _ => rfl, h5, h1, h2, h4, fun hr => ?_, fun hn => absurd hs hn, fun l' a' _ hl' => ?_⟩
    · rw [h7, if_neg (by simp [hr])]
    · rw [hla] at hl'; cases hl'; exact ⟨rfl, rfl⟩
  · have hy : x.ended live = x := by rw [Slice.ended, if_neg fun hc => hs (hend.1 hc.2)]
    rw [hy]
    refine ⟨fun _ hc => absurd (hend.1 hc) hs, h5, h1, h2, h4, fun hr => ?_, fun _ => ⟨by rw [h6, hp], h3⟩, fun _ _ hn => absurd hn hs⟩
    rw [h7, if_neg (by simp [hr])]

/-- The agent's gang as an issue leaves it for the end checks. -/
theorem Ctx.leaves_spec (c : Ctx) (s : State) (rst jumped : Bool) (g : Gang) :
    let k := c.leaves s rst jumped g
    k.id = g.id ∧ k.nslices = g.nslices ∧ k.exited = g.exited ∧ k.dead = g.dead ∧
      ∀ j, k.slice? j = if j ∈ c.g.members c.aid.slice then (g.slice? j).map (c.issued jumped) else g.slice? j :=
  have h := g.lanes_foldl (c.issued jumped) (c.g.members c.aid.slice)
  ⟨(Gang.named_foldl _ _ g).1, h.1, h.2.1, h.2.2, fun j => Gang.slice?_foldl _ _ (c.g.nodup_members _) g j⟩

/-- An issue that sends its agent nowhere else leaves it behind the instruction. -/
theorem State.finish_goesOn {rst : Bool} (hid : c.g.id = c.aid.gang) (hg : u.gang? c.g.id = some h) (hh : h.StandsAs c) :
    c.goesOn (u.finish c rst false) := by
  intro hin
  obtain ⟨_, hn, he, hd, hs⟩ := c.leaves_spec u rst false h
  have h1 : (((if u.errs.poison = [] then u else u.clearPoison c.cleans).modGang c.g.id (c.leaves u rst false))).gang? c.aid.gang =
      some (c.leaves u rst false h) := by
    rw [← hid, State.gang?_modGang_same fun g => (c.leaves_spec u rst false g).1]
    split <;> exact congrArg (Option.map _) hg
  generalize hkk : c.leaves u rst false h = k at *
  have hlive := (Gang.live_congr hn he hd).trans (Gang.live_congr hh.nslices hh.exited hh.dead)
  have hmem := (Gang.members_congr hn he hd c.aid.slice).trans (Gang.members_congr hh.nslices hh.exited hh.dead c.aid.slice)
  have hk : ∀ i ∈ c.g.members c.aid.slice, ∀ y, c.g.slice? i = some y → k.slice? i = some (c.issued false { y with hold := .none }) := by
    intro i hi y hy
    rw [hs, if_pos hi, hh.slices i hi, hy]; rfl
  have hok : ∀ i ∈ k.members c.aid.slice, ∀ x, k.slice? i = some x → x.active &&& k.live ≠ 0 → x.atEnd = true → x.endClause.isSome = true := by
    rw [hmem, hlive]
    intro i hi x hx ha
    cases hy : c.g.slice? i with
    | none => rw [hs, if_pos hi, hh.slices i hi, hy] at hx; cases hx
    | some y =>
      rw [hk i hi y hy] at hx
      cases hx
      have hq : (i, y) ∈ c.running := Ctx.mem_running.2 ⟨hi, hy, by rwa [(c.issued_spec false _).1] at ha⟩
      exact (Ctx.issued_ended hq hlive hin).1 (by rw [← hlive] at ha; exact ha)
  obtain ⟨m, m1, m2, m3⟩ := k.endClauses_some c.aid.slice hok
  have ends := fun (v : State) (hv : v.gang? c.aid.gang = some k) =>
    State.endBodies_some (s := { v with choice := v.choice + 1 }) hv m1 m2
  obtain ⟨w, w1, w2⟩ := ends _ h1
  refine ⟨w, ?_, fun q hq => ?_⟩
  · rw [hid]
    unfold State.finish
    extract_lets s1 s2
    have e : s2.gang? c.aid.gang = some w := w1
    split
    · exact e
    · rw [State.gang?_endTurn, e]

  obtain ⟨hi, hy, ha⟩ := Ctx.mem_running.1 hq
  refine ⟨_, ?_, (Ctx.issued_ended hq hlive hin).2⟩
  unfold Gang.slice?
  rw [w2]
  exact (m3 q.1).trans (by rw [hmem, if_pos hi, hk q.1 hi q.2 hy]; rfl)

end Sys2Proof.Machine
end

