-- ==== Sys2Proof/Laws/Memory.lean ====
section
/-!
SUPPORT. Laws/Memory.lean: the laws of physical memory under its key ids: every operation keeps the canonical
form, a byte reads as written, and a write leaves every other byte alone.
-/

namespace Sys2Proof.Machine

theorem Memory.wf_iff {m : Mem} :
    Memory.wf m = true ↔ mapWf m.bytes = true ∧ mapWf m.units = true ∧ mapWf m.epochs = true := by
  simp [Memory.wf, and_assoc]

theorem Memory.reset_wf : Memory.wf State.reset.mem = true := rfl

@[simp] theorem Mem.adopt_epochs (m : Mem) (key a : Nat) : (m.adopt key a).epochs = m.epochs := by
  unfold Mem.adopt; dsimp only; split <;> rfl

@[simp] theorem Mem.adopt_pages (m : Mem) (key a : Nat) : (m.adopt key a).pages = m.pages := by
  unfold Mem.adopt; dsimp only; split <;> rfl

theorem Mem.adopt_wf {m : Mem} {key a : Nat} (h : Memory.wf m = true) : Memory.wf (m.adopt key a) = true := by
  obtain ⟨hb, hu, he⟩ := Memory.wf_iff.1 h
  unfold Mem.adopt
  dsimp only
  split
  · exact h
  · refine Memory.wf_iff.2 ⟨?_, mapSet_wf hu, he⟩
    show mapWf (if _ then _ else _) = true
    split
    · exact hb
    · exact mapSetAll_wf hb

/-- Writing a byte keeps the canonical form. -/
theorem Mem.write_wf {m : Mem} {key a : Nat} {v : BitVec 8} (h : Memory.wf m = true) :
    Memory.wf (m.write key a v) = true := by
  obtain ⟨hb, hu, he⟩ := Memory.wf_iff.1 (Mem.adopt_wf (key := key) (a := a) h)
  exact Memory.wf_iff.2 ⟨mapSet_wf hb, hu, he⟩

theorem Mem.writes_wf {key : Nat} {l : List (Nat × BitVec 8)} {m : Mem} (h : Memory.wf m = true) :
    Memory.wf (l.foldl (fun acc p => acc.write key p.1 p.2) m) = true := by
  induction l generalizing m with
  | nil => exact h
  | cons p t ih => exact ih (Mem.write_wf h)

theorem Mem.writeN_wf {m : Mem} {key a n v : Nat} (h : Memory.wf m = true) :
    Memory.wf (m.writeN key a n v) = true := Mem.writes_wf h

@[simp] theorem Mem.write_epochs (m : Mem) (key a : Nat) (v : BitVec 8) : (m.write key a v).epochs = m.epochs :=
  Mem.adopt_epochs m key a

theorem Mem.tag_write (m : Mem) (key a k : Nat) (v : BitVec 8) : (m.write key a v).tag k = m.tag k := by
  simp [Mem.tag]

/-- The tag of one of the 128 key ids fits its unit's record. -/
theorem Mem.tag_fits {m : Mem} {key : Nat} (hk : key < 128) : (BitVec.ofNat 32 (m.tag key)).toNat = m.tag key := by
  have := (mapGet m.epochs key).isLt
  simp only [BitVec.toNat_ofNat, Mem.tag]
  exact Nat.mod_eq_of_lt (by omega)

theorem Mem.unit_adopt {m : Mem} {key a : Nat} (hk : key < 128) :
    (mapGet (m.adopt key a).units (a / 64)).toNat = m.tag key := by
  unfold Mem.adopt
  dsimp only
  split
  next heq => exact heq
  next => rw [mapGet_mapSet_same, Mem.tag_fits hk]

theorem Mem.unit_adopt_other {m : Mem} {key a b : Nat} (hb : b / 64 ≠ a / 64) :
    mapGet (m.adopt key a).units (b / 64) = mapGet m.units (b / 64) := by
  unfold Mem.adopt
  dsimp only
  split
  · rfl
  · exact mapGet_mapSet_other hb

/-- A byte just written reads, under the key id that wrote it, as it was written (R308, R311). -/
theorem Mem.read_write_same {m : Mem} {key a : Nat} {v : BitVec 8} (hk : key < 128) :
    (m.write key a v).read key a = v := by
  unfold Mem.read
  rw [Mem.tag_write]
  simp only [Mem.write, Mem.unit_adopt hk, or_true, if_true]
  exact mapGet_mapSet_same

theorem Mem.bytes_adopt_other {m : Mem} {key a b : Nat} (hb : b / 64 ≠ a / 64) :
    mapGet (m.adopt key a).bytes b = mapGet m.bytes b := by
  unfold Mem.adopt
  dsimp only
  split
  · rfl
  · show mapGet (if _ then _ else _) b = _
    split
    · rfl
    · refine mapGet_mapSetAll_other fun p hp => ?_
      obtain ⟨i, hi, rfl⟩ := List.mem_map.1 hp
      have := List.mem_range.1 hi
      show a / 64 * 64 + i ≠ b
      omega

theorem mapGet_mapSetAll_run {m : SMap 8} {base : Nat} {f : Nat → BitVec 8} (n : Nat) :
    ∀ i, i < n → mapGet (mapSetAll m ((List.range n).map (fun i => (base + i, f i)))) (base + i) = f i := by
  induction n with
  | zero => intro i hi; omega
  | succ n ih =>
    intro i hi
    have hs : ∀ l : List (Nat × BitVec 8), ∀ p, mapSetAll m (l ++ [p]) = mapSet (mapSetAll m l) p.1 p.2 := by
      intro l p; simp [mapSetAll]
    rw [List.range_succ, List.map_append, List.map_singleton, hs]
    by_cases hin : i = n
    · subst hin; exact mapGet_mapSet_same
    · rw [mapGet_mapSet_other (by omega)]; exact ih i (by omega)

/-- A unit that is new, or of the reading key, reads as its bytes stand. -/
theorem Mem.read_plain {m : Mem} {key a : Nat}
    (h : (mapGet m.units (a / 64)).toNat = 0 ∨ (mapGet m.units (a / 64)).toNat = m.tag key) :
    m.read key a = mapGet m.bytes a := if_pos h

/-- A read depends on the unit's tag, its bytes and the epochs alone. -/
theorem Mem.read_congr {m n : Mem} {k b : Nat} (hu : mapGet n.units (b / 64) = mapGet m.units (b / 64))
    (he : n.epochs = m.epochs) (hb : ∀ x, x / 64 = b / 64 → mapGet n.bytes x = mapGet m.bytes x) :
    n.read k b = m.read k b := by
  have hl : n.unitBytes b = m.unitBytes b :=
    List.map_congr_left fun i hi => by
      have := List.mem_range.1 hi
      rw [hb _ (by omega)]
  unfold Mem.read Mem.recrypt Mem.tag
  rw [hu, hb b rfl, he, hl]

@[simp] theorem Mem.tag_adopt (m : Mem) (key a k : Nat) : (m.adopt key a).tag k = m.tag k := by simp [Mem.tag]

/-- Adopting a unit changes no byte as its key reads it. -/
theorem Mem.read_adopt {m : Mem} {key a b : Nat} (hk : key < 128) :
    (m.adopt key a).read key b = m.read key b := by
  by_cases hb : b / 64 = a / 64
  · rw [Mem.read_plain (Or.inr (by rw [hb, Mem.unit_adopt hk, Mem.tag_adopt]))]
    by_cases h1 : (mapGet m.units (a / 64)).toNat = m.tag key
    · rw [Mem.read_plain (by rw [hb]; exact Or.inr h1)]
      simp only [Mem.adopt, if_pos h1]
    · simp only [Mem.adopt, if_neg h1]
      by_cases h0 : (mapGet m.units (a / 64)).toNat = 0
      · rw [if_pos h0, Mem.read_plain (by rw [hb]; exact Or.inl h0)]
      · rw [if_neg h0]
        have hrun := mapGet_mapSetAll_run (base := a / 64 * 64) (f := fun i => m.read key (a / 64 * 64 + i))
          (m := m.bytes) 64 (b - a / 64 * 64) (by omega)
        rw [show a / 64 * 64 + (b - a / 64 * 64) = b by omega] at hrun
        exact hrun
  · exact Mem.read_congr (Mem.unit_adopt_other hb) (Mem.adopt_epochs ..)
      fun x hx => Mem.bytes_adopt_other (by omega)

/-- A write leaves every other byte as its key reads it. -/
theorem Mem.read_write_other {m : Mem} {key a b : Nat} {v : BitVec 8} (hk : key < 128)
    (hab : b ≠ a) : (m.write key a v).read key b = m.read key b := by
  rw [← Mem.read_adopt (m := m) (a := a) (b := b) hk]
  by_cases hb : b / 64 = a / 64
  · have hu := Mem.unit_adopt (m := m) (a := a) hk
    rw [Mem.read_plain (m := m.adopt key a) (Or.inr (by rw [hb, hu, Mem.tag_adopt])),
      Mem.read_plain (m := m.write key a v) (Or.inr (by rw [Mem.tag_write, hb]; exact hu))]
    exact mapGet_mapSet_other hab
  · exact Mem.read_congr rfl rfl fun x hx => mapGet_mapSet_other (by rintro rfl; exact hb hx.symm)

/-- A write leaves every byte of every other 64-byte unit as any key reads it (R310). -/
theorem Mem.read_write_unit {m : Mem} {key k a b : Nat} {v : BitVec 8} (hab : b / 64 ≠ a / 64) :
    (m.write key a v).read k b = m.read k b :=
  Mem.read_congr (Mem.unit_adopt_other hab) (Mem.write_epochs ..) fun x hx =>
    (mapGet_mapSet_other (by rintro rfl; exact hab hx.symm)).trans (Mem.bytes_adopt_other (by omega))

end Sys2Proof.Machine
end

