-- ==== Sys2Proof/Laws/PerInstr.lean ====
section
/-!
SUPPORT. Laws/PerInstr.lean: what is said of each instruction by itself. Codes: class, opcode and fields of a well-formed
instruction make that instruction again (04 R73), and its fields are well formed.
-/

namespace Sys2Proof.Laws

/-- Class, opcode and fields of a well-formed instruction make it again. -/
def Codes.Statement (i : Instr) : Prop := ∀ cls op f, i.wf = true → codeOf i = some (cls, op, f) →
  makeInstr cls op f = some i ∧ f.wf = true

/-- An event has no code. -/
theorem none_codes {i : Instr} (h : codeOf i = none) : Codes.Statement i := by
  intro cls op f _ e
  rw [h] at e
  cases e

/-- An instruction of one opcode, well formed when its fields are. -/
theorem some_codes {i : Instr} {cls : BitVec 3} {op : BitVec 7} {f : Fields} (h : codeOf i = some (cls, op, f))
    (hw : i.wf = true → f.wf = true) (hm : makeInstr cls op f = some i) : Codes.Statement i := by
  intro c o g w e
  rw [h] at e
  cases e
  exact ⟨hm, hw w⟩

/-- Opcode 0 is NOP in each of the seven classes. -/
theorem make_nop {cls : BitVec 3} {f : Fields} (h : cls ≠ 7) : makeInstr cls 0 f = some (.nop cls f) := by
  have : ∀ c : BitVec 3, c ≠ 7 → c = 0 ∨ c = 1 ∨ c = 2 ∨ c = 3 ∨ c = 4 ∨ c = 5 ∨ c = 6 := by decide
  rcases this cls h with rfl | rfl | rfl | rfl | rfl | rfl | rfl <;> rfl

/-- An opcode that R73 assigns to no instruction of the class. -/
theorem make_unassigned {cls : BitVec 3} {op : BitVec 7} {f : Fields} (h : cls ≠ 7) (h0 : op ≠ 0)
    (hu : opAssigned cls op = false) : makeInstr cls op f = some (.unassignedOpcode cls op f) := by
  have hc : ∀ c : BitVec 3, c ≠ 7 → c = 0 ∨ c = 1 ∨ c = 2 ∨ c = 3 ∨ c = 4 ∨ c = 5 ∨ c = 6 := by decide
  have hz : op.toNat ≠ 0 := fun e => h0 (BitVec.eq_of_toNat_eq e)
  rcases hc cls h with rfl | rfl | rfl | rfl | rfl | rfl | rfl <;>
    simp only [opAssigned, assignedOps, List.contains_eq_mem, decide_eq_false_iff_not] at hu <;>
    simp only [makeInstr] <;> congr 1
  · unfold makeVec; split <;> simp_all
  · unfold makeUni; split <;> simp_all
  · unfold makeMem; split <;> simp_all
  · unfold makeMtx; split <;> simp_all
  · unfold makeAsy; split <;> simp_all
  · unfold makeCtl; split <;> simp_all
  · unfold makeSys; split <;> simp_all


theorem Codes.nop (cls : BitVec 3) (f : Fields) : Codes.Statement (.nop cls f) := by
  intro c op g h e
  cases e
  have hb : cls ≠ 7 ∧ f.wf = true := by simpa [Instr.wf] using h
  exact ⟨make_nop hb.1, hb.2⟩

theorem Codes.iadd (f : Fields) : Codes.Statement (.iadd f) := some_codes rfl (fun h => h) rfl
theorem Codes.isub (f : Fields) : Codes.Statement (.isub f) := some_codes rfl (fun h => h) rfl
theorem Codes.imul (f : Fields) : Codes.Statement (.imul f) := some_codes rfl (fun h => h) rfl
theorem Codes.imulh (f : Fields) : Codes.Statement (.imulh f) := some_codes rfl (fun h => h) rfl
theorem Codes.imad (f : Fields) : Codes.Statement (.imad f) := some_codes rfl (fun h => h) rfl
theorem Codes.iaddc (f : Fields) : Codes.Statement (.iaddc f) := some_codes rfl (fun h => h) rfl
theorem Codes.imin (f : Fields) : Codes.Statement (.imin f) := some_codes rfl (fun h => h) rfl
theorem Codes.imax (f : Fields) : Codes.Statement (.imax f) := some_codes rfl (fun h => h) rfl
theorem Codes.iabs (f : Fields) : Codes.Statement (.iabs f) := some_codes rfl (fun h => h) rfl
theorem Codes.ineg (f : Fields) : Codes.Statement (.ineg f) := some_codes rfl (fun h => h) rfl
theorem Codes.idot4 (f : Fields) : Codes.Statement (.idot4 f) := some_codes rfl (fun h => h) rfl
theorem Codes.icmp (f : Fields) : Codes.Statement (.icmp f) := some_codes rfl (fun h => h) rfl
theorem Codes.and (f : Fields) : Codes.Statement (.and f) := some_codes rfl (fun h => h) rfl
theorem Codes.or (f : Fields) : Codes.Statement (.or f) := some_codes rfl (fun h => h) rfl
theorem Codes.xor (f : Fields) : Codes.Statement (.xor f) := some_codes rfl (fun h => h) rfl
theorem Codes.andn (f : Fields) : Codes.Statement (.andn f) := some_codes rfl (fun h => h) rfl
theorem Codes.not (f : Fields) : Codes.Statement (.not f) := some_codes rfl (fun h => h) rfl
theorem Codes.bitf (f : Fields) : Codes.Statement (.bitf f) := some_codes rfl (fun h => h) rfl
theorem Codes.shl (f : Fields) : Codes.Statement (.shl f) := some_codes rfl (fun h => h) rfl
theorem Codes.shr (f : Fields) : Codes.Statement (.shr f) := some_codes rfl (fun h => h) rfl
theorem Codes.sar (f : Fields) : Codes.Statement (.sar f) := some_codes rfl (fun h => h) rfl
theorem Codes.rol (f : Fields) : Codes.Statement (.rol f) := some_codes rfl (fun h => h) rfl
theorem Codes.clz (f : Fields) : Codes.Statement (.clz f) := some_codes rfl (fun h => h) rfl
theorem Codes.ffs (f : Fields) : Codes.Statement (.ffs f) := some_codes rfl (fun h => h) rfl
theorem Codes.popc (f : Fields) : Codes.Statement (.popc f) := some_codes rfl (fun h => h) rfl
theorem Codes.brev (f : Fields) : Codes.Statement (.brev f) := some_codes rfl (fun h => h) rfl
theorem Codes.bfx (f : Fields) : Codes.Statement (.bfx f) := some_codes rfl (fun h => h) rfl
theorem Codes.bfi (f : Fields) : Codes.Statement (.bfi f) := some_codes rfl (fun h => h) rfl
theorem Codes.fadd (f : Fields) : Codes.Statement (.fadd f) := some_codes rfl (fun h => h) rfl
theorem Codes.fsub (f : Fields) : Codes.Statement (.fsub f) := some_codes rfl (fun h => h) rfl
theorem Codes.fmul (f : Fields) : Codes.Statement (.fmul f) := some_codes rfl (fun h => h) rfl
theorem Codes.ffma (f : Fields) : Codes.Statement (.ffma f) := some_codes rfl (fun h => h) rfl
theorem Codes.fmin (f : Fields) : Codes.Statement (.fmin f) := some_codes rfl (fun h => h) rfl
theorem Codes.fmax (f : Fields) : Codes.Statement (.fmax f) := some_codes rfl (fun h => h) rfl
theorem Codes.fcmp (f : Fields) : Codes.Statement (.fcmp f) := some_codes rfl (fun h => h) rfl
theorem Codes.frnd (f : Fields) : Codes.Statement (.frnd f) := some_codes rfl (fun h => h) rfl
theorem Codes.fclass (f : Fields) : Codes.Statement (.fclass f) := some_codes rfl (fun h => h) rfl
theorem Codes.fscale (f : Fields) : Codes.Statement (.fscale f) := some_codes rfl (fun h => h) rfl
theorem Codes.frcp (f : Fields) : Codes.Statement (.frcp f) := some_codes rfl (fun h => h) rfl
theorem Codes.frsq (f : Fields) : Codes.Statement (.frsq f) := some_codes rfl (fun h => h) rfl
theorem Codes.fsqrt (f : Fields) : Codes.Statement (.fsqrt f) := some_codes rfl (fun h => h) rfl
theorem Codes.fdiv (f : Fields) : Codes.Statement (.fdiv f) := some_codes rfl (fun h => h) rfl
theorem Codes.fexp2 (f : Fields) : Codes.Statement (.fexp2 f) := some_codes rfl (fun h => h) rfl
theorem Codes.flog2 (f : Fields) : Codes.Statement (.flog2 f) := some_codes rfl (fun h => h) rfl
theorem Codes.fsinp (f : Fields) : Codes.Statement (.fsinp f) := some_codes rfl (fun h => h) rfl
theorem Codes.fcosp (f : Fields) : Codes.Statement (.fcosp f) := some_codes rfl (fun h => h) rfl
theorem Codes.ftanh (f : Fields) : Codes.Statement (.ftanh f) := some_codes rfl (fun h => h) rfl
theorem Codes.cvt (f : Fields) : Codes.Statement (.cvt f) := some_codes rfl (fun h => h) rfl
theorem Codes.cvtq (f : Fields) : Codes.Statement (.cvtq f) := some_codes rfl (fun h => h) rfl
theorem Codes.cvtd (f : Fields) : Codes.Statement (.cvtd f) := some_codes rfl (fun h => h) rfl
theorem Codes.amxrd (f : Fields) : Codes.Statement (.amxrd f) := some_codes rfl (fun h => h) rfl
theorem Codes.amxset (f : Fields) : Codes.Statement (.amxset f) := some_codes rfl (fun h => h) rfl
theorem Codes.pack (f : Fields) : Codes.Statement (.pack f) := some_codes rfl (fun h => h) rfl
theorem Codes.unpk (f : Fields) : Codes.Statement (.unpk f) := some_codes rfl (fun h => h) rfl
theorem Codes.mov (f : Fields) : Codes.Statement (.mov f) := some_codes rfl (fun h => h) rfl
theorem Codes.movi (f : Fields) : Codes.Statement (.movi f) := some_codes rfl (fun h => h) rfl
theorem Codes.sel (f : Fields) : Codes.Statement (.sel f) := some_codes rfl (fun h => h) rfl
theorem Codes.bpick (f : Fields) : Codes.Statement (.bpick f) := some_codes rfl (fun h => h) rfl
theorem Codes.movu (f : Fields) : Codes.Statement (.movu f) := some_codes rfl (fun h => h) rfl
theorem Codes.pmov (f : Fields) : Codes.Statement (.pmov f) := some_codes rfl (fun h => h) rfl
theorem Codes.lxch (f : Fields) : Codes.Statement (.lxch f) := some_codes rfl (fun h => h) rfl
theorem Codes.poll (f : Fields) : Codes.Statement (.poll f) := some_codes rfl (fun h => h) rfl
theorem Codes.rfal (f : Fields) : Codes.Statement (.rfal f) := some_codes rfl (fun h => h) rfl
theorem Codes.peers (f : Fields) : Codes.Statement (.peers f) := some_codes rfl (fun h => h) rfl
theorem Codes.lfold (f : Fields) : Codes.Statement (.lfold f) := some_codes rfl (fun h => h) rfl
theorem Codes.scan (f : Fields) : Codes.Statement (.scan f) := some_codes rfl (fun h => h) rfl
theorem Codes.uadd (f : Fields) : Codes.Statement (.uadd f) := some_codes rfl (fun h => h) rfl
theorem Codes.usub (f : Fields) : Codes.Statement (.usub f) := some_codes rfl (fun h => h) rfl
theorem Codes.umul (f : Fields) : Codes.Statement (.umul f) := some_codes rfl (fun h => h) rfl
theorem Codes.umulh (f : Fields) : Codes.Statement (.umulh f) := some_codes rfl (fun h => h) rfl
theorem Codes.umad (f : Fields) : Codes.Statement (.umad f) := some_codes rfl (fun h => h) rfl
theorem Codes.umin (f : Fields) : Codes.Statement (.umin f) := some_codes rfl (fun h => h) rfl
theorem Codes.umax (f : Fields) : Codes.Statement (.umax f) := some_codes rfl (fun h => h) rfl
theorem Codes.uand (f : Fields) : Codes.Statement (.uand f) := some_codes rfl (fun h => h) rfl
theorem Codes.uor (f : Fields) : Codes.Statement (.uor f) := some_codes rfl (fun h => h) rfl
theorem Codes.uxor (f : Fields) : Codes.Statement (.uxor f) := some_codes rfl (fun h => h) rfl
theorem Codes.ushl (f : Fields) : Codes.Statement (.ushl f) := some_codes rfl (fun h => h) rfl
theorem Codes.ushr (f : Fields) : Codes.Statement (.ushr f) := some_codes rfl (fun h => h) rfl
theorem Codes.usar (f : Fields) : Codes.Statement (.usar f) := some_codes rfl (fun h => h) rfl
theorem Codes.umov (f : Fields) : Codes.Statement (.umov f) := some_codes rfl (fun h => h) rfl
theorem Codes.umovi (f : Fields) : Codes.Statement (.umovi f) := some_codes rfl (fun h => h) rfl
theorem Codes.usel (f : Fields) : Codes.Statement (.usel f) := some_codes rfl (fun h => h) rfl
theorem Codes.ucmp (f : Fields) : Codes.Statement (.ucmp f) := some_codes rfl (fun h => h) rfl
theorem Codes.uld (f : Fields) : Codes.Statement (.uld f) := some_codes rfl (fun h => h) rfl
theorem Codes.usread (f : Fields) : Codes.Statement (.usread f) := some_codes rfl (fun h => h) rfl
theorem Codes.ld (f : Fields) : Codes.Statement (.ld f) := some_codes rfl (fun h => h) rfl
theorem Codes.st (f : Fields) : Codes.Statement (.st f) := some_codes rfl (fun h => h) rfl
theorem Codes.atom (f : Fields) : Codes.Statement (.atom f) := some_codes rfl (fun h => h) rfl
theorem Codes.red (f : Fields) : Codes.Statement (.red f) := some_codes rfl (fun h => h) rfl
theorem Codes.fence (f : Fields) : Codes.Statement (.fence f) := some_codes rfl (fun h => h) rfl
theorem Codes.pref (f : Fields) : Codes.Statement (.pref f) := some_codes rfl (fun h => h) rfl
theorem Codes.cctl (f : Fields) : Codes.Statement (.cctl f) := some_codes rfl (fun h => h) rfl
theorem Codes.cpa (f : Fields) : Codes.Statement (.cpa f) := some_codes rfl (fun h => h) rfl
theorem Codes.cpt (f : Fields) : Codes.Statement (.cpt f) := some_codes rfl (fun h => h) rfl
theorem Codes.bseal (f : Fields) : Codes.Statement (.bseal f) := some_codes rfl (fun h => h) rfl
theorem Codes.bwait (f : Fields) : Codes.Statement (.bwait f) := some_codes rfl (fun h => h) rfl
theorem Codes.gath (f : Fields) : Codes.Statement (.gath f) := some_codes rfl (fun h => h) rfl
theorem Codes.coll (f : Fields) : Codes.Statement (.coll f) := some_codes rfl (fun h => h) rfl
theorem Codes.tlwait (f : Fields) : Codes.Statement (.tlwait f) := some_codes rfl (fun h => h) rfl
theorem Codes.tlrd (f : Fields) : Codes.Statement (.tlrd f) := some_codes rfl (fun h => h) rfl
theorem Codes.mma (f : Fields) : Codes.Statement (.mma f) := some_codes rfl (fun h => h) rfl
theorem Codes.mzero (f : Fields) : Codes.Statement (.mzero f) := some_codes rfl (fun h => h) rfl
theorem Codes.acld (f : Fields) : Codes.Statement (.acld f) := some_codes rfl (fun h => h) rfl
theorem Codes.acst (f : Fields) : Codes.Statement (.acst f) := some_codes rfl (fun h => h) rfl
theorem Codes.acrd (f : Fields) : Codes.Statement (.acrd f) := some_codes rfl (fun h => h) rfl
theorem Codes.acwr (f : Fields) : Codes.Statement (.acwr f) := some_codes rfl (fun h => h) rfl
theorem Codes.plane (f : Fields) : Codes.Statement (.plane f) := some_codes rfl (fun h => h) rfl
theorem Codes.mcoef (f : Fields) : Codes.Statement (.mcoef f) := some_codes rfl (fun h => h) rfl
theorem Codes.mpoly (f : Fields) : Codes.Statement (.mpoly f) := some_codes rfl (fun h => h) rfl
theorem Codes.miter (f : Fields) : Codes.Statement (.miter f) := some_codes rfl (fun h => h) rfl
theorem Codes.mnorm (f : Fields) : Codes.Statement (.mnorm f) := some_codes rfl (fun h => h) rfl
theorem Codes.mistat (f : Fields) : Codes.Statement (.mistat f) := some_codes rfl (fun h => h) rfl
theorem Codes.view (f : Fields) : Codes.Statement (.view f) := some_codes rfl (fun h => h) rfl
theorem Codes.viewl (f : Fields) : Codes.Statement (.viewl f) := some_codes rfl (fun h => h) rfl
theorem Codes.vstat (f : Fields) : Codes.Statement (.vstat f) := some_codes rfl (fun h => h) rfl
theorem Codes.ndalloc (f : Fields) : Codes.Statement (.ndalloc f) := some_codes rfl (fun h => h) rfl
theorem Codes.ndemit (f : Fields) : Codes.Statement (.ndemit f) := some_codes rfl (fun h => h) rfl
theorem Codes.nddone (f : Fields) : Codes.Statement (.nddone f) := some_codes rfl (fun h => h) rfl
theorem Codes.ndlaunch (f : Fields) : Codes.Statement (.ndlaunch f) := some_codes rfl (fun h => h) rfl

theorem Codes.bra (f : Fields) : Codes.Statement (.bra f) := by
  intro c op g h e
  cases e
  have hb : f.g = 7 ∧ f.wf = true := by simpa [Instr.wf] using h
  exact ⟨by simp [makeInstr, makeCtl, hb.1], hb.2⟩


theorem Codes.braGuarded (f : Fields) : Codes.Statement (.braGuarded f) := by
  intro c op g h e
  cases e
  have hb : f.g ≠ 7 ∧ f.wf = true := by simpa [Instr.wf] using h
  exact ⟨by simpa [makeInstr, makeCtl] using hb.1, hb.2⟩

theorem Codes.brx (f : Fields) : Codes.Statement (.brx f) := some_codes rfl (fun h => h) rfl
theorem Codes.pad (f : Fields) : Codes.Statement (.pad f) := some_codes rfl (fun h => h) rfl
theorem Codes.call (f : Fields) : Codes.Statement (.call f) := some_codes rfl (fun h => h) rfl
theorem Codes.callx (f : Fields) : Codes.Statement (.callx f) := some_codes rfl (fun h => h) rfl
theorem Codes.ret (f : Fields) : Codes.Statement (.ret f) := some_codes rfl (fun h => h) rfl
theorem Codes.loop (f : Fields) : Codes.Statement (.loop f) := some_codes rfl (fun h => h) rfl
theorem Codes.exit (f : Fields) : Codes.Statement (.exit f) := some_codes rfl (fun h => h) rfl
theorem Codes.regang (f : Fields) : Codes.Statement (.regang f) := some_codes rfl (fun h => h) rfl
theorem Codes.yield (f : Fields) : Codes.Statement (.yield f) := some_codes rfl (fun h => h) rfl
theorem Codes.kwait (f : Fields) : Codes.Statement (.kwait f) := some_codes rfl (fun h => h) rfl
theorem Codes.barinit (f : Fields) : Codes.Statement (.barinit f) := some_codes rfl (fun h => h) rfl
theorem Codes.bararv (f : Fields) : Codes.Statement (.bararv f) := some_codes rfl (fun h => h) rfl
theorem Codes.barwait (f : Fields) : Codes.Statement (.barwait f) := some_codes rfl (fun h => h) rfl
theorem Codes.barxb (f : Fields) : Codes.Statement (.barxb f) := some_codes rfl (fun h => h) rfl
theorem Codes.barsync (f : Fields) : Codes.Statement (.barsync f) := some_codes rfl (fun h => h) rfl
theorem Codes.pace (f : Fields) : Codes.Statement (.pace f) := some_codes rfl (fun h => h) rfl
theorem Codes.pacerd (f : Fields) : Codes.Statement (.pacerd f) := some_codes rfl (fun h => h) rfl
theorem Codes.sigchk (f : Fields) : Codes.Statement (.sigchk f) := some_codes rfl (fun h => h) rfl
theorem Codes.trap (f : Fields) : Codes.Statement (.trap f) := some_codes rfl (fun h => h) rfl
theorem Codes.brk (f : Fields) : Codes.Statement (.brk f) := some_codes rfl (fun h => h) rfl
theorem Codes.sread (f : Fields) : Codes.Statement (.sread f) := some_codes rfl (fun h => h) rfl
theorem Codes.swrite (f : Fields) : Codes.Statement (.swrite f) := some_codes rfl (fun h => h) rfl

theorem Codes.tret (f : Fields) : Codes.Statement (.tret f) := by
  intro c op g h e
  cases e
  have hb : f.mod.getLsbD 0 = false ∧ f.wf = true := by simpa [Instr.wf] using h
  exact ⟨by simp only [makeInstr, makeSys, hb.1]; rfl, hb.2⟩


theorem Codes.tretSkip (f : Fields) : Codes.Statement (.tretSkip f) := by
  intro c op g h e
  cases e
  have hb : f.mod.getLsbD 0 = true ∧ f.wf = true := by simpa [Instr.wf] using h
  exact ⟨by simp only [makeInstr, makeSys, hb.1]; rfl, hb.2⟩

theorem Codes.chkpt (f : Fields) : Codes.Statement (.chkpt f) := some_codes rfl (fun h => h) rfl
theorem Codes.deadrd (f : Fields) : Codes.Statement (.deadrd f) := some_codes rfl (fun h => h) rfl
theorem Codes.packageReset (b : Boot) : Codes.Statement (.packageReset b) := none_codes rfl
theorem Codes.powerLimitThrottle (mhz : Nat) : Codes.Statement (.powerLimitThrottle mhz) := none_codes rfl
theorem Codes.clientPortReady : Codes.Statement .clientPortReady := none_codes rfl
theorem Codes.clientConfigRequest (fn : Nat) : Codes.Statement (.clientConfigRequest fn) := none_codes rfl
theorem Codes.clientLinkReset : Codes.Statement .clientLinkReset := none_codes rfl
theorem Codes.functionLevelReset (fn : Nat) : Codes.Statement (.functionLevelReset fn) := none_codes rfl
theorem Codes.backgroundScrubEnd (key : Nat) : Codes.Statement (.backgroundScrubEnd key) := none_codes rfl
theorem Codes.partitionResetEnd (part : Nat) : Codes.Statement (.partitionResetEnd part) := none_codes rfl
theorem Codes.doorbell (part q tail : Nat) : Codes.Statement (.doorbell part q tail) := none_codes rfl
theorem Codes.submissionEntryRead (part q : Nat) : Codes.Statement (.submissionEntryRead part q) := none_codes rfl
theorem Codes.blockPlacement (launch : Nat) : Codes.Statement (.blockPlacement launch) := none_codes rfl
theorem Codes.headOfLevelTimeout (launch : Nat) : Codes.Statement (.headOfLevelTimeout launch) := none_codes rfl
theorem Codes.blockEnd (block : Nat) : Codes.Statement (.blockEnd block) := none_codes rfl
theorem Codes.heatTimeout (graph node : Nat) : Codes.Statement (.heatTimeout graph node) := none_codes rfl
theorem Codes.easelCycle (easel : Nat) : Codes.Statement (.easelCycle easel) := none_codes rfl
theorem Codes.gangPromotion (easel : Nat) : Codes.Statement (.gangPromotion easel) := none_codes rfl
theorem Codes.residencyLimit (easel : Nat) : Codes.Statement (.residencyLimit easel) := none_codes rfl
theorem Codes.resultWriteback (gang : Nat) : Codes.Statement (.resultWriteback gang) := none_codes rfl
theorem Codes.barStarved (gang : Nat) (slice : Option Nat) : Codes.Statement (.barStarved gang slice) :=
  none_codes rfl
theorem Codes.loadSectorArrival (op lane : Nat) : Codes.Statement (.loadSectorArrival op lane) := none_codes rfl
theorem Codes.storePerformed (op lane : Nat) : Codes.Statement (.storePerformed op lane) := none_codes rfl
theorem Codes.atomicPerform (op lane : Nat) : Codes.Statement (.atomicPerform op lane) := none_codes rfl
theorem Codes.specialFunctionDelivery (op : Nat) : Codes.Statement (.specialFunctionDelivery op) := none_codes rfl
theorem Codes.fenceComplete (op : Nat) : Codes.Statement (.fenceComplete op) := none_codes rfl
theorem Codes.copyComplete (op : Nat) : Codes.Statement (.copyComplete op) := none_codes rfl
theorem Codes.streamOpComplete (wing ctx num : Nat) : Codes.Statement (.streamOpComplete wing ctx num) :=
  none_codes rfl
theorem Codes.matrixEntryComplete (op : Nat) : Codes.Statement (.matrixEntryComplete op) := none_codes rfl
theorem Codes.acrdDelivery (op : Nat) : Codes.Statement (.acrdDelivery op) := none_codes rfl
theorem Codes.miterUnit (op : Nat) : Codes.Statement (.miterUnit op) := none_codes rfl
theorem Codes.sketchTurn (wing : Nat) : Codes.Statement (.sketchTurn wing) := none_codes rfl
theorem Codes.shadingGangStart (view : Nat) : Codes.Statement (.shadingGangStart view) := none_codes rfl
theorem Codes.viewDelivery (view : Nat) : Codes.Statement (.viewDelivery view) := none_codes rfl
theorem Codes.faultResolve (park : Nat) (pages : List PageSpec) : Codes.Statement (.faultResolve park pages) :=
  none_codes rfl
theorem Codes.faultDecline (park : Nat) : Codes.Statement (.faultDecline park) := none_codes rfl
theorem Codes.parkReplay (park : Nat) : Codes.Statement (.parkReplay park) := none_codes rfl
theorem Codes.pageMigration (part vbase pbase : Nat) : Codes.Statement (.pageMigration part vbase pbase) :=
  none_codes rfl
theorem Codes.supervisorEndBlock (block : Nat) : Codes.Statement (.supervisorEndBlock block) := none_codes rfl
theorem Codes.supervisorResume (gang : Nat) (slice : Option Nat) (writes : List (Nat × Reg)) : Codes.Statement (.supervisorResume gang slice writes) :=
  none_codes rfl
theorem Codes.supervisorResumeSkip (gang : Nat) (slice : Option Nat) : Codes.Statement (.supervisorResumeSkip gang slice) :=
  none_codes rfl
theorem Codes.preemptAdaptive (request : Reg) : Codes.Statement (.preemptAdaptive request) := none_codes rfl
theorem Codes.preemptSave (request : Reg) : Codes.Statement (.preemptSave request) := none_codes rfl
theorem Codes.preemptFlush (request : Reg) : Codes.Statement (.preemptFlush request) := none_codes rfl
theorem Codes.drainTimeout (block : Nat) : Codes.Statement (.drainTimeout block) := none_codes rfl
theorem Codes.blockSaved (block : Nat) : Codes.Statement (.blockSaved block) := none_codes rfl
theorem Codes.blockRestore (addr cluster : Nat) : Codes.Statement (.blockRestore addr cluster) := none_codes rfl
theorem Codes.partitionTableWrite (part word : Nat) (val : Reg) : Codes.Statement (.partitionTableWrite part word val) :=
  none_codes rfl
theorem Codes.registerWrite (w : RegWrite) : Codes.Statement (.registerWrite w) := none_codes rfl
theorem Codes.msixUnmask (part vector : Nat) : Codes.Statement (.msixUnmask part vector) := none_codes rfl
theorem Codes.irqWindow : Codes.Statement .irqWindow := none_codes rfl
theorem Codes.mailboxMessage (core : Nat) (msg : Option MailMsg) : Codes.Statement (.mailboxMessage core msg) :=
  none_codes rfl
theorem Codes.correctableError (e : ErrSite) : Codes.Statement (.correctableError e) := none_codes rfl
theorem Codes.uncorrectableError (e : ErrSite) : Codes.Statement (.uncorrectableError e) := none_codes rfl
theorem Codes.matrixEngineFail (cluster : Nat) : Codes.Statement (.matrixEngineFail cluster) := none_codes rfl
theorem Codes.matrixRetest (cluster : Nat) (pass : Bool) : Codes.Statement (.matrixRetest cluster pass) :=
  none_codes rfl
theorem Codes.twinStoreCompare (gang slice : Nat) : Codes.Statement (.twinStoreCompare gang slice) := none_codes rfl
theorem Codes.flitCrcFail (link : Link) : Codes.Statement (.flitCrcFail link) := none_codes rfl
theorem Codes.eyeMarginLow (link : Link) : Codes.Statement (.eyeMarginLow link) := none_codes rfl
theorem Codes.symbolCountExceeded (link : Link) : Codes.Statement (.symbolCountExceeded link) := none_codes rfl
theorem Codes.retrainComplete (link : Link) : Codes.Statement (.retrainComplete link) := none_codes rfl
theorem Codes.retrainRequest (link : Link) (up : Bool) : Codes.Statement (.retrainRequest link up) := none_codes rfl
theorem Codes.signalLoss (plane : Nat) : Codes.Statement (.signalLoss plane) := none_codes rfl
theorem Codes.quiesce (planes : Nat) : Codes.Statement (.quiesce planes) := none_codes rfl
theorem Codes.rehashDrainDone (gone : List Nat) : Codes.Statement (.rehashDrainDone gone) := none_codes rfl
theorem Codes.rehashResume : Codes.Statement .rehashResume := none_codes rfl
theorem Codes.getVersion : Codes.Statement .getVersion := none_codes rfl
theorem Codes.getCapabilities (ver : Nat) : Codes.Statement (.getCapabilities ver) := none_codes rfl
theorem Codes.negotiateAlgorithms (ver alg : Nat) : Codes.Statement (.negotiateAlgorithms ver alg) := none_codes rfl
theorem Codes.getDigests : Codes.Statement .getDigests := none_codes rfl
theorem Codes.getCertificate (alg offset length : Nat) : Codes.Statement (.getCertificate alg offset length) :=
  none_codes rfl
theorem Codes.challenge (alg nonce : Nat) : Codes.Statement (.challenge alg nonce) := none_codes rfl
theorem Codes.getMeasurements (alg index nonce : Nat) : Codes.Statement (.getMeasurements alg index nonce) :=
  none_codes rfl
theorem Codes.spdmUnsupportedRequest (code : Nat) : Codes.Statement (.spdmUnsupportedRequest code) := none_codes rfl
theorem Codes.requestFirmwareData (component : Nat) (image : Image) (ok : Bool) : Codes.Statement (.requestFirmwareData component image ok) :=
  none_codes rfl
theorem Codes.activateFirmware (component : Nat) : Codes.Statement (.activateFirmware component) := none_codes rfl
theorem Codes.getStatus : Codes.Statement .getStatus := none_codes rfl
theorem Codes.cancelUpdate (component : Nat) : Codes.Statement (.cancelUpdate component) := none_codes rfl
theorem Codes.firmwareRestartDone : Codes.Statement .firmwareRestartDone := none_codes rfl
theorem Codes.supervisorOsRestart : Codes.Statement .supervisorOsRestart := none_codes rfl

theorem Codes.unassignedOpcode (cls : BitVec 3) (op : BitVec 7) (f : Fields) :
    Codes.Statement (.unassignedOpcode cls op f) := by
  intro c o g h e
  cases e
  have hb : ((cls ≠ 7 ∧ op ≠ 0) ∧ opAssigned cls op = false) ∧ f.wf = true := by simpa [Instr.wf] using h
  exact ⟨make_unassigned hb.1.1.1 hb.1.1.2 hb.1.2, hb.2⟩

theorem Codes.cctlComplete (op : Nat) : Codes.Statement (.cctlComplete op) := none_codes rfl
theorem Codes.codeFetchArrival (gang : Nat) (slice : Option Nat) (poisoned : Bool) : Codes.Statement (.codeFetchArrival gang slice poisoned) :=
  none_codes rfl
theorem Codes.queueReset (part q : Nat) : Codes.Statement (.queueReset part q) := none_codes rfl
theorem Codes.savedContextDiscard (addr : Nat) : Codes.Statement (.savedContextDiscard addr) := none_codes rfl
theorem Codes.powerRemoval : Codes.Statement .powerRemoval := none_codes rfl
theorem Codes.clientLinkDown : Codes.Statement .clientLinkDown := none_codes rfl
theorem Codes.rootPortDeviceAccess (device addr : Nat) (write : Option (List (BitVec 8))) (bytes : Nat) : Codes.Statement (.rootPortDeviceAccess device addr write bytes) :=
  none_codes rfl

end Sys2Proof.Laws
end

