-- ==== Sys2Proof/Tests/Slice0.lean ====
section
/-!
SUPPORT. Tests/Slice0.lean: the model's own tests: what is ill formed, the words of every instruction, one step on small
states, and for every obligation a state and operands that meet its hypotheses.
-/

namespace Sys2Proof.Tests

open Sys2Proof Sys2Proof.Machine

set_option Elab.async false

/-! ### Terms that stand for nothing (WellFormed) -/

/-- The fields of a word without an extension word. -/
def f1 (st : BitVec 2) (g : BitVec 3) (d a b : BitVec 6) : Fields :=
  { noFields with stall := st, g := g, d := d, a := a, b := b }

/-- The fields of a word and its extension word, GN clear. -/
def f2 (st : BitVec 2) (g : BitVec 3) (d a b : BitVec 6) (w : BitVec 3) (aq bq cq : Bool) (rm : BitVec 2) (sat : Bool)
    (c : BitVec 6) (mod : BitVec 15) : Fields :=
  { stall := st, x := true, g := g, d := d, a := a, b := b, gn := false, w := w, aq := aq, bq := bq, cq := cq, rm := rm
    sat := sat, c := c, mod := mod }

/-- R72: without an extension word each of its fields has its default. -/
theorem test_wf_fields :
    noFields.wf = true ∧ ({ noFields with gn := true } : Fields).wf = false ∧ ({ noFields with w := 3 } : Fields).wf = false ∧
    ({ noFields with aq := true } : Fields).wf = false ∧ ({ noFields with bq := true } : Fields).wf = false ∧
    ({ noFields with cq := true } : Fields).wf = false ∧ ({ noFields with rm := 1 } : Fields).wf = false ∧
    ({ noFields with sat := true } : Fields).wf = false ∧ ({ noFields with c := 1 } : Fields).wf = false ∧
    ({ noFields with mod := 1 } : Fields).wf = false := by decide

/-- R65, R73, R74, R226, R330: a class 7, a guard in BRA or none in the guarded row, SKIP in TRET or none in TRET.skip, an
opcode that names an instruction. -/
theorem test_wf_instructions :
    ([.nop 7 noFields, .bra noFields, .braGuarded (f1 0 7 0 0 5), .tret (f2 0 7 0 0 0 2 false false false 0 false 0 1),
      .tretSkip (f1 0 7 0 0 0), .unassignedOpcode 7 1 noFields, .unassignedOpcode 0 0 noFields, .unassignedOpcode 0 1 noFields,
      .iadd { noFields with sat := true }] : List Instr).all (fun i => !i.wf) = true := by decide

/-- R11, R12, R254, R304, R317: an event that names a unit beyond those of the part, a page that is not aligned, has no page
size or lies outside the window or the key ids. -/
theorem test_wf_events :
    ([.clientConfigRequest 17, .functionLevelReset 17, .backgroundScrubEnd 128, .partitionResetEnd 16, .doorbell 16 0 0,
      .doorbell 0 16 0, .submissionEntryRead 16 0, .submissionEntryRead 0 16, .easelCycle 768, .gangPromotion 768,
      .residencyLimit 768, .loadSectorArrival 1 32, .storePerformed 1 32, .atomicPerform 1 32, .streamOpComplete 48 0 1,
      .streamOpComplete 0 64 1, .sketchTurn 48, .pageMigration 16 0 0, .blockRestore 0 192, .partitionTableWrite 16 0 0,
      .partitionTableWrite 0 8 0, .msixUnmask 16 0, .msixUnmask 0 2048, .mailboxMessage 8 none, .matrixEngineFail 192,
      .matrixRetest 192 true, .flitCrcFail (.port 8), .eyeMarginLow (.ring 4), .symbolCountExceeded (.hub 4), .signalLoss 8,
      .quiesce 256, .requestFirmwareData 0 ⟨[], []⟩ true, .activateFirmware 3, .cancelUpdate 3, .queueReset 16 0,
      .faultResolve 1 [⟨0, 4096, 0, true, true, true, 0⟩], .faultResolve 1 [⟨65536 + 8, 65536, 0, true, true, true, 0⟩],
      .faultResolve 1 [⟨0, 65536, 8, true, true, true, 0⟩], .faultResolve 1 [⟨2 ^ 56, 65536, 0, true, true, true, 0⟩],
      .faultResolve 1 [⟨0, 65536, 2 ^ 56, true, true, true, 0⟩], .faultResolve 1 [⟨0, 65536, 0, true, true, true, 128⟩],
      .registerWrite (.super 32 0 8 none), .registerWrite (.super 0 (2 ^ 64) 8 none), .registerWrite (.super 0 0 3 none),
      .registerWrite (.host 17 0 4 none), .registerWrite (.host 1 2 4 none), .registerWrite (.host 1 0 2 none),
      .registerWrite (.queue 16 0 0 0 0), .registerWrite (.queue 0 16 0 0 0),
      .registerWrite (.pageUnmap 16 0), .registerWrite (.context 48 0 0 2), .registerWrite (.context 0 64 0 2),
      .registerWrite (.context 0 0 0 1), .registerWrite (.context 0 0 0 5),
      .registerWrite (.heatArea 16 0 0)] : List Instr).all (fun i => !i.wf) = true := by decide +kernel

/-! ### Words (04 R68, R71, R73, written from their bits: STALL at 29, X at 28, OP at 21, G at 18, D at 12, A at 6, B at 0;
GN at 30, W at 27, AQ, BQ, CQ at 26 to 24, RM at 22, SAT at 21, C at 15, MOD at 0) -/

def vecWords1 : List (Word × Word × Instr) :=
  [(0x203C4146, 0x00000000, .iadd (f1 1 7 4 5 6)),
   (0x205C4146, 0x00000000, .isub (f1 1 7 4 5 6)),
   (0x207C4146, 0x00000000, .imul (f1 1 7 4 5 6)),
   (0x209C4146, 0x00000000, .imulh (f1 1 7 4 5 6)),
   (0x20FC4146, 0x00000000, .imin (f1 1 7 4 5 6)),
   (0x211C4146, 0x00000000, .imax (f1 1 7 4 5 6)),
   (0x221C4146, 0x00000000, .and (f1 1 7 4 5 6)),
   (0x223C4146, 0x00000000, .or (f1 1 7 4 5 6)),
   (0x225C4146, 0x00000000, .xor (f1 1 7 4 5 6)),
   (0x227C4146, 0x00000000, .andn (f1 1 7 4 5 6)),
   (0x22DC4146, 0x00000000, .shl (f1 1 7 4 5 6)),
   (0x22FC4146, 0x00000000, .shr (f1 1 7 4 5 6)),
   (0x231C4146, 0x00000000, .sar (f1 1 7 4 5 6)),
   (0x233C4146, 0x00000000, .rol (f1 1 7 4 5 6)),
   (0x23DC4146, 0x00000000, .bfx (f1 1 7 4 5 6)),
   (0x241C4146, 0x00000000, .fadd (f1 1 7 4 5 6)),
   (0x243C4146, 0x00000000, .fsub (f1 1 7 4 5 6)),
   (0x245C4146, 0x00000000, .fmul (f1 1 7 4 5 6)),
   (0x249C4146, 0x00000000, .fmin (f1 1 7 4 5 6)),
   (0x24BC4146, 0x00000000, .fmax (f1 1 7 4 5 6))]

def vecWords2 : List (Word × Word × Instr) :=
  [(0x253C4146, 0x00000000, .fscale (f1 1 7 4 5 6)),
   (0x28BC4146, 0x00000000, .pack (f1 1 7 4 5 6)),
   (0x213C4140, 0x00000000, .iabs (f1 1 7 4 5 0)),
   (0x215C4140, 0x00000000, .ineg (f1 1 7 4 5 0)),
   (0x229C4140, 0x00000000, .not (f1 1 7 4 5 0)),
   (0x235C4140, 0x00000000, .clz (f1 1 7 4 5 0)),
   (0x237C4140, 0x00000000, .ffs (f1 1 7 4 5 0)),
   (0x239C4140, 0x00000000, .popc (f1 1 7 4 5 0)),
   (0x23BC4140, 0x00000000, .brev (f1 1 7 4 5 0)),
   (0x24FC4140, 0x00000000, .frnd (f1 1 7 4 5 0)),
   (0x251C4140, 0x00000000, .fclass (f1 1 7 4 5 0)),
   (0x28DC4140, 0x00000000, .unpk (f1 1 7 4 5 0)),
   (0x2A1C4140, 0x00000000, .mov (f1 1 7 4 5 0)),
   (0x2A9C4140, 0x00000000, .movu (f1 1 7 4 5 0)),
   (0x2C5C4140, 0x00000000, .rfal (f1 1 7 4 5 0)),
   (0x2C7C4140, 0x00000000, .peers (f1 1 7 4 5 0)),
   (0x2C9C4140, 0x00000000, .lfold (f1 1 7 4 5 0)),
   (0x2CBC4140, 0x00000000, .scan (f1 1 7 4 5 0)),
   (0x30BC4146, 0x10018000, .imad (f2 1 7 4 5 6 2 false false false 0 false 3 0)),
   (0x30DC4146, 0x10018000, .iaddc (f2 1 7 4 5 6 2 false false false 0 false 3 0))]

def vecWords3 : List (Word × Word × Instr) :=
  [(0x317C4146, 0x10018000, .idot4 (f2 1 7 4 5 6 2 false false false 0 false 3 0)),
   (0x32BC4146, 0x10018000, .bitf (f2 1 7 4 5 6 2 false false false 0 false 3 0)),
   (0x33FC4146, 0x10018000, .bfi (f2 1 7 4 5 6 2 false false false 0 false 3 0)),
   (0x347C4146, 0x10018000, .ffma (f2 1 7 4 5 6 2 false false false 0 false 3 0)),
   (0x3A5C4146, 0x10018000, .sel (f2 1 7 4 5 6 2 false false false 0 false 3 0)),
   (0x3A7C4146, 0x10018000, .bpick (f2 1 7 4 5 6 2 false false false 0 false 3 0)),
   (0x3C1C4146, 0x10018000, .lxch (f2 1 7 4 5 6 2 false false false 0 false 3 0)),
   (0x219C1146, 0x00000000, .icmp (f1 1 7 1 5 6)),
   (0x24DC1146, 0x00000000, .fcmp (f1 1 7 1 5 6)),
   (0x361C4140, 0x10002000, .frcp (f2 1 7 4 5 0 2 false false false 0 false 0 8192)),
   (0x363C4140, 0x10002000, .frsq (f2 1 7 4 5 0 2 false false false 0 false 0 8192)),
   (0x365C4140, 0x10002000, .fsqrt (f2 1 7 4 5 0 2 false false false 0 false 0 8192)),
   (0x369C4140, 0x10002000, .fexp2 (f2 1 7 4 5 0 2 false false false 0 false 0 8192)),
   (0x36BC4140, 0x10002000, .flog2 (f2 1 7 4 5 0 2 false false false 0 false 0 8192)),
   (0x36DC4140, 0x10002000, .fsinp (f2 1 7 4 5 0 2 false false false 0 false 0 8192)),
   (0x36FC4140, 0x10002000, .fcosp (f2 1 7 4 5 0 2 false false false 0 false 0 8192)),
   (0x371C4140, 0x10002000, .ftanh (f2 1 7 4 5 0 2 false false false 0 false 0 8192)),
   (0x367C4146, 0x10002000, .fdiv (f2 1 7 4 5 6 2 false false false 0 false 0 8192)),
   (0x381C4140, 0x1000061A, .cvt (f2 1 7 4 5 0 2 false false false 0 false 0 1562)),
   (0x383C4146, 0x10000810, .cvtq (f2 1 7 4 5 6 2 false false false 0 false 0 2064))]

def vecWords4 : List (Word × Word × Instr) :=
  [(0x385C4146, 0x10000240, .cvtd (f2 1 7 4 5 6 2 false false false 0 false 0 576)),
   (0x387C4000, 0x10000001, .amxrd (f2 1 7 4 0 0 2 false false false 0 false 0 1)),
   (0x289C0140, 0x00000000, .amxset (f1 1 7 0 5 0)),
   (0x3A3C4000, 0x1000C005, .movi (f2 1 7 4 0 0 2 false false false 0 false 1 16389)),
   (0x2ABC1083, 0x00000000, .pmov (f1 1 7 1 2 3)),
   (0x2C3C1080, 0x00000000, .poll (f1 1 7 1 2 0)),
   (0x201C0000, 0x00000000, .nop 0 (f1 1 7 0 0 0)),
   (0x21BC0000, 0x00000000, .unassignedOpcode 0 0x0D (f1 1 7 0 0 0)),
   (0x2FFFFFFF, 0x00000000, .unassignedOpcode 0 0x7F (f1 1 7 63 63 63))]

def vecWords : List (Word × Word × Instr) := vecWords1 ++ vecWords2 ++ vecWords3 ++ vecWords4

def uniWords : List (Word × Word × Instr) :=
  [(0x203C4146, 0x00000000, .uadd (f1 1 7 4 5 6)),
   (0x205C4146, 0x00000000, .usub (f1 1 7 4 5 6)),
   (0x207C4146, 0x00000000, .umul (f1 1 7 4 5 6)),
   (0x209C4146, 0x00000000, .umulh (f1 1 7 4 5 6)),
   (0x20DC4146, 0x00000000, .umin (f1 1 7 4 5 6)),
   (0x20FC4146, 0x00000000, .umax (f1 1 7 4 5 6)),
   (0x221C4146, 0x00000000, .uand (f1 1 7 4 5 6)),
   (0x223C4146, 0x00000000, .uor (f1 1 7 4 5 6)),
   (0x225C4146, 0x00000000, .uxor (f1 1 7 4 5 6)),
   (0x227C4146, 0x00000000, .ushl (f1 1 7 4 5 6)),
   (0x229C4146, 0x00000000, .ushr (f1 1 7 4 5 6)),
   (0x22BC4146, 0x00000000, .usar (f1 1 7 4 5 6)),
   (0x247C4146, 0x00000000, .ucmp (f1 1 7 4 5 6)),
   (0x30BC4146, 0x10018000, .umad (f2 1 7 4 5 6 2 false false false 0 false 3 0)),
   (0x345C4146, 0x10018000, .usel (f2 1 7 4 5 6 2 false false false 0 false 3 0)),
   (0x241C4140, 0x00000000, .umov (f1 1 7 4 5 0)),
   (0x343C4000, 0x18004040, .umovi (f2 1 7 4 0 0 3 false false false 0 false 0 16448)),
   (0x361C4140, 0x10001008, .uld (f2 1 7 4 5 0 2 false false false 0 false 0 4104)),
   (0x363C4000, 0x10000038, .usread (f2 1 7 4 0 0 2 false false false 0 false 0 56))]

def memWords : List (Word × Word × Instr) :=
  [(0x303C40C0, 0x1C000001, .ld (f2 1 7 4 3 0 3 true false false 0 false 0 1)),
   (0x305C0107, 0x18007000, .st (f2 1 7 0 4 7 3 false false false 0 false 0 28672)),
   (0x309C4146, 0x10000A00, .atom (f2 1 7 4 5 6 2 false false false 0 false 0 2560)),
   (0x30BC0146, 0x10007200, .red (f2 1 7 0 5 6 2 false false false 0 false 0 29184)),
   (0x30DC0000, 0x10000011, .fence (f2 1 7 0 0 0 2 false false false 0 false 0 17)),
   (0x30FC0140, 0x10000100, .pref (f2 1 7 0 5 0 2 false false false 0 false 0 256)),
   (0x311C0146, 0x10007001, .cctl (f2 1 7 0 5 6 2 false false false 0 false 0 28673)),
   (0x321C00C2, 0x17020000, .cpa (f2 1 7 0 3 2 2 true true true 0 false 4 0)),
   (0x323C00C2, 0x17020000, .cpt (f2 1 7 0 3 2 2 true true true 0 false 4 0)),
   (0x225C5000, 0x00000000, .bseal (f1 1 7 5 0 0)),
   (0x227C0140, 0x00000000, .bwait (f1 1 7 0 5 0)),
   (0x341C0140, 0x10000003, .tlwait (f2 1 7 0 5 0 2 false false false 0 false 0 3)),
   (0x343C5000, 0x10000043, .tlrd (f2 1 7 5 0 0 2 false false false 0 false 0 67)),
   (0x345C0140, 0x14000003, .gath (f2 1 7 0 5 0 2 true false false 0 false 0 3)),
   (0x347C0140, 0x14000004, .coll (f2 1 7 0 5 0 2 true false false 0 false 0 4))]

def mtxWords : List (Word × Word × Instr) :=
  [(0x303C2103, 0x13028007, .mma (f2 1 7 2 4 3 2 false true true 0 false 5 7)),
   (0x005C2000, 0x00000000, .mzero (f1 0 7 2 0 0)),
   (0x307C2103, 0x11028001, .acld (f2 1 7 2 4 3 2 false false true 0 false 5 1)),
   (0x309C2103, 0x11028001, .acst (f2 1 7 2 4 3 2 false false true 0 false 5 1)),
   (0x30BC8087, 0x11029100, .acrd (f2 1 7 8 2 7 2 false false true 0 false 5 4352)),
   (0x30DC2100, 0x11028011, .acwr (f2 1 7 2 4 0 2 false false true 0 false 5 17)),
   (0x30FC0103, 0x10000074, .plane (f2 1 7 0 4 3 2 false false false 0 false 0 116)),
   (0x221C3100, 0x00000000, .mcoef (f1 1 7 3 4 0)),
   (0x323C3080, 0x11028072, .mpoly (f2 1 7 3 2 0 2 false false true 0 false 5 114)),
   (0x325C4000, 0x110281C2, .miter (f2 1 7 4 0 0 2 false false true 0 false 5 450)),
   (0x327C6080, 0x1102801C, .mnorm (f2 1 7 6 2 0 2 false false true 0 false 5 28)),
   (0x329C6000, 0x10000001, .mistat (f2 1 7 6 0 0 2 false false false 0 false 0 1))]

def asyWords : List (Word × Word × Instr) :=
  [(0x303C8083, 0x16001020, .view (f2 1 7 8 2 3 2 true true false 0 false 0 4128)),
   (0x305C8083, 0x10001100, .viewl (f2 1 7 8 2 3 2 false false false 0 false 0 4352)),
   (0x307C6000, 0x10000001, .vstat (f2 1 7 6 0 0 2 false false false 0 false 0 1)),
   (0x321C5000, 0x10001000, .ndalloc (f2 1 7 5 0 0 2 false false false 0 false 0 4096)),
   (0x323C0140, 0x10000001, .ndemit (f2 1 7 0 5 0 2 false false false 0 false 0 1)),
   (0x225C0140, 0x00000000, .nddone (f1 1 7 0 5 0)),
   (0x327C0000, 0x10000001, .ndlaunch (f2 1 7 0 0 0 2 false false false 0 false 0 1))]

def ctlWords : List (Word × Word × Instr) :=
  [(0x203C0005, 0x00000000, .bra (f1 1 7 0 0 5)),
   (0x30280005, 0x10000009, .braGuarded (f2 1 2 0 0 5 2 false false false 0 false 0 9)),
   (0x305C0146, 0x10000004, .brx (f2 1 7 0 5 6 2 false false false 0 false 0 4)),
   (0x207C0049, 0x00000000, .pad (f1 1 7 0 1 9)),
   (0x209C0005, 0x00000000, .call (f1 1 7 0 0 5)),
   (0x30BC0146, 0x10000004, .callx (f2 1 7 0 5 6 2 false false false 0 false 0 4)),
   (0x20DC0000, 0x00000000, .ret (f1 1 7 0 0 0)),
   (0x30FC0005, 0x11008000, .loop (f2 1 7 0 0 5 2 false false true 0 false 1 0)),
   (0x211C0000, 0x00000000, .exit (f1 1 7 0 0 0)),
   (0x213C0000, 0x00000000, .regang (f1 1 7 0 0 0)),
   (0x215C0000, 0x00000000, .yield (f1 1 7 0 0 0)),
   (0x317C0000, 0x100000C5, .kwait (f2 1 7 0 0 0 2 false false false 0 false 0 197)),
   (0x321C0140, 0x10000004, .barinit (f2 1 7 0 5 0 2 false false false 0 false 0 4)),
   (0x223C0140, 0x00000000, .bararv (f1 1 7 0 5 0)),
   (0x225C0146, 0x00000000, .barwait (f1 1 7 0 5 6)),
   (0x227C0146, 0x00000000, .barxb (f1 1 7 0 5 6)),
   (0x229C0140, 0x00000000, .barsync (f1 1 7 0 5 0)),
   (0x231C0000, 0x00000000, .pace (f1 1 7 0 0 0)),
   (0x333C5000, 0x10000003, .pacerd (f2 1 7 5 0 0 2 false false false 0 false 0 3)),
   (0x339C1083, 0x10000004, .sigchk (f2 1 7 1 2 3 2 false false false 0 false 0 4))]

def sysWords : List (Word × Word × Instr) :=
  [(0x303C0000, 0x10000155, .trap (f2 1 7 0 0 0 2 false false false 0 false 0 341)),
   (0x305C0000, 0x100002AA, .brk (f2 1 7 0 0 0 2 false false false 0 false 0 682)),
   (0x307C7000, 0x10000010, .sread (f2 1 7 7 0 0 2 false false false 0 false 0 16)),
   (0x309C01C0, 0x10000020, .swrite (f2 1 7 0 7 0 2 false false false 0 false 0 32)),
   (0x20BC0000, 0x00000000, .tret (f1 1 7 0 0 0)),
   (0x30BC0000, 0x10000001, .tretSkip (f2 1 7 0 0 0 2 false false false 0 false 0 1)),
   (0x20DC0000, 0x00000000, .chkpt (f1 1 7 0 0 0)),
   (0x30FC7000, 0x10000001, .deadrd (f2 1 7 7 0 0 2 false false false 0 false 0 1)),
   (0x201C50C1, 0x00000000, .nop 6 (f1 1 7 5 3 1))]

/-- Each word decodes to its instruction, and the instruction, well formed, encodes to its word. -/
def decodes (cls : BitVec 3) (l : List (Word × Word × Instr)) : Bool :=
  l.all (fun p => decide ((decodeWords cls p.1 p.2.1).toOption = some p.2.2) && p.2.2.wf &&
    decide (encode p.2.2 = some (cls, if p.1.getLsbD 28 then [p.1, p.2.1] else [p.1])))

theorem test_decode_vec : decodes 0 vecWords = true := by decide +kernel
theorem test_decode_uni : decodes 1 uniWords = true := by decide +kernel
theorem test_decode_mem : decodes 2 memWords = true := by decide +kernel
theorem test_decode_mtx : decodes 3 mtxWords = true := by decide +kernel
theorem test_decode_asy : decodes 4 asyWords = true := by decide +kernel
theorem test_decode_ctl : decodes 5 ctlWords = true := by decide +kernel
theorem test_decode_sys : decodes 6 sysWords = true := by decide +kernel

/-- R65, R67, R78: a word with bit 31 set is no instruction, nor is one whose extension word has it; class 7 is reserved. -/
theorem test_decode_rejects :
    decodeWords 0 0xD3000018 0 = .error .headerWord ∧ decodeWords 0 0x10A41083 0x80000000 = .error .headerExtension ∧
    decodeWords 7 0x207C4146 0 = .error .reservedClass ∧ decodeBytes 0 [0, 0, 0] = .error .short ∧
    headerOf 0xD3000035 = some ⟨0x53, 0, false, 0, 3, 5⟩ ∧ headerWord 3 5 = 0xD3000035 := ⟨rfl, rfl, rfl, rfl, rfl, rfl⟩

/-! ### States with a program of one instruction -/

/-- A gang about to issue a word: launch 1, block 2, gang 3, at address 0 of partition 0. -/
def probe (cls : BitVec 3) (w e : Word) : State := State.reset.loadOne cls w e

def withG (f : Gang → Gang) (s : State) : State := s.modGang 3 f
def withB (f : Block → Block) (s : State) : State := s.modBlock 2 f
def withH (f : LaunchHdr → LaunchHdr) (s : State) : State := s.modLaunch 1 (fun l => { l with hdr := f l.hdr })

/-- A d register in every lane. -/
def withD (r : Nat) (v : Nat → Nat) : State → State :=
  withG (fun g => (List.range 32).foldl (fun g l => g.setD r l (BitVec.ofNat 64 (v l))) g)
def withQ (r v : Nat) : State → State := withG (fun g => g.setQ r (BitVec.ofNat 64 v))

/-- What the gang has in each slice. -/
def withS (f : Slice → Slice) : State → State := withG (fun g => { g with slices := g.slices.map f })

/-- A value in memory, under key id 1. -/
def withMem (a n v : Nat) (s : State) : State := { s with mem := s.mem.writeN 1 a n v }

/-- The state after an instruction or event, when there is one. -/
def after (i : Instr) (s : State) : State :=
  match exec i s with
  | .next t => t
  | _ => s

/-- The state after the instruction that the probe has in its word. -/
def ran (s : State) : State :=
  match step s with
  | .next t => t
  | _ => s

/-- The gang is to issue again. -/
def again (s : State) : State := { s with issuing := some ⟨3, none⟩ }

/-! ### What the hypotheses of a statement ask -/

/-- What the agent that holds the issue sees. -/
def look (s : State) (cls op : Nat) (f : Fields) : Option Ctx :=
  s.issuing.bind (fun a => ({ s with issuing := none }).ctx? a cls op f)

def isShadow (k : GangKind) : Bool :=
  match k with
  | .shadow _ => true
  | _ => false

/-- Nothing stands before the instruction, and `p` holds of what it sees. -/
def ready (s : State) (cls op : Nat) (f : Fields) (late : Ctx → Bool) (more : Ctx → List (RFile × Nat)) (p : Ctx → Bool) : Bool :=
  (look s cls op f).any (fun c =>
    !isShadow c.g.kind && (s.shadowOf c.g.id).isNone && c.deferred.isNone && (s.parkOf c.aid).isNone &&
    decide (s.errs.poison = []) && decide (illegalCause (windowOfAgent c.hdr c.aid.slice) c.e c.f (late c) = none) &&
    decide (c.score (more c) = none) && !c.tokenFull && decide (c.g.olds = []) && p c)

theorem ctx_aid {s : State} {a : AgentId} {cls op : Nat} {f : Fields} {c : Ctx} (h : s.ctx? a cls op f = some c) :
    c.aid = a := by
  unfold State.ctx? at h
  split at h
  · cases h
  · split at h
    · split at h
      · cases h
      · cases h; rfl
    · cases h

/-- A ready state meets what the statements ask of an instruction. -/
theorem ready_meets {s : State} {cls op : Nat} {f : Fields} {late : Ctx → Bool} {more : Ctx → List (RFile × Nat)}
    {p : Ctx → Bool} (h : ready s cls op f late more p = true) :
    ∃ c, Sees s cls op f c ∧ c.Unhindered s (late c) (more c) ∧ (∀ r i, c.Landed r i) ∧ p c = true := by
  obtain ⟨c, hc, hp⟩ := (Option.any_eq_true _ _).1 h
  simp only [Bool.and_eq_true, decide_eq_true_eq, Bool.not_eq_true', Option.isNone_iff_eq_none] at hp
  obtain ⟨⟨⟨⟨⟨⟨⟨⟨⟨h1, h2⟩, h3⟩, h4⟩, h5⟩, h6⟩, h7⟩, h8⟩, h9⟩, h10⟩ := hp
  obtain ⟨a, ha, hx⟩ := Option.bind_eq_some_iff.1 hc
  have he := ctx_aid hx
  subst he
  refine ⟨c, ⟨ha, hx⟩, ⟨⟨?_, h2, h3, h4, h5⟩, h6, h7, h8⟩, ?_, h10⟩
  · intro q hq
    rw [hq] at h1
    cases h1
  · intro r i l
    simp [Gang.oldOf, Gang.oldsOf, h9]

def plain (_ : Ctx) : Bool := false
def noMore (_ : Ctx) : List (RFile × Nat) := []

/-- A program of one word, changed by `m`, stands ready, and `p` holds there. -/
def meetsAt (cls : BitVec 3) (w e : Word) (m : State → State) (late : Ctx → Bool) (more : Ctx → List (RFile × Nat))
    (p : State → Ctx → Bool) : Bool :=
  ready (m (probe cls w e)) cls.toNat (opField w).toNat (unpack w e) late more (p (m (probe cls w e)))

/-- Every one of these opcodes has a word among `l` that stands ready in a program of its own, with executing lanes, and
`p` holds there. -/
def meets (cls : BitVec 3) (l : List (Word × Word × Instr)) (ops : List Nat) (p : State → Ctx → Bool) : Bool :=
  ops.all (fun op => l.any (fun x => (opField x.1).toNat == op &&
    meetsAt cls x.1 x.2.1 id plain noMore (fun s c => c.any && p s c)))

def always (_ : State) (_ : Ctx) : Bool := true

theorem witness_IntegerArithmetic : meets 0 vecWords [1, 2, 3, 5, 4, 7, 8, 9, 10] always = true := by decide +kernel
theorem witness_CarryAndDot : meets 0 vecWords [6, 0x0B] always = true := by decide +kernel
theorem witness_Comparisons : meets 0 vecWords [0x0C, 0x26] always = true := by decide +kernel
theorem witness_Logic : meets 0 vecWords [0x10, 0x11, 0x12, 0x13, 0x14, 0x15] always = true := by decide +kernel
theorem witness_ShiftsAndCounts : meets 0 vecWords [0x16, 0x17, 0x18, 0x19, 0x1A, 0x1B, 0x1C, 0x1D] always = true := by
  decide +kernel
theorem witness_FieldsAndMoves : meets 0 vecWords [0x1E, 0x1F, 0x50, 0x51, 0x54, 0x45, 0x46] always = true := by decide +kernel
theorem witness_SelectAndPick : meets 0 vecWords [0x52, 0x53] always = true ∧
    ((look (probe 0 0x3A5C4146 0x11018000) 0 0x52 (unpack 0x3A5C4146 0x11018000)).any (fun c => c.f.cq) &&
      (look (probe 0 0x3A5C4146 0x10018400) 0 0x52 (unpack 0x3A5C4146 0x10018400)).any (fun c => fnOf c.f != 0) &&
      (look (probe 0 0x3A7C4146 0x10018200) 0 0x53 (unpack 0x3A7C4146 0x10018200)).any (fun c => oneOf c.f) &&
      (look (probe 0 0x3A7C4146 0x10018400) 0 0x53 (unpack 0x3A7C4146 0x10018400)).any (fun c => fnOf c.f != 0)) = true := by decide +kernel
theorem witness_PredicateMoves : meets 0 vecWords [0x55] always = true := by decide +kernel
theorem witness_FloatArithmetic : meets 0 vecWords [0x20, 0x21, 0x22, 0x23, 0x24, 0x25, 0x27, 0x29] always = true := by
  decide +kernel
theorem witness_ClassMasks : meets 0 vecWords [0x28] always = true := by decide +kernel
theorem witness_SpecialFunctionsIssue :
    meets 0 vecWords [0x30, 0x31, 0x32, 0x33, 0x34, 0x35, 0x36, 0x37, 0x38] always = true := by decide +kernel
theorem witness_CrossLane : meets 0 vecWords [0x60, 0x61, 0x62, 0x63, 0x64, 0x65] always = true := by decide +kernel
theorem witness_Uniform : meets 1 uniWords
    [1, 2, 3, 5, 4, 6, 7, 0x10, 0x11, 0x12, 0x13, 0x14, 0x15, 0x20, 0x21, 0x22, 0x23] always = true := by decide +kernel

/-- The same words under p2, which holds in no lane. -/
theorem witness_UniformNoLane : ([1, 2, 3, 5, 4, 6, 7, 0x10, 0x11, 0x12, 0x13, 0x14, 0x15, 0x20, 0x21, 0x22, 0x23] : List Nat).all
    (fun op => uniWords.any (fun x => (opField x.1).toNat == op && meetsAt 1 (x.1 &&& 0xFFE3FFFF ||| 0x80000) x.2.1 id plain noMore
      (fun _ c => c.exec == 0))) = true := by decide +kernel
theorem witness_SpecialRegisterReads :
    meets 6 sysWords [3] always = true ∧ meets 1 uniWords [0x31] always = true ∧
    meets 6 sysWords [3] (fun s c => (s.launch? c.blk.launch).any (·.heat.isNone) && c.g.nslices == 8 &&
      (c.g.members c.aid.slice).all (fun i => decide (i < 8)) && decide (c.g.olds = [])) = true ∧
    (((probe 6 0 0).modLaunch 1 (fun l => { l with heat := some (5, 0x100, []) })).launch? 1).any (·.heat == some (5, 0x100, [])) = true := by
  decide +kernel
theorem witness_Conversions : meets 0 vecWords [0x40, 0x41, 0x42]
    (fun _ c => (tyOf (srcOf c.f)).isSome && (tyOf (dstOf c.f)).isSome) = true := by decide +kernel
theorem witness_AmaxInstructions : meets 0 vecWords [0x43, 0x44] always = true ∧
    meets 6 sysWords [4] (fun _ c => modF c.f 7 0 == 0x20) = true := by decide +kernel
theorem witness_StatusReads : meets 4 asyWords [3] always = true ∧ meets 6 sysWords [7] always = true := by decide +kernel

/-! ### Instructions under conditions of their own -/

def engine (_ : State) (c : Ctx) : Bool := !c.hdr.nomatrix && !c.blk.engineLost

/-- MNORM has handed over its entries, and the engine has their result. -/
def mnormDone : State := again (after (.matrixEntryComplete 4) (ran (probe 3 0x327C6080 0x1102801C)))

theorem witness_IterationReads : meets 3 mtxWords [0x10] engine = true ∧
    meets 3 mtxWords [0x14] (fun s c => engine s c && !s.mxBusy c.g.id) = true ∧
    ready mnormDone 3 0x13 (unpack 0x327C6080 0x1102801C) plain noMore (fun c => engine mnormDone c && c.loopCause == 0 &&
      (mnormDone.mnormOf c.lead.hold).any (fun p => p.2.isSome)) = true := by decide +kernel

/-- Each slice stands at the instruction, and none ends a loop body that R233 forbids. -/
def inStep (c : Ctx) : Bool :=
  c.running.all (fun q => decide (q.2.point = c.lead.point) && q.2.point.inside && (decide (q.2.point.pc + 4 * c.words ≠ q.2.point.stop) ||
    (endLoops q.2.point.head q.2.point.stop q.2.deferred.length q.2.loops).isSome))

def last (c : Ctx) : Bool := c.running.all (fun q => q.2.point.pc + 4 * c.words == q.2.point.stop)

/-- A clause's only word, with no loop and as the last of a body with two more turns, and a word with another behind it. -/
theorem witness_goesOn : meetsAt 0 0x203C4146 0 id plain noMore (fun _ c => inStep c && last c && !c.resumed) = true ∧
    meetsAt 0 0x203C4146 0 (withS (fun x => { x with loops := [⟨x.point.head, x.point.head, x.point.stop, 2, 0⟩] })) plain noMore
      (fun _ c => inStep c && last c && (endLoops c.lead.point.head c.lead.point.stop 0 c.lead.loops).any (fun p => p.1 != [])) = true ∧
    meetsAt 0 0x203C4146 0 (withS (fun x => { x with point := { x.point with stop := x.point.stop + 4 } })) plain noMore
      (fun _ c => inStep c && !last c && c.lead.hold == .none) = true := by decide +kernel

/-- SIGCHK of the signature that a gang starts with (R225, R350): VALUE 0xFFFF_FFFF. -/
theorem witness_NoRegisterEffect : meets 0 vecWords [0] always = true ∧ meets 5 ctlWords [3, 0x0A] always = true ∧
    meets 5 ctlWords [0x0B] (fun _ c => (List.range 6).all (fun j => decide (c.g.getK j ≤ modF c.f 11 6))) = true ∧
    meetsAt 5 0x317C0000 0x10000001 (fun s => withG (fun g => { g with k := g.k.set 0 9 })
        (withS (fun x => { x with hold := .kwait 0 0 }) s)) plain noMore (fun _ c => c.lead.hold == .kwait 0 0 && c.g.getK 0 == 9) = true ∧
    meetsAt 5 0x339FFFFF 0x10003FFF id plain noMore
      (fun _ c => c.aid.slice.isNone && c.g.signature.toNat == sigValue c.f) = true := by decide +kernel

/-- A parted gang of which slice 0 is in its handler and slice 7 is to issue. -/
def barredAt (s : State) : State :=
  { (withG (fun g => { g with whole := false, trapState := some ⟨false, 1, [], 0, ⟨0x16, 4, 1, 0, 0⟩⟩ }) s) with
    issuing := some ⟨3, some 7⟩ }

theorem witness_UnassignedOpcodes : meets 0 vecWords [0x0D] always = true ∧
    (vecWords.any (fun p => (opField p.1).toNat == 0x7F && (look (probe 0 p.1 p.2.1) 0 0x7F (unpack p.1 p.2.1)).any (fun c =>
      !c.resumed && !(probe 0 p.1 p.2.1).accepted c.lead.hold))) = true ∧
    ((look (barredAt (probe 0 0x21BC0000 0)) 0 0x0D (unpack 0x21BC0000 0)).any (fun c => c.barred && c.deferred.isNone)) = true := by
  decide +kernel

/-- BRA to its own clause header at 0, unguarded, and guarded by p2 or by its negation, p2 true in lanes 0, 4, 8, …. -/
def branchReady (s : State) (c : Ctx) : Bool :=
  let b := s.begun c.aid
  (c.braTarget b).isNone && (b.code c.blk.part c.words18).isSome
def branchTaken (s : State) (c : Ctx) : Bool :=
  branchReady s c && c.running.all (fun q => decide (q.2.active &&& c.exec ≠ 0) && !c.overflows q.2 && !(c.branch q.2).2)

/-- Some slices take it, and the others end no loop body behind it. -/
def branchSplit (s : State) (c : Ctx) : Bool :=
  branchReady s c && c.running.all (fun q => !c.overflows q.2 && !(c.branch q.2).2 &&
    (decide (q.2.active &&& c.exec ≠ 0) || q.2.loops == []))

def someP2 : State → State := withG (fun g => { g with p := mapSet g.p 2 0x11111111 })

theorem witness_Branches : meetsAt 5 0x203FFFFF 0 id plain noMore branchTaken = true ∧
    meetsAt 5 0x302BFFFF 0x10000003 someP2 plain noMore (fun s c => branchTaken s c && c.exec == 0x11111111) = true ∧
    meetsAt 5 0x302BFFFF 0x50000003 id plain noMore (fun s c => branchTaken s c && c.exec == 0xFFFFFFFF) = true ∧
    meetsAt 5 0x302BFFFF 0x10000003 id plain noMore (fun s c => branchSplit s c && c.exec == 0) = true ∧
    meetsAt 5 0x302BFFFF 0x10000003 (withG (fun g => { g with p := mapSet g.p 2 0xF })) plain noMore
      (fun s c => branchSplit s c && c.exec == 0xF && c.running.length == 8) = true := by decide +kernel

/-- A jump table of two entries at 0x200: both go to a PAD of label 0x41 at 0x100 (R59, R227 to R229). -/
def withTable (s : State) : State :=
  withMem 0x208 8 (0x41 * 2 ^ 48 + (2 ^ 48 - 66)) (withMem 0x200 8 (0x41 * 2 ^ 48 + (2 ^ 48 - 64))
    (withMem 0x104 4 0x007C0041 (withMem 0x100 4 0xD3000051 (withD 6 (fun _ => 0x200) (withD 5 (fun l => l / 4 % 2) s)))))

def entryOk (c : Ctx) (s : State) (call : Bool) (e : Entry8) : Bool :=
  let x := Span.mk e.slice false false 8 0 [(e.addr, 8)]
  let w := (c.readEntry s e).1
  let tgt := entryTarget e.addr w
  decide (e.index < c.bound) && (x.fails c.hdr 0).isNone && (x.fails c.hdr 1).isNone && (x.fails c.hdr 2).isNone &&
  (c.spanXlat s x).isNone && !s.entryWaits c.g c.aid.slice e.addr && (c.given e).isNone && !(c.readEntry s e).2 && !s.badTarget c.blk.part c.hdr tgt && (s.code c.blk.part tgt).isSome &&
  (s.code c.blk.part (tgt + 4)).isSome && s.headerCause c.blk.part c.hdr tgt == 0 &&
  s.padAt c.blk.part tgt == (true, entryLabel w) && (!call || decide (e.x.calls.length < 8)) && !(c.through call e.x tgt).2

theorem witness_TableBranches : ([(0x305C0146, false), (0x30BC0146, true)] : List (Word × Bool)).all (fun p =>
    meetsAt 5 p.1 0x10000004 withTable plain noMore (fun s c =>
      let b := s.begun c.aid
      !b.fenced c.g.id c.aid.slice && c.entries.length == 8 && c.entries.all (entryOk c b p.2))) = true := by decide +kernel

/-- In a call, with no loop. -/
def inCall : State → State := withS (fun x => { x with calls := [⟨⟨4, true, 5, 0, 8⟩, 0, 0, 0⟩] })

/-- In that call one lane of each slice runs, and one waits in an entry: for its own part, or at the join. -/
def splitCall (arrived : Bool) (s : State) : State :=
  withS (fun x => { x with
    active := x.active &&& 0x11111111
    deferred := [⟨x.active &&& 0x22222222, ⟨4, true, 5, 0, 8⟩, 0x20, if arrived then x.active &&& 0x22222222 else 0, arrived⟩] })
    (inCall s)

/-- LOOP whose last clause is the NOP clause that follows it, once with a count and once with none (R232). -/
def loopReady (s : State) (c : Ctx) : Bool :=
  let b := s.begun c.aid
  (c.badTargetTrap b c.words18 c.act).isNone && (b.code c.blk.part c.words18).isSome && c.loopCause4 b == 0
def withNop (s : State) : State := withMem 0x10 4 0 (withMem 0x0C 4 0xD3000001 s)

theorem witness_CallReturnLoop :
    meetsAt 5 0x209FFFFF 0 id plain noMore (fun s c => (c.badTargetTrap (s.begun c.aid) c.words18 c.act).isNone &&
      ((s.begun c.aid).code c.blk.part c.words18).isSome && c.running.all (fun q => decide (q.2.calls.length < 8))) = true ∧
    meetsAt 5 0x20DC0000 0 inCall plain noMore (fun _ c => c.running.all (fun q => decide (q.1 < c.g.nslices) && q.2.calls.length == 1 &&
      decide (q.2.active &&& ~~~c.exec = 0) && q.2.deferred == [] && q.2.loops == [])) = true ∧
    meetsAt 5 0x20C80000 0 (fun s => someP2 (inCall s)) plain noMore (fun _ c => c.exec == 0x11111111 && c.running.all (fun q =>
      q.2.calls != [] && decide (q.2.active &&& ~~~c.exec ≠ 0) && q.2.loops == [])) = true ∧
    ([false, true] : List Bool).all (fun arrived => meetsAt 5 0x20DC0000 0 (splitCall arrived) plain noMore (fun _ c =>
      c.running.all (fun q => decide (q.1 < c.g.nslices) && decide (q.2.active &&& ~~~c.exec = 0) && q.2.loops == [] &&
        (match q.2.calls, q.2.deferred with
         | [e], [d] => decide (e.dd < 1) && decide ((if d.arrived then d.taken else d.mask) ≠ 0)
         | _, _ => false)))) = true ∧
    meetsAt 5 0x30FC0002 0x10000003 withNop plain noMore (fun s c => loopReady s c && c.loopCount == 3) = true ∧
    meetsAt 5 0x30FC0002 0x10000000 withNop plain noMore (fun s c => loopReady s c && c.loopCount == 0) = true := by
  decide +kernel

theorem witness_LanesExit :
    meetsAt 5 0x211C0000 0 id plain Ctx.pixelReg (fun _ c => c.running.all (fun q => q.2.loops == [])) = true ∧
    meetsAt 5 0x20DC0000 0 id plain Ctx.pixelReg (fun _ c => c.running.all (fun q => q.2.calls == [] && q.2.loops == [])) = true := by
  decide +kernel

/-- A parted gang of which slice 7 is to issue and the others are at the REGANG already. -/
def partedAt (s : State) : State :=
  { (withG (fun g => { g with
      whole := false
      slices := (g.slices.take 7).map (fun x => { x with hold := .regang 4 1 false }) ++ g.slices.drop 7 }) s) with
    issuing := some ⟨3, some 7⟩ }

/-- The same where slice 3 waits at another address. -/
def partedApart (s : State) : State :=
  withG (fun g => { g with
    slices := ((List.range 8).zip g.slices).map (fun p => if p.1 = 3 then { p.2 with hold := .regang 64 1 true } else p.2) }) (partedAt s)

/-- Each live slice but 7 waits at a REGANG, at one that `p` accepts. -/
def othersAt (c : Ctx) (p : Nat → Bool) : Bool :=
  c.aid.slice == some 7 && !c.g.whole && c.g.liveSlices.contains 7 && c.g.liveSlices.all (fun j => j == 7 ||
    (c.g.slice? j).any (fun x => match x.hold with
      | .regang pc _ _ => p pc
      | _ => false))

theorem witness_RejoiningApart : meetsAt 5 0x213C0000 0 partedApart plain noMore (fun _ c => othersAt c (fun _ => true) &&
    !othersAt c (fun pc => pc == c.pc)) = true := by decide +kernel

theorem witness_Rejoining : meetsAt 5 0x213C0000 0 id plain noMore (fun _ c => c.aid.slice.isNone) = true ∧
    meetsAt 5 0x213C0000 0 partedAt plain noMore (fun _ c => c.aid.slice == some 7 && !c.g.whole && c.g.liveSlices.contains 7 &&
      c.g.liveSlices.all (fun j => j == 7 || (c.g.slice? j).any (fun x => decide (x.hold = .regang c.pc 1 false)))) = true := by
  decide +kernel

/-- A barrier at offset 32 of the scratchpad, phase 5 with one arrival awaited, named by d5; d6 holds 4. -/
def withBar (s : State) : State :=
  withB (fun b => b.setBar 32 ⟨0, 0, 1, 0, false, 0, 5, 0⟩) (withD 6 (fun _ => 4) (withD 5 (fun _ => scratchBase + 32) s))

def names (s : State) (c : Ctx) (o : Nat) : Bool :=
  (s.block? c.g.block).isSome && c.any && (c.A c.low).toNat == scratchBase + o && o % 16 == 0 && decide (o + 16 ≤ c.hdr.scratch) &&
  decide (c.hdr.scratch ≤ 2 ^ 32)
def barNow (s : State) (c : Ctx) (o : Nat) : Bar := ((s.block? c.g.block).map (·.bar o)).getD ⟨0, 0, 0, 0, false, 0, 0, 0⟩
def quiet (s : State) (c : Ctx) : Bool :=
  c.aid.slice.isNone && (s.begun c.aid).released c.g.id s.fresh none c.g.block c.wing 1

/-- An offset, an object's last place in the scratchpad, and each instruction that names a barrier; BARINIT in both forms. -/
theorem witness_Barriers :
    meetsAt 5 0x321C0140 0x10000004 withBar (fun c => modBit c.f 6 && (c.f.bq || c.any) && decide (2 ^ c.hdr.gangs ≤ c.B32)) noMore
      (fun s c => names s c 32) = true ∧
    meetsAt 5 0x321C0147 0x10000040 (withD 5 (fun _ => scratchBase + 65520))
      (fun c => modBit c.f 6 && (c.f.bq || c.any) && decide (2 ^ c.hdr.gangs ≤ c.B32)) noMore (fun s c => names s c 65520) = true ∧
    meetsAt 5 0x227C0146 0 withBar (fun c => (c.f.bq || c.any) && decide (2 ^ 36 ≤ (c.B c.low).toNat)) noMore
      (fun s c => names s c 32) = true ∧
    meetsAt 5 0x223C0140 0 withBar plain noMore (fun s c => names s c 32 && quiet s c) = true ∧
    meetsAt 5 0x225C0146 0 withBar plain noMore (fun s c => names s c 32 && (barNow s c 32).passed (c.B32 % 4096)) = true ∧
    meetsAt 5 0x229C0140 0 withBar plain noMore (fun s c => names s c 32 && quiet s c && decide (c.lead.hold = .none) &&
      ((barNow s c 32).arrival c.g.index).passed (barNow s c 32).phase) = true := by decide +kernel

/-- Slice 7 of a parted gang comes to the barrier; `l` is the gang's record of arrivals. -/
def sliceAt (l : List Arrival) (s : State) : State :=
  { (withG (fun g => { g with whole := false, arrivals := l }) (withBar s)) with issuing := some ⟨3, some 7⟩ }

def sliceReady (s : State) (c : Ctx) : Bool :=
  c.aid.slice == some 7 && c.g.liveSlices.contains 7 && names s c 32 && decide (c.lead.hold = .none) &&
  (s.begun c.aid).released c.g.id s.fresh (some 7) c.g.block c.wing 1 && decide ((c.g.arrivals.map (·.off)).Nodup) &&
  c.g.arrivals.all (fun a => a.off == 32 || !c.g.allArrived a)

/-- The record that all have made is still to take effect. -/
theorem witness_HeldBehind :
    ([(0x321C0140, 0x10000004), (0x227C0146, 0), (0x223C0140, 0), (0x225C0146, 0), (0x229C0140, 0)] : List (Word × Word)).all (fun p =>
      meetsAt 5 p.1 p.2 (sliceAt [⟨32, 0xFF⟩]) plain noMore (fun s c => names s c 32 && c.g.recordDue 32 && decide (c.lead.hold = .none))) =
      true ∧
    meetsAt 5 0x225C0146 0 (fun s => withS (fun x => { x with hold := .barwait 32 4 }) (withBar s)) plain noMore (fun s c =>
      decide (c.lead.hold = .barwait 32 4) && (barNow s c 32).passed 4 && !c.g.recordDue 32) = true := by decide +kernel

/-- No record yet; all the others have arrived; four records of other addresses. -/
theorem witness_SliceArrivals : ([0x223C0140, 0x229C0140] : List Word).all (fun w =>
    meetsAt 5 w 0 (sliceAt []) plain noMore (fun s c => sliceReady s c && !c.g.allArrived ⟨32, 0x80⟩) &&
    meetsAt 5 w 0 (sliceAt [⟨32, 0x7F⟩]) plain noMore (fun s c => sliceReady s c && c.g.allArrived ⟨32, 0xFF⟩ &&
      (s.begun c.aid).endedDone c.g) &&
    meetsAt 5 w 0 (sliceAt [⟨48, 1⟩, ⟨64, 1⟩, ⟨80, 1⟩, ⟨96, 1⟩]) plain noMore (fun s c => sliceReady s c)) = true := by decide +kernel

theorem witness_PhaseCompletion : ([⟨1, 0, 1, 0, true, 0, 4095, 0⟩, ⟨3, 0, 2, 0, true, 0, 7, 0⟩, ⟨1, 0, 1, 0, true, 0, 7, 8⟩] : List Bar).map
    (fun b => (decide (b.arrive < 63), decide (b.expect ≤ b.arrive + 1 ∧ b.pend = 0),
      decide (b.arrive + 1 < b.expect ∨ b.pend ≠ 0))) = [(true, true, false), (true, false, true), (true, false, true)] := by
  decide +kernel

/-- C + 1 ≤ n + P for each neighbour that counts. -/
def paceIn (s : State) (c : Ctx) : Bool :=
  (neighbours c.hdr c.blk.number).any (fun p => [p.1, p.2].all (fun b => (s.pacerOf c.blk.launch b).all (fun n =>
    decide ((((s.block? c.g.block).map (·.pacer)).getD 0) + 1 ≤ n + c.hdr.paceallow))))

/-- A wing cohort of three blocks, of which this is the first and no other has been placed. -/
def cohort : State → State := withH (fun h => { h with wingco := 3, paceallow := 1, gridx := 3 })

theorem witness_Pacing :
    meetsAt 5 0x231C0000 0 cohort plain noMore (fun s c => c.any && (s.block? c.g.block).isSome && paceIn s c) = true ∧
    meetsAt 5 0x231C0000 0 (fun s => withB (fun b => { b with pacer := 1 }) ((cohort s).modLaunch 1 (fun l => { l with total := 3 }))) plain
      noMore (fun s c => c.any && (s.block? c.g.block).isSome && !paceIn s c && (neighbours c.hdr c.blk.number).isSome) = true ∧
    meetsAt 5 0x231C0000 0 id plain noMore (fun s c => c.any && (s.block? c.g.block).isSome && (neighbours c.hdr c.blk.number).isNone) = true ∧
    meetsAt 5 0x231C0000 0 (withH (fun h => { h with wingco := 1, paceallow := 1 })) plain noMore (fun s c => c.any &&
      (s.block? c.g.block).isSome && (neighbours c.hdr c.blk.number).isNone && c.hdr.paced) = true ∧
    meetsAt 5 0x333C5000 0x10000003 cohort plain noMore (fun _ c => (neighbours c.hdr c.blk.number).isSome) = true ∧
    meets 5 ctlWords [0x19] (fun _ c => (neighbours c.hdr c.blk.number).isNone) = true := by decide +kernel

/-! ### Memory, engines, views and records -/

def isAt : Loc → Bool
  | .at_ _ => true
  | _ => false
def isStack : Loc → Bool
  | .at_ (.stack _) => true
  | _ => false

def unfenced (s : State) (c : Ctx) : Bool := !(s.begun c.aid).fenced c.g.id c.aid.slice

/-- Every executing lane of an access lies at a good place, and a store's at none on the stack. -/
def placedAt (x : Ctx → Access) (s : State) (c : Ctx) : Bool :=
  let b := s.begun c.aid
  c.any && s.fl.ops.all (fun o => decide (o.id < s.fresh)) && !b.fenced c.g.id c.aid.slice &&
  (stepOne c.hdr ((x c).perm == 2 || (x c).agent) (x c).bytes (x c).bytes ((lanesOf c.exec).map (fun l => (l, (x c).addr l)))).isNone &&
  (lanesOf c.exec).all (fun l => isAt (c.locate b (x c) l) && !((x c).kind == .store && isStack (c.locate b (x c) l)))

/-- An address of each lane's own: in global memory, in the scratchpad, on the stack. -/
def spread (base step : Nat) : State → State := fun s => withH (fun h => { h with stackb := 64 }) (withD 5 (fun l => base + step * l) s)

theorem witness_AccessesIssue :
    (([0x4000, scratchBase + 0x100, 0xFFF8000000000000] : List Nat).all (fun a =>
      meetsAt 2 0x303C4140 0x18000000 (spread a (if a < 0xFFF8000000000000 then 8 else 0)) plain noMore (placedAt ldAccess))) = true ∧
    (([0x4000, scratchBase + 0x100] : List Nat).all (fun a =>
      meetsAt 2 0x305C0146 0x10007000 (spread a 4) plain noMore (placedAt stAccess))) = true ∧
    meetsAt 2 0x305C0146 0x20007000 (spread 0x4000 16) plain noMore (placedAt stAccess) = true ∧
    (([0x4000, scratchBase + 0x100] : List Nat).all (fun a =>
      meetsAt 2 0x309C4146 0x10000900 (spread a 4) plain noMore (placedAt (fun c => atomAccess c true)) &&
      meetsAt 2 0x30BC0146 0x10007200 (spread a 4) plain noMore (placedAt (fun c => atomAccess c false)))) = true := by
  decide +kernel

/-- ST whose lanes' elements lie on their stacks, in the middle and at the end of them. -/
theorem witness_StoresOnStack : ([0, 60] : List Nat).all (fun o => meetsAt 2 0x305C0146 0x10007000
    (spread (0xFFF8000000000000 + o) 0) plain noMore (fun s c => c.any && s.fl.ops.all (fun o => decide (o.id < s.fresh)) && unfenced s c &&
      (lanesOf c.exec).all (fun l => decide ((stAccess c).addr l % 4 = 0) && (match spaceOf ((stAccess c).addr l) with
        | .stack o => decide (o + 4 ≤ c.hdr.stackb)
        | _ => false)))) = true := by decide +kernel

theorem witness_UniformLoadIssues : meets 1 uniWords [0x30] (fun s c =>
    let b := s.begun c.aid
    let a := wrap 64 ((c.A 0).toNat + sext 11 (modF c.f 10 0))
    s.fl.ops.all (fun o => decide (o.id < s.fresh)) && !b.fenced c.g.id c.aid.slice &&
    (stepOne c.hdr true (bytesOf c.f) (bytesOf c.f) [(0, a)]).isNone &&
    (match b.translate c.blk.part a 0 with
     | .ok _ _ => true
     | _ => false)) = true := by decide +kernel

theorem witness_FencesAndCache : meets 2 memWords [6, 7] unfenced = true ∧ meets 6 sysWords [6] unfenced = true ∧
    meetsAt 2 0x311C0146 0x10007001 (fun s => withD 6 (fun _ => 256) (withD 5 (fun _ => 2 ^ 56 - 256) s)) plain noMore (fun s c =>
      unfenced s c && c.any && decide ((c.A c.low).toNat + elem 32 0 (c.B c.low) ≤ 2 ^ 56) && decide ((c.A c.low).toNat < 2 ^ 56)) = true := by
  decide +kernel

/-- A copy from 0x2000 to the scratchpad, with and without a barrier at offset 32. -/
def copyRegs (n : Nat) (s : State) : State :=
  withQ 7 (scratchBase + 32) (withQ 4 n (withQ 3 (scratchBase + 0x100) (withQ 2 0x2000 s)))


theorem witness_Batches :
    meets 2 memWords [0x12] (fun s c => unfenced s c && !s.sealFull c.g) = true ∧
    meets 2 memWords [0x13] (fun s c => unfenced s c && c.g.fails.all (·.told) &&
      !s.batchesOpen c.g.id (if modBit c.f 0 then c.g.sealedN else min (c.A 0).toNat c.g.sealedN)) = true := by decide +kernel

/-- Context 3 of wing 0, granted to partition 0, with two operations submitted and both over. -/
def withContext (s : State) : State := { s with fl := { s.fl with ctxs := [⟨0, 3, 0, 3, 2, 2, 0, 0, 0, []⟩] } }

theorem witness_Streams : ([(0x345C0140, 0x14000003), (0x347C0140, 0x14000003), (0x341C0140, 0x10000003), (0x343C5000, 0x10000003),
      (0x343C5000, 0x10000043), (0x343C5000, 0x10000083)] : List (Word × Word)).all (fun p =>
    meetsAt 2 p.1 p.2 withContext plain noMore (fun s c => c.any && unfenced s c &&
      (s.ctxOf c.wing (modF c.f 5 0) c.blk.part).any (fun x => decide ((x.ops.filter (fun o => !o.done)).length < 64) &&
        decide (min (c.A 0).toNat x.sub ≤ x.time)) && decide (c.lead.hold = .none) &&
      (stepOne c.hdr true 64 64 [(0, (c.A c.low).toNat)]).isNone &&
      (match (s.begun c.aid).translate c.blk.part (c.A c.low).toNat 0 with
       | .ok _ _ => true
       | _ => false))) = true := by decide +kernel

/-- An MTX instruction that the engine can take. -/
def takes (cause : Ctx → Nat) (fence : Bool) (spans : Ctx → List Span) (n : Ctx → Nat) (s : State) (c : Ctx) : Bool :=
  let b := s.begun c.aid
  engine s c && cause c == 0 && c.any && (!fence || unfenced s c) && (c.spanCheck b (spans c)).isNone &&
  (spans c).all (fun x => (c.spanXlat b x).isNone) && b.mxRoom c.blk.cluster (n c)

def noSpans (_ : Ctx) : List Span := []
def noCause (_ : Ctx) : Nat := 0


/-- Addresses of a camera and a cut. -/
def viewRegs (s : State) : State :=
  withD 3 (fun _ => 0x2000) (withD 2 (fun l => 0x1000 + 128 * l) (withQ 3 0x2000 (withQ 2 0x1000 s)))
def oneLevel : State → State := withH (fun h => { h with nestlim := 1, levels := [(4, 8), (0, 0), (0, 0)] })

/-- With no level of views, and with one that has slots. -/
theorem witness_ViewsIssue : ([viewRegs, fun s => oneLevel (viewRegs s)] : List (State → State)).all (fun m =>
    ([(0x303C8083, 0x16001020, false), (0x305C8083, 0x10001100, true)] : List (Word × Word × Bool)).all (fun p =>
      meetsAt 4 p.1 p.2.1 m plain noMore (fun s c => c.any && unfenced s c &&
        (if p.2.2 then lanesOf c.exec else [c.low]).all (fun l => ([((c.A l).toNat, 128), ((c.B l).toNat, 256)] : List (Nat × Nat)).all
          (fun x => decide (x.1 < 2 ^ 56) && x.1 % x.2 == 0))))) = true := by decide +kernel

/-- A node with a pool of 64 records of 64 bytes at 0x8000 and one edge, and its record-fed consumer. -/
def node0 : Node :=
  { launchAddr := 0, npred := 0, succ := [1], heat := 0, timeout := 0, poolBase := 0x8000, rsize := 64, pooln := 64
    edges := [1, 0xFFFF, 0xFFFF, 0xFFFF, 0xFFFF, 0xFFFF, 0xFFFF, 0xFFFF], region0 := 0, size0 := 0, region1 := 0, size1 := 0, hdr := none, state := .released
    recs := (List.range 32).map (fun i => (0x8000 + 64 * i, .allocated 2))
    free := (List.range 32).map (fun i => 0x8800 + 64 * i), open_ := [], deadline := none, seq := 0, grants := [], heatsLive := 0 }
def node1 : Node :=
  { node0 with launchAddr := 0x400, npred := 1, succ := [], heat := 40, timeout := 1000, poolBase := 0, rsize := 0, pooln := 0
               edges := List.replicate 8 0xFFFF, hdr := some probeHdr, state := .waiting, recs := [], free := [] }
def graph9 (n0 n1 : Node) : Graph :=
  { id := 9, part := 0, tag := 0, prio := 0, irq := false, vector := 0, compl := 0, nodes := [n0, n1], failure := none, reserve := none
    done := false }

/-- The block runs for node 0 of the graph; d5 names the records that its lanes have. -/
def inGraph (n0 n1 : Node) (s : State) : State :=
  { (withD 5 (fun l => 0x8000 + 64 * l) (s.modLaunch 1 (fun l => { l with node := some (9, 0) }))) with graphs := [graph9 n0 n1] }

theorem witness_RecordsAllocated : ([node0, { node0 with free := [] }] : List Node).all (fun n =>
    meetsAt 4 0x321C5000 0x10001000 (inGraph n node1) plain noMore (fun s c => c.any && c.g.outst.all (fun o => decide (o.op ≠ c.tag)) &&
      (c.pool (s.begun c.aid)).any (fun p => p.2.grants == [] && decide ((lanesOf c.exec).length ≤ p.2.pooln)))) = true := by
  decide +kernel

/-- The open heat of NDLAUNCH, and none. -/
def node1Open : Node := { node1 with open_ := [0x8700], deadline := some 5, recs := [] }

theorem witness_RecordsMoved :
    meetsAt 4 0x323C0140 0x10000000 (inGraph node0 node1) plain noMore (fun s c => c.any &&
      (s.graph? 9).any (fun g => !g.doomed 1 && (g.node? 1).any (fun nd => !nd.state.over &&
        decide (nd.open_.length + c.names.length < nd.heat))) &&
      c.consumer (s.begun c.aid) (modF c.f 2 0) == some (9, 1) &&
      c.badRecs (fun a => (s.begun c.aid).recIs 9 a (· == .allocated c.g.block)) == [] &&
      (s.begun c.aid).released c.g.id s.fresh c.aid.slice c.g.block c.wing 4) = true ∧
    meetsAt 4 0x225C0140 0 (inGraph node0 node1) plain noMore (fun s c => c.any && (s.begun c.aid).nodeOf c.g == some (9, 0) &&
      (s.graph? 9).any (fun g => g.nodes.all (fun n => n.grants == [])) &&
      c.badRecs (fun a => (s.begun c.aid).recIs 9 a (fun r => r == .allocated c.g.block || r == .delivered c.g.block)) == []) = true ∧
    ([node1Open, node1] : List Node).map (fun n => meetsAt 4 0x327C0000 0x10000000 (inGraph node0 n) plain noMore (fun s c => c.any &&
      c.consumer (s.begun c.aid) (modF c.f 2 0) == some (9, 1) && (s.graph? 9).any (fun g => !g.doomed 1) && n.hdr.isSome &&
      n.open_ != [])) = [true, false] ∧
    meetsAt 4 0x327C0000 0x10000000 (inGraph node0 node1) plain noMore (fun s c => c.any &&
      c.consumer (s.begun c.aid) (modF c.f 2 0) == some (9, 1) && (s.graph? 9).any (fun g => (g.node? 1).any (fun nd => nd.open_ == []))) =
      true := by decide +kernel

/-! ### Traps -/

def vec100 : State → State := withH (fun h => { h with trapvec := 0x100 })

/-- The gang has trapped at its BRK and is about to issue the handler's TRET. -/
def inHandler (e : Word) : State :=
  again (withS (fun x => { x with point := ⟨0x104, true, 6, 0x100, 0x10C⟩ })
    (withMem 0x108 4 e.toNat (withMem 0x104 4 0x30BC0000 (withMem 0x100 4 0xD3000062 (ran (vec100 (probe 6 0x305C0000 0x100002AA)))))))

theorem witness_SupervisorCalls : meets 6 sysWords [1] (fun _ c => c.running.all (fun q => q.2.loops == [])) = true := by
  decide +kernel

theorem witness_TrapEntersHandler : ((vec100 (probe 6 0x205C0000 0)).gang? 3).any (fun g =>
    g.trapState.isNone && (vec100 (probe 6 0x205C0000 0)).vector g == 0x100) = true := by decide +kernel

/-- No vector; a class that always escalates; a trap in the handler; a slice that is not the handler's. -/
theorem witness_TrapEscalates : ((probe 6 0x205C0000 0).gang? 3).any (fun g => g.trapState.isNone && g.kind == .plain &&
      (probe 6 0x205C0000 0).vector g == 0) = true ∧
    ((inHandler 0x10000000).gang? 3).any (fun g => g.kind == .plain && g.trapState.any (fun ts => ts.has none)) = true ∧
    ((withG (fun g => { g with whole := false, trapState := g.trapState.map (fun ts => { ts with members := 1 }) })
      (inHandler 0x10000000)).gang? 3).any (fun g => g.kind == .plain && g.trapState.any (fun ts => ts.has (some 0) && !ts.has (some 1))) =
      true := by decide +kernel

/-- In the handler, every slice's lane that ran when the trap came has died; another waits for a join. -/
def lostIn (arrived : Bool) : State :=
  withG (fun g => { g with
    dead := 0x11111111
    slices := g.slices.map (fun x => { x with active := x.active &&& ~~~0x11111111 })
    trapState := g.trapState.map (fun ts => { ts with slices := ts.slices.map (fun p => (p.1, { p.2 with
      active := p.2.active &&& 0x11111111
      deferred := [⟨p.2.active &&& 0x22222222, ⟨4, true, 6, 0, 12⟩, 0x20, if arrived then p.2.active &&& 0x22222222 else 0,
        arrived⟩] })) }) }) (inHandler 0x10000000)

theorem witness_HandlerReturns : ([(0x10000000, false), (0x10000001, true)] : List (Word × Bool)).all (fun p =>
    ready (inHandler p.1) 6 5 (unpack 0x30BC0000 p.1) (fun c => c.badTret p.2) noMore (fun c => c.aid.slice.isNone &&
      c.g.trapState.any (fun ts => c.g.liveSlices.all (fun i => bitAt ts.members i) && (!p.2 || !ts.wordless) &&
        decide ((ts.slices.map (·.1)).Nodup) && ts.slices.all (fun q => (c.g.slice? q.1).isSome)))) = true ∧
    ([false, true] : List Bool).all (fun arrived =>
      ready (lostIn arrived) 6 5 (unpack 0x30BC0000 0x10000000) (fun c => c.badTret false) noMore (fun c => c.aid.slice.isNone &&
        c.g.trapState.any (fun ts => c.g.liveSlices.all (fun i => bitAt ts.members i) && decide ((ts.slices.map (·.1)).Nodup) &&
          ts.slices.length == 8 && ts.slices.all (fun q => (c.g.slice? q.1).isSome && decide (q.1 < c.g.nslices) &&
            q.2.active &&& ~~~(c.g.exited ||| c.g.dead) == 0 && q.2.calls == [] && q.2.loops == [] &&
            q.2.deferred.any (fun d => (if d.arrived then d.taken else d.mask) &&& ~~~(c.g.exited ||| c.g.dead) != 0))))) = true := by
  decide +kernel

def noEngine : State → State := withH (fun h => { h with nomatrix := true })
def lostEngine : State → State := withB (fun b => { b with engineLost := true })

theorem witness_InstructionTraps : meets 6 sysWords [2] (fun _ c => !c.barred) = true ∧
    meetsAt 6 0x305C0000 0x100002AA barredAt plain noMore (fun _ c => c.barred && c.any) = true ∧
    meetsAt 6 0x309C01C0 0x10000021 id plain noMore (fun _ c => c.any && modF c.f 7 0 == 0x21) = true ∧
    meets 5 ctlWords [0x1C] (fun _ c => c.aid.slice.isNone && c.g.signature.toNat != sigValue c.f) = true ∧
    ([1, 2, 3, 4, 5, 6, 7, 0x10, 0x11, 0x12, 0x13, 0x14] : List Nat).all (fun op => mtxWords.any (fun p => (opField p.1).toNat == op &&
      meetsAt 3 p.1 p.2.1 noEngine plain noMore (fun _ c => !c.barred && c.hdr.nomatrix && (!c.f.bq || decide ((c.B 0).toNat < 2 ^ 16))) &&
      meetsAt 3 p.1 p.2.1 lostEngine plain noMore (fun _ c => !c.barred && !c.hdr.nomatrix && c.blk.engineLost &&
        (!c.f.bq || decide ((c.B 0).toNat < 2 ^ 16))))) = true := by decide +kernel

/-- Some lanes outside every aperture; all inside with some not aligned. -/
theorem witness_AccessTraps : ([(fun l => if l % 2 = 0 then 0x4000 else 2 ^ 57), (fun l => 0x4000 + l)] : List (Nat → Nat)).map (fun v =>
    meetsAt 2 0x303C4140 0x18000000 (withD 5 v) plain noMore (fun s c => unfenced s c && !c.barred &&
      (lanesOf c.exec).any (fun l => addrCause c.hdr false (c.A l).toNat (bytesOf c.f) != 0))) = [true, false] ∧
    meetsAt 2 0x303C4140 0x18000000 (withD 5 (fun l => 0x4000 + l)) plain noMore (fun s c => unfenced s c &&
      (lanesOf c.exec).any (fun l => (c.A l).toNat % bytesOf c.f != 0)) = true := by decide +kernel

theorem witness_CopiesIssue :
    (([(0x321C00C2, 0x17020000), (0x321C70C2, 0x17024000)] : List (Word × Word)).all (fun p =>
      meetsAt 2 p.1 p.2 (copyRegs 64) plain noMore (fun s c => c.any && unfenced s c &&
        (c.copyCheck (s.begun c.aid) (cpaReq c) (if immOf c.f then some (c.D 0).toNat else none)).isNone &&
        decide ((s.fl.copies.filter (fun x => x.cluster == c.blk.cluster)).length < 128)))) = true ∧
    (([(0x323C00C2, 0x17020000), (0x323C00C2, 0x17022800)] : List (Word × Word)).all (fun p =>
      meetsAt 2 p.1 p.2 (copyRegs (32 + 2 ^ 16 * 8 + 2 ^ 32 * 64)) (fun c => c.any && modBit c.f 13 &&
          decide (modF c.f 12 9 < 12) && (shapeOf (c.C c.low)).badPlaned (modF c.f 12 9) (c.A c.low).toNat) noMore (fun s c =>
        c.any && unfenced s c && (!modBit c.f 13 || decide (modF c.f 12 9 < 12)) &&
        (c.copyCheck (s.begun c.aid) (cptReq c) (if immOf c.f then some (c.D 0).toNat else none)).isNone))) = true := by
  decide +kernel

/-- A's operand in d4, B's in d3 and q3, all in the scratchpad. -/
def tileRegs (s : State) : State :=
  withQ 3 (scratchBase + 0x8000) (withD 3 (fun _ => scratchBase + 0x8000) (withD 4 (fun _ => scratchBase + 0x4000) s))

/-- The pitch of a row access in d3. -/
def rowRegs (s : State) : State := withD 3 (fun _ => 256) (withD 4 (fun _ => scratchBase + 0x4000) s)

theorem witness_EngineWork :
    meetsAt 3 0x303C2103 0x13028000 tileRegs plain noMore (takes Ctx.mmaCause false Ctx.mmaSpans (fun _ => 4)) = true ∧
    meets 3 mtxWords [2] (takes noCause false noSpans (fun _ => 4)) = true ∧
    meetsAt 3 0x307C2103 0x11028001 rowRegs plain noMore
      (takes (fun c => c.fmtCause (modF c.f 3 0)) false (fun c => c.rowSpans 0) (fun _ => 4)) = true ∧
    meetsAt 3 0x309C2103 0x11028001 rowRegs plain noMore
      (takes (fun c => c.fmtCause (modF c.f 3 0)) true (fun c => c.rowSpans 1) (fun _ => 4)) = true ∧
    meets 3 mtxWords [5] (takes (fun c => c.fmtCause (modF c.f 11 8)) false noSpans (fun _ => 1)) = true ∧
    meets 3 mtxWords [6] (takes (fun c => c.fmtCause (modF c.f 3 0)) false noSpans (fun _ => 1)) = true ∧
    meetsAt 3 0x30FC0103 0x10000074 tileRegs plain noMore (takes noCause true Ctx.planeSpans (fun _ => 4)) = true ∧
    meets 3 mtxWords [0x11] (takes Ctx.loopCause false noSpans (fun _ => 8)) = true ∧
    meets 3 mtxWords [0x12] (takes Ctx.loopCause false noSpans (fun _ => 16)) = true := by decide +kernel

/-! ### Events: states in which each clause's hypotheses hold -/

/-- Lane 0 alone executes under p2. -/
def lane0 : State → State := withG (fun g => { g with p := mapSet g.p 2 1 })

/-- The lane's element of an operation, with the block and wing of its gang. -/
def eltIn (s : State) (op lane : Nat) (p : MemOp → Elt → Nat × Nat → Gang → Bool) : Bool :=
  (s.op? op).any (fun o => (o.lane? lane).any (fun e => (s.wayOf o.gang).any (fun w => (s.gang? o.gang).any (fun g => p o e w g))))

def reachable (s : State) (e : Elt) : Bool := !(e.phys?.any (s.fabricHeld 4)) && !(e.phys?.any s.gone)
def untouched (g : Gang) : Bool := g.outst.all (fun o => o.touched == 0)
def alive (g : Gang) (l : Nat) : Bool := !hasLane (g.exited ||| g.dead) l

def later (n : Nat) (s : State) : State := { s with pkg := { s.pkg with clock := s.pkg.clock + n } }

def loadOf (a : Nat) : State := later 64 (ran (spread a 8 (lane0 (probe 2 0x30284140 0x18000000))))
def storeOf (a : Nat) (e : Word) : State := ran (spread a 8 (lane0 (probe 2 0x30480146 e)))

theorem witness_loadArrives : ([0x4000, scratchBase + 0x100] : List Nat).all (fun a =>
    decide ((loadOf a).errs.poison = []) && eltIn (loadOf a) 4 0 (fun o e w g => decide (o.kind = .load false) &&
      (loadOf a).loadReady o e w.1 w.2 && reachable (loadOf a) e && !(loadOf a).dieOff w.2 && decide ((loadOf a).fl.writes = []) && (loadOf a).fl.ops.all (fun x => x.row != some true) &&
        decide ((loadOf a).mem.copies = []) && decide (o.file = .d) && untouched g && alive g e.lane)) = true := by
  decide +kernel

/-- A load of a stack has its value with it (R179). -/
def stackLoad : State := loadOf 0xFFF8000000000000

theorem witness_stackLoadArrives : eltIn stackLoad 4 0
    (fun o e w g => decide (o.kind = .load false) && stackLoad.loadReady o e w.1 w.2 && reachable stackLoad e && decide (o.file = .d) &&
      untouched g && alive g e.lane && (match e.place with
        | .stack _ => e.cmp == 0
        | _ => false)) = true := by decide +kernel

theorem witness_storePerforms :
    ([(scratchBase + 0x100, 0x10007000), (0x4000, 0x10007000), (0x4100, 0x10007600), (0x4000, 0x10007600), (0x4100, 0x10007800)] :
      List (Nat × Word)).map (fun p =>
      eltIn (storeOf p.1 p.2) 4 0 (fun o e w g => decide (o.kind = .store) && (storeOf p.1 p.2).storeReady o e w.1 w.2 &&
        reachable (storeOf p.1 p.2) e && !(storeOf p.1 p.2).dieOff w.2 && decide (g.arrivals = []) && !g.exitDue && ((match e.place with
          | .scratch _ => (storeOf p.1 p.2).block? w.1 |>.isSome
          | .phys a _ => decide (o.ord ≤ 2 ∨ 4 ≤ o.ord ∨ (o.ord = 3 ∧ (p.1 == 0x4100) = !(storeOf p.1 p.2).homedAt w.2 a))
          | .stack _ => false)))) = [true, true, true, true, true] := by decide +kernel

/-- The store has left its gang: at the port, where it goes to its home, a wing of another span or the gang's own. -/
theorem witness_writeReachesHome : let s := after (.storePerformed 4 0) (storeOf 0x4000 0x10007000)
    ((s.op? 4).isNone && (s.fl.writes.find? (fun w => w.id == 4 && w.lane == 0)).any (fun w => s.writeReady w &&
      !s.dieOff w.wing && !s.fabricHeld w.id w.addr && !s.gone w.addr)) = true := by decide +kernel

def atomicOf : State := ran (spread 0x4000 8 (lane0 (probe 2 0x30884146 0x10000900)))

theorem witness_atomicPerforms : eltIn atomicOf 4 0 (fun o e w g => decide (o.kind = .atomic 0 true) && !atomicOf.dieOff w.2 &&
    atomicOf.atomReady o e w.1 w.2 && reachable atomicOf e && o.elts.filter (fun x => x.place == e.place) == [e] &&
    (match e.place with
     | .phys a _ => a == 0x4000
     | _ => false) && decide (o.file = .d) && untouched g && alive g e.lane) = true := by decide +kernel

/-- An IADD's result, and the clock two cycles on. -/
def landed : State := let s := ran (probe 0 0x203C4146 0); { s with pkg := { s.pkg with clock := 2 } }
def specialOf : State := ran (probe 0 0x361C4140 0x10002000)

theorem witness_resultsArrive :
    (landed.gang? 3).any (fun g => g.olds.any (fun o => decide (o.lands ≤ landed.pkg.clock))) = true ∧
    (specialOf.fl.specials.find? (fun o => o.id == 4)).any (fun o => specialOf.twinReady o.gang o.at_ && (specialOf.gang? o.gang).any (fun g =>
      untouched g && o.vals.all (fun p => alive g p.1)) && decide (o.vals ≠ []) && !specialOf.dieOff 0) = true := by decide +kernel

def fenceOf : State := ran (probe 2 0x30DC0000 0x10000011)
def cctlOf : State := ran (withD 6 (fun _ => 256) (withD 5 (fun _ => 0x4000) (probe 2 0x311C0146 0x10007001)))

/-- A load of which the page is not there: its agent is parked. -/
def parkOf : State := ran (spread 0x20000 8 (lane0 (probe 2 0x30284140 0x18000000)))
def page2 : PageSpec := ⟨0x20000, 65536, 0x30000, true, true, true, 1⟩

theorem witness_OrderingEvents :
    (fenceOf.fl.fences.find? (fun f => f.id == 4)).any (fun f => fenceOf.fenceReady f && f.kind == 1) = true ∧
    (cctlOf.fl.cctls.find? (fun o => o.id == 4)).any (fun o => o.tag.all (fun t => cctlOf.twinReady o.gang t) &&
      !cctlOf.dieOff o.wing && decide (cctlOf.fl.writes = [])) = true ∧
    ((probe 2 0x30284140 0x18000000).gang? 3).any (fun g => (g.lead none).isSome && !State.reset.poisoned (.code 3 none)) = true ∧
    parkOf.fl.parks.any (fun p => (parkOf.faultPart p.id).isSome && (parkOf.park? p.id).isSome) = true ∧
    (let s := after (.faultResolve ((parkOf.fl.parks.map (·.id)).headD 0) [page2]) parkOf
     s.fl.parks.any (fun p => (s.gang? p.gang).isSome && p.ready && s.parkHeld p)) = true := by decide +kernel

def copyOf (n : Nat) (e : Word) : State := ran (copyRegs n (probe 2 (if e.getLsbD 14 then 0x321C70C2 else 0x321C00C2) e))
def copyReady (s : State) (p : Copy → Seat → Bool) : Bool :=
  (s.fl.copies.find? (fun c => c.id == 4)).any (fun c => !(s.older c.gang 4).any (fun o => o.open_ && !o.isRead) &&
    !s.errs.deadCopy.contains c.cluster && !s.dieOff (wingOf c.cluster) && !s.fabricWaits (s.seat c.block c.gang 4 true).part &&
    !s.keyHeld (s.seat c.block c.gang 4 true) (c.runs.map (fun r => (r.2.1, r.2.2))) && !s.copyAwaits c && (s.block? c.block).isSome && p c (s.seat c.block c.gang 4 true))

/-- Into the scratchpad without a barrier; nothing, with a barrier; from a page that only reads, so that it fails. -/
def copyFails : State := let s := copyOf 64 0x17020000
  { s with mem := { s.mem with pages := s.mem.pages.map (fun p => { p with spec := { p.spec with key := 5 } }) } }

theorem witness_copyCompletes :
    copyReady (copyOf 64 0x17020000) (fun c e => ((copyOf 64 0x17020000).copyReach e c).isNone && c.planed.isNone && c.rows == 0 && decide (c.src + c.bytes ≤ c.dst) &&
      ((copyOf 64 0x17020000).goneAt e [(c.src, c.bytes)] 0).isNone &&
      c.bytes == 64 && c.barrier.isNone && c.dst == scratchBase + 0x100 && decide (0x100 + c.bytes ≤ e.scratch) &&
      decide (e.scratch ≤ 2 ^ 32)) = true ∧
    copyReady (copyOf 0 0x17024000) (fun c _ => c.bytes == 0 && c.barrier == some 32) = true ∧
    copyReady copyFails (fun c e => (copyFails.copyReach e c).any (fun p => match p.2 with
      | .bad => true
      | _ => false) && (copyFails.gang? c.gang).isSome) = true := by decide +kernel

/-- A GATH of a descriptor of zeros at 0, which ends with cause 1. -/
def gathOf : State := ran (withContext (probe 2 0x345C01C0 0x14000003))

theorem witness_streamOpEnds : (gathOf.fl.ctxs.find? (fun x => x.wing == 0 && x.ctx == 3)).any (fun x => match x.ops with
    | [o] => o.num == x.time + 1 && !o.done && !o.coll && o.result.isNone && !gathOf.errs.deadStream.contains 0 && !gathOf.dieOff 0 &&
      !gathOf.fabricWaits x.part && !gathOf.streamWaits x o x.wide &&
      (gathOf.rangeReach (gathOf.seat o.block o.gang o.id false) o.desc 64 0).isNone &&
      (match (gathOf.engFill (gathOf.seat o.block o.gang o.id false) (gathOf.streamRuns x o)).gather
          (gathOf.seat o.block o.gang o.id false) o.desc o.declined with
       | .ended _ k => k == 1
       | _ => false)
    | _ => false) = true := by decide +kernel

/-- The first job of the engine's queue is ready, on band 0 of its tile. -/
def jobAt (s : State) (band : Bool) (p : MxJob → Bool) : Bool :=
  (s.job? 4).any (fun j => s.jobReady j && (s.block? j.block).isSome && (!band || decide (j.claims = [(j.tile, 0)])) && p j &&
    (s.goneAt (s.seat j.block j.gang j.id true) j.reads 0).isNone && (s.goneAt (s.seat j.block j.gang j.id true) j.writes 1).isNone &&
    (s.gang? j.gang).any (fun g => untouched g && s.twinReady j.gang j.at_ && (lanesOf j.lanes).all (alive g)))

theorem witness_matrixEntryCompletes :
    jobAt (ran (probe 3 0x305C2000 0x10000000)) true (fun j => decide (j.op = .mzero)) = true ∧
    jobAt (ran (tileRegs (probe 3 0x303C2103 0x13028000))) true (fun j => match j.op with
      | .mma .. => true
      | _ => false) = true ∧
    jobAt (ran (rowRegs (probe 3 0x307C2103 0x11028001))) true (fun j => match j.op with
      | .acld .. => true
      | _ => false) = true ∧
    jobAt (ran (probe 3 0x30DC2100 0x11028011)) true (fun j => match j.op with
      | .acwr r _ vals => decide (r < 32) && decide ((vals.map (·.1)).Nodup) && vals.all (fun p => decide (p.1 < 32))
      | _ => false) = true ∧
    jobAt (ran (probe 3 0x30BC8087 0x11029100)) true (fun j => match j.op with
      | .acrd .. => true
      | _ => false) = true := by decide +kernel

theorem witness_iterations :
    jobAt (ran (probe 3 0x323C3080 0x11028072)) false (fun j => match j.op with
      | .mpoly .. => true
      | _ => false) = true ∧
    jobAt (ran (probe 3 0x327C6080 0x1102801C)) false (fun j => match j.op with
      | .mnorm .. => true
      | _ => false) = true ∧
    jobAt (ran (probe 3 0x325C4000 0x110281C2)) false (fun j => (match j.op with
      | .miter _ _ _ _ _ _ started _ _ _ _ => !started
      | _ => false) && !(ran (probe 3 0x325C4000 0x110281C2)).saving j.block) = true := by decide +kernel

theorem witness_engineFails : (0 : Nat) < Config.clusters ∧ 191 < Config.clusters ∧ 0 ∉ State.reset.errs.badEngines ∧
    ((probe 3 0x305C2000 0x10000000).block? 2).any (fun b => ((probe 3 0x305C2000 0x10000000).engineUsers 0).contains b) = true := by
  decide +kernel

/-! Views -/

def viewOf (m : State → State) : State := ran (m (viewRegs (probe 4 0x303C8083 0x16001020)))
def someRay : Ray := ⟨0, 5, ⟨0, 0, 0⟩, ⟨0, 0, 0⟩, 0, none, 1, [], [], .ended⟩

/-- The view waits with one shading gang to start. -/
def shadeOf : State :=
  let s := viewOf oneLevel
  let views := s.fl.views.map (fun v => { v with shade := some probeHdr, toStart := [[someRay]] })
  { s with fl := { s.fl with views := views } }

theorem witness_ViewEvents :
    ((viewOf oneLevel).slotsInTurn 0).any (fun v => !v.prepared && !(viewOf oneLevel).errs.deadSketch.contains 0 && !(viewOf oneLevel).dieOff 0 &&
      (((viewOf oneLevel).acquire 0 3).viewTurn v).isSome) = true ∧
    (match shadeOf.fl.views with
     | [v] => decide (shadeOf.shadeWaiters v.launch v.level v.wing = [v]) && (shadeOf.freePlace v.launch v.level v.wing).isSome &&
       v.shade.isSome && v.toStart == [[someRay]] && decide (shadeOf.view? v.id = some v)
     | _ => false) = true ∧
    (match (later 64 (viewOf id)).fl.views with
     | [v] => ((later 64 (viewOf id)).viewDone v).any (fun w => w.id == v.id && w.gang == v.gang && w.at_ == v.at_ &&
         decide ((w.tile.map (fun p => (p.1, p.2.1))).Nodup) && w.tile.all (fun p => decide (p.2.1 < 32))) &&
       ((viewOf id).gang? v.gang).any (fun g => untouched g && g.kind == .plain)
     | _ => false) = true := by decide +kernel

/-! Easels, the ready pool, partitions, the supervisor, errors and the package -/

def runner (s : State) : Bool := s.pkg.powered && !s.pkg.halted && decide (5 ≤ s.pkg.boot)
def at_ (n : Nat) (s : State) : State := { s with pkg := { s.pkg with clock := n } }

/-- The probe's gang waits for its easel's turn, in a package whose supervisor runs. -/
def idle : State := let s := probe 0 0x203C4146 0; { s with issuing := none, pkg := { s.pkg with boot := 5 } }

/-- Eight active gangs, the first changed by `f`, all by `g`, and a ninth that is pending and ready since 0. -/
def crowd (f g : Gang → Gang) : State :=
  { idle with gangs := idle.gangs.flatMap (fun x => f (g x) :: (List.range 7).map (fun i => g { x with id := 4 + i }) ++
      [{ x with id := 11, life := .pending, readySince := some 0 }]) }

/-- An exchange for a stall; for 300 cycles of waiting; for 5000, the eight having issued ten cycles ago. -/
def stalled : State := crowd (fun g => { g with stallSince := some 0, slices := g.slices.map (fun x => { x with hold := .call 0 4 }) }) id
def promoted : State := at_ 300 (crowd id id)
def limited : State := at_ 5000 (crowd id (fun g => { g with lastIssue := 4990 }))

def swapIs (s : State) (c : Swap) : Bool := (s.swap 0).any (fun x => decide (x.1 = c) && x.2.2.id == 11)

/-- A gang alone at a BARWAIT that no arrival will end, and a twin whose two signatures agree. -/
def starving : State := withS (fun x => { x with hold := .barwait 32 5 }) (withB (fun b => b.setBar 32 ⟨0, 0, 1, 0, false, 0, 5, 0⟩) idle)
def twins : State :=
  let t : TwinSig := ⟨8, 4, 0, 0, 1, [], 0, false⟩
  { idle with gangs := idle.gangs.flatMap (fun g => [{ g with twin := [t] }, { g with id := 12, kind := .shadow 3, twin := [t] }]) }

/-- The probe's gang stands at a clause header at `a`: its cause of R78, and whether there is a header. -/
def entering (a : Nat) : Option (Nat × Bool) :=
  let s := withS (fun x => { x with point := .atHeader a }) idle
  let u := s.opened 0
  let v := if (nextIn (u.onEasel 0)).isNone then u.uncede 0 else u
  if !s.onTurn 0 || (u.swap 0).isSome then none
  else (v.chosen 0).bind (fun c => (v.gang? c.gang).bind (fun g => (g.lead c.slice).bind (fun x => (v.block? g.block).bind (fun b =>
    (v.hdrOf b).bind (fun h => if x.point.inside || (v.nextTrap g c.slice b.part h x).isSome || (v.otherCopy g).isSome || v.errs.poison != []
      then none else some (v.headerCause b.part h x.point.pc, (v.headerAt b.part x.point.pc).isSome))))))

/-- The twin's signatures differ in the data of lane 2. -/
def twinsApart : State :=
  withG (fun g => { g with twin := [⟨8, 4, 0, 0, 7, [(2, 0, 1)], 0, false⟩] }) twins

theorem witness_twinsDiffer : (twinsApart.gang? 3).any (fun g => (twinsApart.shadowOf 3).any (fun h => h.id == 12 &&
    decide (twinsApart.gang? 12 = some h) && g.trapState.isNone && h.trapState.isNone && g.kind == .plain &&
    (g.twin.find? (fun t => t.slice == 8)).any (fun a => (h.twin.find? (fun t => t.slice == 8)).any (fun b => !a.ok && !twinSame a b)))) =
      true := by decide +kernel

theorem witness_EaselEvents :
    (idle.onTurn 0 && (let u := idle.opened 0
      (u.swap 0).isNone && (let v := if (nextIn (u.onEasel 0)).isNone then u.uncede 0 else u
        (v.chosen 0).any (fun a => (v.gang? a.gang).any (fun g => (g.lead a.slice).any (fun x => (v.block? g.block).any (fun b =>
          (v.hdrOf b).any (fun h => (v.nextTrap g a.slice b.part h x).isNone) && x.point.inside))))))) = true ∧
    (entering 0).any (fun p => p.1 == 0 && p.2) = true ∧ (entering 0x10).any (fun p => p.1 == 1) = true ∧
    (State.reset.onTurn 0 && (let u := State.reset.opened 0
      (u.swap 0).isNone && ((if (nextIn (u.onEasel 0)).isNone then u.uncede 0 else u).chosen 0).isNone)) = true ∧
    ([(stalled, .stall), (promoted, .promotion), (limited, .limit)] : List (State × Swap)).all (fun p =>
      p.1.onTurn 0 && swapIs (p.1.opened 0) p.2 && swapIs p.1 p.2) = true ∧
    (starving.gang? 3).any (fun g => (starving.block? g.block).any (fun b => (g.lead none).any (fun x =>
      starving.barrier? b.id x == some (32, 5) && starving.starved b && g.runners.contains none && (starving.shadowOf 3).isNone))) = true ∧
    (twins.gang? 3).any (fun g => (twins.shadowOf 3).any (fun h => (g.twin.find? (fun t => t.slice == 8)).any (fun a =>
      (h.twin.find? (fun t => t.slice == 8)).any (fun b => !a.ok && twinSame a b)))) = true := by decide +kernel

def withQueue (f : SubQueue → SubQueue) (s : State) : State := s.modQueue 0 0 f
def withPart (f : PartEntry → PartEntry) (s : State) : State := s.modPart 0 f
def ported (s : State) : State := { s with pkg := { s.pkg with clientReady := true } }

/-- A queue with one entry, whose graph header is a code word; a launch with a block to place; a due heat. -/
def submitted : State := withQueue (fun q => { q with base := 0x1000, entries := 16, tail := 1 }) (withPart (fun p => { p with state := 1 }) idle)
def unplaced : State := (withPart (fun p => { p with wings := 1 }) idle).modLaunch 1 (fun l => { l with next := 0 })
def longWait : State := let s := unplaced.modLaunch 1 (fun l => { l with waiting := some 0 })
  { s with pkg := { s.pkg with nano := 1000000 } }
def overAll : State := withG (fun g => { g with life := .ended }) idle
def dueHeat : State := at_ 5 (inGraph node0 node1Open idle)

/-- A heat of node 1 waits for its place; its heat block lies at 0x3000. -/
def heatWaits : State := withPart (fun p => { p with wings := 1 })
  ((inGraph node0 { node1 with recs := [(0x8700, .queued 1 3)] } idle).modLaunch 1 (fun l =>
    { l with next := 0, node := some (9, 1), heat := some (3, 0x3000, [0x8700]) }))

theorem witness_heatPlaced : (heatWaits.launch? 1).any (fun l => !heatWaits.fw.restarting && heatWaits.dispatchTurn l.part && l.again == [] &&
    decide (l.next < l.total) && l.hdr.spanco == 0 && l.hdr.wingco == 0 && l.heat == some (3, 0x3000, [0x8700]) && l.node == some (9, 1) &&
    (heatWaits.node? (9, 1)).any (fun nd => nd.hdr.isSome) && heatWaits.coreReads l.part 0x3000 80 &&
    (heatWaits.headOf l.part l.prio).map (·.id) == some l.id && heatWaits.headsAbove l.part l.prio == [] &&
    (heatWaits.bestCluster l false ((heatWaits.freeWings l).flatMap clustersOf)).isSome && !l.hdr.twin &&
    heatWaits.recIs 9 0x8700 (· == .queued 1 3)) = true := by decide +kernel

theorem witness_PoolEvents :
    (runner (ported idle) && ((ported idle).queue? 0 0).isSome && (ported idle).pkg.clientUp && (ported idle).pkg.clientReady && !(ported idle).resetting 0) = true ∧
    runner idle = true ∧
    ((withQueue (fun q => { q with err := true }) idle).queue? 0 0).any (·.err) = true ∧
    (submitted.queue? 0 0).any (fun x => !x.err && x.head != x.tail && (submitted.part 0).state == 1 && !submitted.fw.restarting && submitted.dispatchTurn 0 &&
      submitted.coreReads 0 (x.base + 64 * x.head) 64 &&
      (submitted.graphHeadBad 0 (entryAt (submitted.coreRead 0) (x.base + 64 * x.head) x.cap).graph).isSome) = true ∧
    (unplaced.launch? 1).any (fun l => !unplaced.fw.restarting && unplaced.dispatchTurn l.part && l.again == [] && decide (l.next < l.total) && l.hdr.spanco == 0 &&
      l.hdr.wingco == 0 && l.node.isNone && l.heat.isNone && (unplaced.headOf l.part l.prio).map (·.id) == some l.id &&
      unplaced.headsAbove l.part l.prio == [] && (unplaced.bestCluster l false ((unplaced.freeWings l).flatMap clustersOf)).isSome &&
      !l.hdr.twin) = true ∧
    (longWait.launch? 1).any (fun l => l.waiting == some 0 && l.wingHeld.isNone && decide (1000000 ≤ longWait.pkg.nano) &&
      longWait.dispatchTurn l.part && (longWait.headOf l.part l.prio).map (·.id) == some l.id && (longWait.soonestWing l).isSome) = true ∧
    (overAll.block? 2).any (fun b => decide (b.id < overAll.fresh) && !b.ended && b.resident && overAll.isOwn b &&
      (overAll.gangsOf b.id).all (fun g => g.life == .ended) && overAll.blockQuiet b.id) = true ∧
    (dueHeat.graph? 9).any (fun g => (g.node? 1).any (fun nd => nd.hdr.isSome && nd.open_ != [] &&
      dueHeat.dispatchTurn g.part && nd.deadline.any (fun t => decide (t ≤ dueHeat.pkg.clock)))) = true := by decide +kernel

def moves (s : State) (pbase : Nat) : Bool :=
  (s.mem.pages.find? (fun p => p.part == 0 && p.spec.vbase == 0)).any (fun p => !s.locked 0 p.spec && pageValid p.spec &&
    decide (p.spec.key < 128) && pageValid { p.spec with pbase := pbase } && backed s pbase &&
    backed s (pbase + p.spec.size - 1) && pbase != p.spec.pbase && (p.moving.isNone || p.moving == some pbase && !s.pageBusy p.spec))
def movingPage (m : Option Nat) (s : State) : State :=
  { s with mem := { s.mem with pages := s.mem.pages.map (fun p => { p with moving := m }) } }
def busyPage (s : State) : Bool := s.mem.pages.any (fun p => p.part == 0 && s.pageBusy p.spec)
def withDevice : State := { idle with mem := { idle.mem with devicePages := [(7, ⟨0, 65536, 0, true, true, true, 1⟩)] } }

theorem witness_IsolationEvents :
    (runner idle && idle.parts.length == 16 && idle.funcs.length == 16) = true ∧
    (idle.refusals 5 0 1 == [] && idle.refusals 5 2 1 != []) = true ∧
    (let s : State := { idle with mem := { idle.mem with scrubs := [1] } }
     s.mem.scrubs.contains 1 && !s.mem.rekeys.contains 1) = true ∧
    (idle.pkg.clientUp && !idle.pkg.clientReady) = true ∧
    (let s := ported idle
     s.pkg.clientUp && s.pkg.clientReady && !s.resetting 0 && (s.part 0).hasKey 1 && !s.mem.scrubs.contains 1) = true ∧
    ((ported (withPart (fun p => { p with state := 2 }) idle)).resetting 0) = true ∧
    ((withPart (fun p => { p with state := 2 }) idle).part 0).state = 2 ∧
    (let s : State := { idle with pkg := { idle.pkg with nano := 10000 } }
     decide (s.pkg.irqWin < s.pkg.nano / 10000)) = true ∧
    (idle.func 0).pending.contains 2047 = false ∧
    ([none, some 65536] : List (Option Nat)).all (fun m => moves (movingPage m idle) 65536 && !busyPage (movingPage m idle)) = true ∧
    (moves (loadOf 0x4000) 65536 && busyPage (loadOf 0x4000)) = true ∧
    ((withDevice.deviceByte 7 65535 1).isSome && (withDevice.deviceByte 7 65536 1).isNone && (withDevice.deviceByte 7 0 0).isSome) = true ∧
    ((withPart (fun p => { p with wings := 1 }) idle).part 0).hasWing 0 = true ∧
    idle.sealedLive = false := by decide +kernel

def heldAt (h : Hold) : State := withS (fun x => { x with hold := h }) idle
def mayAnswer (s : State) (p : Slice → Bool) : Bool :=
  (s.gang? 3).any (fun g => g.kind == .plain && (s.shadowOf 3).isNone && (g.lead none).any p && decide (s.errs.poison = []))

/-- A save area at 0x100000 of 1 MB under key id 1. -/
def withArea (s : State) : State :=
  { s with mailbox := { s.mailbox with area := 2 ^ 56 + 0x100000, limit := 0x100000, next := 0x100000 } }
def asked (s : State) (r : Reg) (mode : Nat) : Bool :=
  bits r.toNat 9 8 == mode && !s.requestBad r.toNat && (s.resident (bits r.toNat 7 0)).length == 1
def stopping (m : StopMode) : State := withArea (withB (fun b => { b with stop := m }) idle)

/-- The request has flushed the block, whose gangs have stopped. -/
def flushed : State :=
  let s := withG (fun g => { g with life := .ended }) (stopping .flush)
  { s with mailbox := { s.mailbox with todo := [2], state := 1 } }

/-- The probe's block, saved, with the first words of its context as R340 gives them. -/
def savedState : State :=
  let n := probeHdr.ctxBytes
  let s := withMem 0x100028 8 2 (withMem 0x100000 8 (2 ^ 32 + n) (withB (fun b => { b with resident := false })
    (withG (fun g => { g with life := .saved }) (withPart (fun p => { p with wings := 1 }) (withArea idle)))))
  { s with saved := [⟨0x100000, 1, 1, 2, 0, [], [], [], []⟩] }

/-- A request of each mode to a block that may be flushed and to one that may not; a drained block's end; a flushed block's. -/
theorem witness_requests :
    ([false, true] : List Bool).all (fun idem =>
      let s := withH (fun h => { h with idem := idem }) (withArea idle)
      asked s 0x100 1 && asked s 0x200 2 && asked s 0 0 && probeHdr.expcyc == 0 && s.areaDue == 0 &&
        (s.block? 2).any (fun b => decide (s.areaOf b ≤ s.mailbox.limit) && !b.stop.leaving && s.mayFlush b == idem) &&
        asked (withH (fun h => { h with expcyc := 8 }) s) 0x800000000 0) = true ∧
    ([false, true] : List Bool).all (fun idem =>
      let s := withH (fun h => { h with idem := idem }) (stopping (.drain 0))
      (s.block? 2).any (fun b => !b.ended && b.resident && s.mayFlush b == idem && !s.fw.holdsSaves &&
        decide (s.mailbox.next + s.areaDue + s.areaOf b ≤ s.mailbox.base + s.mailbox.limit))) = true ∧
    (flushed.block? 2).any (fun b => decide (b.stop = .flush) && !b.ended && b.resident && flushed.isOwn b &&
      (flushed.gangsOf b.id).all (fun g => g.life == .ended) && flushed.blockQuiet b.id &&
      (flushed.launch? b.launch).any (fun l => l.node.isNone) && flushed.mailbox.todo.contains b.id) = true := by decide +kernel

theorem witness_SupervisorEvents :
    (runner idle && (idle.block? 2).any (fun b => !b.ended && idle.isOwn b)) = true ∧
    mayAnswer (heldAt (.escalated 0x0B false)) (fun x => decide (x.hold = .escalated 0x0B false) && x.hold.isTrap && x.point.inside &&
      decide (x.point.pc ≠ x.point.stop)) = true ∧
    mayAnswer (heldAt (.escalated 1 true)) (fun x => decide (x.hold = .escalated 1 true)) = true ∧
    mayAnswer (heldAt (.call 0 4)) (fun x => decide (x.hold = .call 0 4)) = true ∧
    ((withArea idle).requestBad 0x400 && !(withArea idle).requestBad 5 && (withArea idle).resident 5 == []) = true ∧
    ((stopping .save).block? 2).any (fun b => !b.ended && (stopping .save).settled b.id && !(stopping .save).fw.holdsSaves &&
      ((stopping .save).launch? b.launch).isSome) = true ∧
    (savedState.savedAt 0x100000).any (fun c => (savedState.block? c.block).any (fun b => (savedState.launch? b.launch).any (fun l =>
      !savedState.fw.restarting && !savedState.fw.holdsSaves && savedState.dispatchTurn l.part && savedState.restoreTurn l 0 &&
      savedState.fitsOn l 0 false && savedState.withMates l b.number 0 && !savedState.ctxBad c l.hdr 0x100000 && c.grants.isEmpty &&
      !l.hdr.twin))) = true := by decide +kernel

def withLink (l : Link) (f : LinkState → LinkState) (s : State) : State := s.modLink l f
def linkIs (s : State) (l : Link) (p : LinkState → Bool) : Bool := (s.link? l).any (fun x => x.up && p x)
def rehashing (i : Bool) : State := { idle with pkg := { idle.pkg with rehash := some ⟨2, 4, i, []⟩ } }

theorem witness_ErrorAndLinkEvents :
    ([.dreg 3 0 0, .pred 3 2 0, .amax 3 0, .q 3 0, .k 3 0, .c 3 0, .backing 3 0 0, .trapState 3, .scoreboard 3, .code 3 none,
      .scratch 2 0, .cell 2 0, .l2 0 0 true, .l2 47 0 false, .l2tag 0 0 true, .hbm 0, .engine 191, .copyUnit 0, .streamUnit 47,
      .sketchUnit 47] : List ErrSite).all idle.siteThere = true ∧
    ([.port 7, .ring 3, .hub 3] : List Link).all (fun l => linkIs idle l (fun x => decide (x.notch ≠ 3) && decide (x.replays < 8)) &&
      linkIs (withLink l (fun x => { x with notch := 3, retraining := true }) idle) l (fun x => x.notch == 3 && x.retraining)) = true ∧
    (idle.planeAlive 7 && idle.planeAlive 0 && bitAt 1 0 && decide (idle.pkg.rehash = none)) = true ∧
    (decide ((rehashing false).fl.ops = []) && (rehashing false).pkg.rehash.any (fun r => !r.installed &&
        !(rehashing false).unanswered r (fun p => !bitAt r.dead p)) &&
      (let s := { storeOf 0x4000 0x10007600 with pkg := (rehashing false).pkg }
       s.fl.ops != [] && s.pkg.rehash.any (fun r => !s.unanswered r (fun p => !bitAt r.dead p) &&
         s.fl.ops.all (fun o => o.elts.all (fun e => e.phys?.all (fun a => !r.sent o.id a))))) &&
      (rehashing true).pkg.rehash.any (fun r => r.installed && !(rehashing true).unanswered r (fun _ => true))) = true ∧
    ((idle.modGang 3 (fun g => { g with slices := g.slices.map (fun x => { x with calls := [⟨x.point, 0, 0, 0⟩] }) })).siteThere
      (.stack 3 0 2 0)) = true := by decide +kernel

def message : MailMsg := ⟨0, List.replicate 64 0⟩
def fullBox : State := { idle with fw := { idle.fw with boxes := (List.replicate 32 message) :: List.replicate 7 [] } }
/-- An image whose header is zeros: it lists no save layout. -/
def blank : Image := ⟨List.replicate 64 0, []⟩
def staged (a b : Option Image) : State := { idle with fw := { idle.fw with staging := [a, b], stage := [2, 3] } }

theorem witness_PackageEvents :
    (idle.pkg.powered && !idle.pkg.halted && idle.fw.boxes.length == 8 && idle.fw.held.isEmpty && decide ((idle.fw.box 0).length < 32) &&
      decide (message.sender < 8) && message.body.length == 64 && (fullBox.fw.box 0).length == 32 && fullBox.fw.boxes.length == 8 &&
      fullBox.fw.held.isEmpty) = true ∧
    (idle.fw.staging.length == 2 && idle.fw.stage.length == 2 && idle.fw.measure.length == 5) = true ∧
    (let s := staged (some blank) none
     let t : State := { s with saved := [⟨0, 1, 1, 2, 0, [], [], [], []⟩] }
     decide (s.fw.staging = [some blank, none]) && s.savesNow == [] && t.savesNow == [] && !s.blocked blank && t.blocked blank &&
       s.fw.measure.length == 5 && decide ((withB (fun b => { b with stop := .save }) s).savesNow = [2]) && !s.fw.holdsSaves &&
       ({ s.fw with stage := [3, 1] } : Firmware).holdsSaves) = true ∧
    decide ((staged none (some blank)).fw.staging = [none, some blank] ∧ (staged none (some blank)).fw.stage[1]? = some 3) = true ∧
    (!idle.sealedLive && decide (0 < idle.pkg.mhz) && idle.pkg.clientUp) = true := by decide +kernel

theorem witness_active : State.reset.fw.active.length = 2 ∧ (staged (some blank) none).fw.active.length = 2 := ⟨rfl, rfl⟩

/-- An instruction to run; one with an extension word; no code word; an event from outside; neither. -/
theorem witness_StepRunsDecoded :
    ([probe 0 0x203C4146 0, probe 2 0x303C40C0 0x18000001] : List State).all (fun s => (look s 0 0 noFields).any (fun c =>
      (s.code c.blk.part c.lead.point.pc).any (fun w => (decodeWords (BitVec.ofNat 3 c.lead.point.cls) w
        ((s.code c.blk.part (c.lead.point.pc + 4)).getD 0)).toOption.isSome))) = true ∧
    (look (withS (fun x => { x with point := ⟨0x10000, true, 0, 0x10000, 0x10008⟩ }) (probe 0 0 0)) 0 0 noFields).any (fun c =>
      ((probe 0 0 0).code c.blk.part c.lead.point.pc).isNone) = true ∧
    State.reset.issuing.isNone = true ∧ State.reset.inputs = [] ∧ State.reset.pkg.powered = true := by decide +kernel

theorem witness_EncodeThenDecode : (vecWords ++ mtxWords).all (fun p => p.2.2.wf && (encode p.2.2).isSome) = true := by decide +kernel

def invAt (s : State) : Bool :=
  Memory.wf s.mem && s.fl.ops.all (fun o => decide (o.id < s.fresh)) && s.blocks.all (fun b => decide (b.id < s.fresh))
def steps (s : State) : Bool :=
  match step s with
  | .next _ => true
  | _ => false

/-- The invariant holds, and the machine steps, with an instruction and with an event of its own. -/
theorem witness_EveryStepKeeps :
    (invAt (probe 2 0x305C0146 0x10007000) && steps (probe 2 0x305C0146 0x10007000)) = true ∧
    (invAt State.reset && steps State.reset) = true ∧ (invAt idle && steps idle) = true := by decide +kernel

/-! ### One step, with the results that the spec's examples and rules give -/

def dOf (s : State) (r l : Nat) : Nat := ((s.gang? 3).map (fun g => (g.getD r l).toNat)).getD 0
def qOf (s : State) (r : Nat) : Nat := ((s.gang? 3).map (fun g => (g.getQ r).toNat)).getD 0
def pOf (s : State) (r l : Nat) : Bool := ((s.gang? 3).map (fun g => hasLane (g.getP r) l)).getD false

/-- R110: the sum wraps in each .w element; a source may be the destination. -/
theorem test_iadd_wraps : let s := ran (withD 6 (fun _ => 0xFFFFFFFF00000001) (withD 5 (fun _ => 0x1FFFFFFFF) (probe 0 0x203C5146 0)))
    dOf s 5 31 = 0 := by decide +kernel

/-- 06, the example under R122: CVTQ.gf8a.f32 of 512.0 and −0.125 with s = 0.5. -/
theorem test_cvtq_example : dOf (ran (withD 6 (fun _ => 0x3F000000) (withD 5 (fun _ => 0xBE00000044000000)
    (probe 0 0x183C4146 0x10000810)))) 4 0 = 0x9878 := by decide +kernel

/-- 06, the example of three cross-lane instructions with a dead lane 1 of four. -/
def fourLanes (s : State) : State :=
  let v : Nat → Nat := fun l => if l = 0 then 0x4B800000 else if l = 1 then 0x7F800000 else 0x3F800000
  withQ 2 1 (withD 1 v (withG (fun g => { g with nslices := 1, slices := g.slices.take 1, dead := 2 }) (withH (fun h => { h with nslices := 1 }) s)))

theorem test_lfold_dead_lane : let s := ran (fourLanes (probe 0 0x1C9C2040 0x10001800))
    (dOf s 2 0, dOf s 2 1, dOf s 2 3) = (0x4B800001, 0, 0x4B800001) := by decide +kernel

theorem test_scan_dead_lane : let s := ran (fourLanes (probe 0 0x1CBC3040 0x10001800))
    (dOf s 3 0, dOf s 3 1, dOf s 3 2, dOf s 3 3) = (0x4B800000, 0, 0x4B800000, 0x4B800000) := by decide +kernel

/-- 04, the example of a dependent add: the IADD raises STALL_SHORT with AUX 0x0401_0004. -/
theorem test_stall_short : let s := ran (withS (fun x => { x with budgets := [⟨.d, 4, 1, 4⟩] }) (withH (fun h => { h with check := true })
      (vec100 (probe 0 0x003CA107 0))))
    (s.gang? 3).any (fun g => g.regs.trapAux == 0x04010004 && g.regs.trapLanes == 0xFFFFFFFF && g.getD 10 0 == 0) = true := by
  decide +kernel

/-- 18, the example of a store beyond 128 bytes of scratchpad: the trap registers, and the handler's address. -/
theorem test_scratch_bounds : let s := ran (withH (fun h => { h with scratch := 128 }) (vec100 (spread scratchBase 8 (probe 2 0x305C0147 0x18007000))))
    (s.gang? 3).any (fun g => g.regs.trapCode == 0x0A && g.regs.trapPc == 4 && g.regs.trapLanes == 0xFFFF0000 &&
      g.regs.trapAddr == 0xFFF0000000000080 && g.regs.trapAux == 0 &&
      g.slices.all (fun x => x.point == Point.atHeader 0x100 && decide (x.active ≠ 0))) = true ∧ s.fl.ops = [] := by decide +kernel

/-- R186, R187: a signed .h load of 0x8001 sign-extends to the .w element; the issue itself writes nothing. -/
theorem test_load_extends : let s := withMem 0x4000 2 0x8001 (lane0 (withD 5 (fun _ => 0x4000) (probe 2 0x30284140 0x08000100)))
    (dOf (ran s) 4 0, dOf (after (.loadSectorArrival 4 0) (ran s)) 4 0) = (0, 0xFFFFFFFFFFFF8001) := by decide +kernel

/-- R242: the arrival that completes phase 4095 begins phase 0. -/
theorem test_phase_wraps : (⟨1, 0, 1, 0, true, 0, 4095, 0⟩ : Bar).arrival 0 = ⟨1, 0, 1, 0, true, 0, 0, 0⟩ := by decide

/-- 09, the example of a copy: bytes 8 to 15 of the scratchpad after 64 bytes have arrived. -/
theorem test_copy : let s := after (.copyComplete 4) (withMem 0x2008 8 0x0F0E0D0C0B0A0908 (copyOf 64 0x17020000))
    ((s.block? 2).map (fun b => leGet (fun a => (mapGet b.scratch a).toNat) 0x108 8)) = some 0x0F0E0D0C0B0A0908 := by decide +kernel

/-- R32: lanes that take a branch go on; the others wait for the join. -/
theorem test_branch_splits : ((ran (someP2 (probe 5 0x302BFFFF 0x10000003))).gang? 3).any (fun g =>
    (g.slice? 0).any (fun x => x.active == 1 && x.point == Point.atHeader 0 && x.deferred.map (·.mask) == [0xE])) = true := by
  decide +kernel

/-- R323, R330: TRET returns to the trapped BRK, TRET.skip behind it. -/
theorem test_tret : ([0x10000000, 0x10000001] : List Word).map (fun e => ((ran (inHandler e)).gang? 3).map (fun g =>
    (g.slices.map (·.point.pc)).eraseDups)) = [some [4], some [12]] := by decide +kernel

/-! The matrix engine -/

def term (a b : Nat) : Term := ⟨codeElem 4 a, codeElem 4 b, some 0, some 0⟩

/-- 05, one cell in GF8A with EB = −3 and −9. -/
theorem test_residue_cell : residuePass (-3) 0 [term 0x7F 0xC4, term 0x3C 0xA8, term 0x01 0x38] = 0x0D6AD2FED2FDD2FC ∧
    reconstruct 0x0D6AD2FED2FDD2FC = -11523 ∧
    reconstruct (residuePass (-9) 0 [term 0x7F 0xC4, term 0x3C 0xA8, term 0x01 0x38]) = -737471 := by decide +kernel

/-- 05, an FP16 block that cancels: 2^−48 is truncated, and the accumulator is left alone. -/
theorem test_window_cancels : windowBlock 3 0 ([(0x3C00, 0x3C00), (0x3C00, 0xBC00), (0x0001, 0x0001)].map (fun p =>
    (fp16.decode p.1).mul (fp16.decode p.2))) = 0 := by decide +kernel

/-- 08, the polynomial that vanishes: (X − I)² of a 2 × 2 unipotent matrix is zero in every cell. -/
theorem test_polynomial :
    let x := matLoad 1 2 (fun i j => if i = 1 ∧ j = 0 then 0 else 0x3F800000)
    let y := matHorner 1 2 x [0x3FF0000000000000, 0xC000000000000000, 0x3FF0000000000000] 2
    [matCell 1 2 y 0 0, matCell 1 2 y 0 1, matCell 1 2 y 1 0, matCell 1 2 y 1 1] = [0, 0, 0, 0] := by decide +kernel

/-- 19, the first word of a saved MITER record. -/
theorem test_miter_record : (MxJob.record ⟨4, 3, none, 2, 0, 0, 0, 0, [], .miter false false 1 32 8 2 true 0 [] 0 0, 0, 0⟩).head? =
    some 0x000800021F480000 := by decide +kernel

/-! Views, links and partitions -/

/-- 12: keys 0, 2, 3, 10 at TIME 0.5 give 2.5, as a box MAX 0x4020_0001. -/
theorem test_motion : let v := interp 0x3F000000 4 (fun i => [0, 0x40000000, 0x40400000, 0x41200000].getD i 0)
    (v, f32up v) = (0x40200000, 0x40200001) := by decide +kernel

/-- 20: the planes of two lines, and the map after plane 1 has died. -/
theorem test_planes : State.reset.planeOf 0xA000002300 = 1 ∧ State.reset.planeOf 0xA000002400 = 6 ∧
    newMap 0xFAC688 0xFD = 0xFAC690 := by decide

theorem test_rehash : let s := after (.rehashDrainDone []) (after (.signalLoss 1) State.reset)
    (s.pkg.planeWord, s.planeOf 0xA000002300) = (0x1FDFAC690, 2) := by decide +kernel

/-- 17: two partitions that pass R305; way 7 for the second is refused with cause 6. -/
def twoParts : State :=
  let slots := fun (n : Nat) => (List.range 12).foldl (fun x k => x + n * 2 ^ (5 * k)) 0
  { State.reset with parts :=
      [⟨0xFFFFFF, 0, 0x1E, slots 15, 0x7878787878787878, 0x031000FF, 0, 1⟩,
       ⟨0xFFFFFF000000, 0, 0x1E0, slots 16, 0x8686868686868686, 0x0208FF00, 0, 1⟩] ++ List.replicate 14 PartEntry.zero }

theorem test_partition_table : twoParts.refusals 1 6 0x0208FF00 = [] ∧ twoParts.refusals 1 6 0x0208FF80 = [6] := by decide +kernel

/-- FIPS 197, C.3: the AES-256 example, both ways. -/
theorem test_aes : let ks := aesKeys (List.range 32)
    let p := (List.range 16).map (fun i => 17 * i)
    let c := [0x8E, 0xA2, 0xB7, 0xCA, 0x51, 0x67, 0x45, 0xBF, 0xEA, 0xFC, 0x49, 0x90, 0x4B, 0x49, 0x60, 0x89]
    aesEncrypt ks p = c ∧ aesDecrypt ks c = p := by decide +kernel

/-- IEEE 1619, vector 10 (XTS-AES-256, data unit 0xFF): the first and the second block of the ciphertext. -/
theorem test_xts : let k : BitVec 512 := BitVec.ofNat 512 (
      natOfBytes [0x27, 0x18, 0x28, 0x18, 0x28, 0x45, 0x90, 0x45, 0x23, 0x53, 0x60, 0x28, 0x74, 0x71, 0x35, 0x26, 0x62, 0x49, 0x77,
        0x57, 0x24, 0x70, 0x93, 0x69, 0x99, 0x59, 0x57, 0x49, 0x66, 0x96, 0x76, 0x27] + 2 ^ 256 *
      natOfBytes [0x31, 0x41, 0x59, 0x26, 0x53, 0x58, 0x97, 0x93, 0x23, 0x84, 0x62, 0x64, 0x33, 0x83, 0x27, 0x95, 0x02, 0x88, 0x41,
        0x97, 0x16, 0x93, 0x99, 0x37, 0x51, 0x05, 0x82, 0x09, 0x74, 0x94, 0x45, 0x92])
    (xtsEncrypt k 0xFF (List.range 64)).take 32 =
      [0x1C, 0x3B, 0x3A, 0x10, 0x2F, 0x77, 0x03, 0x86, 0xE4, 0x83, 0x6C, 0x99, 0xE3, 0x70, 0xCF, 0x9B,
       0xEA, 0x00, 0x80, 0x3F, 0x5E, 0x48, 0x23, 0x57, 0xA4, 0xAE, 0x12, 0xD4, 0x14, 0xA3, 0xE6, 0x3B] := by decide +kernel

end Sys2Proof.Tests
end

section
/-!
Proofs of the vector instructions (06): what an instruction with one fixed-latency result per lane leaves (R80, R107),
the legality of its word (R78), SEL and BPICK (R126), FCLASS (R119).
-/

namespace Sys2Proof.Machine

/-! ### Where a gang stands after register writes (R80) -/

/-- Of a gang, what says where it stands, which no register write touches: number, kind, life, lanes and slices. -/
def Gang.standing (g : Gang) : Nat × GangKind × Life × Nat × Mask × Mask × List Slice :=
  (g.id, g.kind, g.life, g.nslices, g.exited, g.dead, g.slices)

@[simp] theorem Gang.standing_setR (g : Gang) (r : RFile) (i l : Nat) (v : Reg) :
    (g.setR r i l v).standing = g.standing := by
  cases r with
  | d => rfl
  | q => unfold Gang.setR Gang.setQ; dsimp only; split <;> rfl
  | p => unfold Gang.setR Gang.setP; dsimp only; split <;> rfl
  | c => rfl
  | amax => rfl

@[simp] theorem Gang.standing_writeR (g : Gang) (now choice lat w : Nat) (r : RFile) (i l : Nat) (v : Reg) :
    (g.writeR now choice lat w r i l v).standing = g.standing := by
  unfold Gang.writeR
  split
  · rfl
  · rw [Gang.standing_setR]; split <;> rfl

theorem Gang.standing_writes (now choice lat w : Nat) (r : RFile) (i : Nat) (v : Nat → Reg) (ls : List Nat) (g : Gang) :
    (ls.foldl (fun g l => g.writeR now choice lat w r i l (v l)) g).standing = g.standing := by
  induction ls generalizing g with
  | nil => rfl
  | cons a t ih => rw [List.foldl_cons, ih, Gang.standing_writeR]

/-- Writes of q31 and p7 change nothing (R38). -/
theorem Gang.writes_ignored (now choice lat w : Nat) {r : RFile} {i : Nat} (h : ignoredReg r i = true) (v : Nat → Reg)
    (ls : List Nat) (g : Gang) : ls.foldl (fun g l => g.writeR now choice lat w r i l (v l)) g = g := by
  induction ls with
  | nil => rfl
  | cons a t ih => rw [List.foldl_cons, show g.writeR now choice lat w r i a (v a) = g from if_pos h, ih]

theorem Gang.id_modAgent (g : Gang) (sl : Option Nat) (f : Slice → Slice) : (g.modAgent sl f).id = g.id :=
  (g.same_modAgent (T := fun _ => True) sl f).id

theorem Gang.getR_modAgent (g : Gang) (sl : Option Nat) (f : Slice → Slice) (r : RFile) (x l : Nat) :
    (g.modAgent sl f).getR r x l = g.getR r x l :=
  (g.same_modAgent (T := fun _ => True) sl f).getR r x l

theorem Gang.oldOf_modAgent (g : Gang) (sl : Option Nat) (f : Slice → Slice) (now : Nat) (r : RFile) (x l : Nat) :
    (g.modAgent sl f).oldOf now r x l = g.oldOf now r x l := by
  unfold Gang.oldOf Gang.oldsOf; rw [Gang.modAgent_olds]

section
variable {s t : State} {cls op : Nat} {f : Fields} {c : Ctx} {g h : Gang} {r : RFile} {x : Nat} {v : Nat → Reg}

theorem Gang.StandsAs.of_standing (a : g.StandsAs c) (e : h.standing = g.standing) : h.StandsAs c := by
  simp only [Gang.standing, Prod.mk.injEq] at e
  obtain ⟨-, -, -, hn, he, hd, hs⟩ := e
  exact a.of_eq hn he hd hs

/-! ### One result in every executing lane (R80, R107) -/

/-- A fixed-latency result over no pending write: its gang stands where it stood, and holds the values. -/
theorem Ctx.put_spec (hg : s.gang? c.g.id = some g) (hr : r ≠ .q ∧ r ≠ .c) (hv : ∀ l, fits r (v l))
    (ho : ∀ l, g.oldOf c.now r x l = none) :
    ∃ h, (c.put s r x v).gang? c.g.id = some h ∧ h.standing = g.standing ∧
      ∀ l, l < 32 → hasLane c.exec l = true → h.getR r x l = if ignoredReg r x then g.getR r x l else v l := by
  refine ⟨_, Ctx.put_gang hg, Gang.standing_writes .., fun l hl he => ?_⟩
  split
  next hi => rw [Gang.writes_ignored _ _ _ _ hi]
  next hi =>
    have hk : ∀ l, laneKey r l = l := fun l => by
      cases r with
      | q => exact absurd rfl hr.1
      | c => exact absurd rfl hr.2
      | d | p | amax => rfl
    rw [Gang.getR_writes g _ _ _ _ r x v hk (by simpa using hi) hv _ (nodup_lanesOf _) (fun l h => (mem_lanesOf.1 h).1) hr ho l hl,
      if_pos (mem_lanesOf.2 ⟨hl, he⟩)]

/-- What lies outside the one register's executing lanes is not written. -/
theorem Ctx.not_may_one {r' : RFile} {x' l : Nat} (h : ¬c.may [(r, x)] c.g.id r' x' l) :
    r' ≠ r ∨ (r ≠ .amax ∧ x' ≠ x) ∨ (r ≠ .q ∧ r ≠ .c ∧ l ∉ lanesOf c.exec) := by
  by_cases hr : r' = r
  · subst hr
    refine .inr ?_
    by_cases hx : r' = .amax ∨ x' = x
    · have hl : ¬(r' = .q ∨ r' = .c ∨ hasLane c.exec l = true) := fun hl =>
        h ⟨rfl, ⟨_, List.mem_singleton_self _, rfl, hx.imp_right Eq.symm⟩, hl⟩
      obtain ⟨hq, hl⟩ := not_or.1 hl
      obtain ⟨hc, hl⟩ := not_or.1 hl
      exact .inr ⟨hq, hc, fun hm => hl (mem_lanesOf.1 hm).2⟩
    · exact .inl (not_or.1 hx)
  · exact .inl hr

/-! ### The state in which an instruction acts -/

/-- The gang when the instruction acts: its agent waits for nothing any more. -/
theorem Sees.begun_gang (h : Sees s cls op f c) :
    (s.begun c.aid).gang? c.g.id = some (c.g.modAgent c.aid.slice (fun x => { x with hold := .none })) := by
  obtain ⟨hg, hid, -⟩ := h.spec
  unfold State.begun
  rw [← hid, State.gang?_modGang_same fun g => g.id_modAgent _ _]
  show (s.gang? c.g.id).map _ = _
  rw [hg]; rfl

/-- A gang that is no shadow and has none has no twin (R348). -/
theorem Ctx.Undisturbed.untwinned (hu : c.Undisturbed s) (h : Sees s cls op f c) : s.Untwinned c.aid.gang := by
  obtain ⟨hg, hid, -⟩ := h.spec
  intro g hg'
  rw [← hid, hg] at hg'
  cases hg'
  unfold State.otherCopy
  split
  next p hp => exact absurd hp (hu.kind p)
  · exact hu.alone

theorem Ctx.Undisturbed.untwinned_begun (hu : c.Undisturbed s) (h : Sees s cls op f c) : (s.begun c.aid).Untwinned c.aid.gang :=
  State.Untwinned.modGang (fun g => ⟨g.id_modAgent _ _, g.modAgent_kind _ _⟩)
    ((hu.untwinned h).of_gangs rfl)

theorem State.Untwinned.put {gid : Nat} (h : s.Untwinned gid) : (c.put s r x v).Untwinned gid :=
  h.modGang fun g => by
    have e := Gang.standing_writes c.now c.choice c.e.lat c.w r x v (lanesOf c.exec) g
    simp only [Gang.standing, Prod.mk.injEq] at e
    obtain ⟨hid, hkind, hlife, -⟩ := e
    exact ⟨hid, hkind, hlife⟩

/-! ### An instruction with one result -/

/-- An instruction whose own part writes one register in every executing lane gives its values there (R80, R107). -/
theorem gives_of_put {i : Instr} {run : Ctx → State → Res} {v : Ctx → Nat → Reg} (hr : r ≠ .q ∧ r ≠ .c)
    (hi : ∀ s, exec i s = issueOp cls op f { run := run } s) (hv : ∀ c l, fits r (v c l))
    (hrun : ∀ s c, Sees s cls op f c → c.Unhindered s false [] →
      run c (s.begun c.aid) = .done (c.put (s.begun c.aid) r x (v c))) :
    Gives i cls op f r x v := by
  intro s c hs hu hl
  have hu0 := hu.toUndisturbed
  obtain ⟨-, hid, -⟩ := hs.spec
  obtain ⟨h, hput, hstand, hval⟩ := Ctx.put_spec hs.begun_gang hr (hv c) fun l => (c.g.oldOf_modAgent ..).trans (hl l)
  have htwin : (c.put (s.begun c.aid) r x (v c)).Untwinned c.aid.gang := (hu0.untwinned_begun hs).put
  have hnext := (hi s).trans (issueOp_done hs hu rfl rfl (Ctx.targetsThere_nil rfl) (hrun s c hs hu) hu0.clean)
  obtain ⟨k, hk, -, -, hkeep⟩ :=
    (Frame.finish (W := nothing) (T := (· = 0x07)) c false false htwin rfl).gangs _ h hput
  refine ⟨_, k, hnext, hk, fun p hp l hlt he => ?_, ?_, ?_⟩
  · obtain rfl := List.mem_singleton.1 hp
    rw [hkeep _ _ _ hlt id, hval l hlt he, Gang.getR_modAgent]
  · exact (Frame.begun s c.aid).trans ((Frame.put fun _ _ _ => Ctx.not_may_one).trans (Frame.finish c _ _ htwin rfl))
  · exact State.finish_goesOn hid hput ((Gang.standsAs_begun c).of_standing hstand)

/-- An instruction whose only effect is D gives D the value that it computes where nothing stands before it. -/
theorem givesD_of_vecD {i : Instr} {v' v : Ctx → Nat → Reg} (hi : ∀ s, exec i s = issueOp 0 op f (vecD v') s)
    (hv : ∀ s c, Sees s 0 op f c → c.Unhindered s false [] → ∀ l, v' c l = v c l) : GivesD i op f v :=
  gives_of_put ⟨nofun, nofun⟩ hi (fun _ _ => fits_d _) fun s c hs hu => by
    obtain ⟨-, -, -, -, -, hf, -⟩ := hs.spec
    rw [hf, funext (hv s c hs hu)]

/-! ### The legality of a word (R78, R108) -/

/-- The entry of the instruction that an agent sees. -/
theorem State.ctx?_entry {a : AgentId} (h : s.ctx? a cls op f = some c) :
    c.e = (entryOf cls op f (windowOfAgent c.hdr a.slice)).getD {} := by
  unfold State.ctx? at h
  split at h
  · cases h
  · split at h
    · split at h
      · cases h
      · cases h; rfl
    · cases h

theorem Sees.entry (h : Sees s cls op f c) {e : Entry} (he : entryOf cls op f (windowOfAgent c.hdr c.aid.slice) = some e) : c.e = e := by
  rw [State.ctx?_entry h.2, he]; rfl

/-- A legal word keeps to the widths, to C's Q bit and to the MOD bits of its entry. -/
theorem limits_of_legal {win : Window} {e : Entry} {late : Bool} (h : illegalCause win e f late = none) :
    f.w.toNat < 5 ∧ e.widths / 2 ^ f.w.toNat % 2 ≠ 0 ∧ badQ e.c f.cq = false ∧ f.mod &&& ~~~BitVec.ofNat 15 e.mods = 0 := by
  unfold illegalCause at h
  split at h
  · cases h
  split at h
  · cases h
  next hw =>
  split at h
  · cases h
  next hwid =>
  split at h
  · cases h
  next hq =>
  split at h
  · cases h
  split at h
  · cases h
  next hm =>
  simp only [not_or, Bool.or_eq_true, Nat.not_le, decide_eq_true_eq, ne_eq, Classical.not_not, Bool.not_eq_true] at hw hwid hq hm
  obtain ⟨hwid, -⟩ := hwid
  obtain ⟨-, hqc⟩ := hq
  obtain ⟨-, hmod⟩ := hm
  exact ⟨hw, hwid, hqc, hmod⟩

/-- A MOD bit that the entry does not use is zero in a legal word. -/
theorem modBit_of_mask {m i : Nat} (h : f.mod &&& ~~~BitVec.ofNat 15 m = 0) (hm : m.testBit i = false) : modBit f i = false := by
  by_cases hi : i < 15
  · have hb : (f.mod &&& ~~~BitVec.ofNat 15 m).getLsbD i = false := by rw [h]; exact BitVec.getLsbD_zero
    simpa only [modBit, BitVec.getLsbD_and, BitVec.getLsbD_not, BitVec.getLsbD_ofNat, hi, hm, decide_true,
      Bool.and_false, Bool.not_false, Bool.and_true] using hb
  · exact BitVec.getLsbD_of_ge _ _ (Nat.not_lt.1 hi)

/-- So is a field of MOD. -/
theorem modF_of_mask {m hi lo : Nat} (h : f.mod &&& ~~~BitVec.ofNat 15 m = 0) (hm : m / 2 ^ lo % 2 ^ (hi + 1 - lo) = 0) :
    modF f hi lo = 0 := by
  refine Nat.eq_of_testBit_eq fun j => ?_
  have hj := congrArg (·.testBit j) hm
  simp only [modF, Nat.testBit_mod_two_pow, Nat.testBit_div_two_pow, Nat.zero_testBit] at hj ⊢
  cases hlt : decide (j < hi + 1 - lo) with
  | false => rfl
  | true =>
    rw [hlt, Bool.true_and] at hj
    exact modBit_of_mask h hj

end

/-! ### SEL and BPICK (R126) -/

theorem sel_givesD (f : Fields) : GivesD (.sel f) 0x52 f
    (fun c l => c.each l (fun k => if c.C l ≠ 0 then elem c.w k (c.A l) else elem c.w k (c.B l))) :=
  givesD_of_vecD (fun _ => rfl) fun _ c _ _ l => by
    congr 1; funext k
    simp only [apply_ite (elem c.w k), bne_iff_ne]

theorem bpick_givesD (f : Fields) : GivesD (.bpick f) 0x53 f (fun c l => packN 8 8 (fun i =>
    if elem 4 i (c.C l) < 8 then elem 8 (elem 4 i (c.C l)) (c.A l) else elem 8 (elem 4 i (c.C l) - 8) (c.B l))) :=
  givesD_of_vecD (fun _ => rfl) fun _ _ _ _ _ => rfl

/-- A legal SEL names a predicate without its Q bit, and its FN is zero. -/
theorem sel_limits {s : State} {f : Fields} {c : Ctx} {late : Bool} (hs : Sees s 0 0x52 f c)
    (h : illegalCause (windowOfAgent c.hdr c.aid.slice) c.e f late = none) : f.cq = false ∧ fnOf f = 0 := by
  rw [hs.entry rfl] at h
  obtain ⟨-, -, hq, hm⟩ := limits_of_legal h
  exact ⟨by simpa [badQ] using hq, modF_of_mask hm (by simp [elem3, elemMods])⟩

/-- A legal BPICK has neither FN nor a single form. -/
theorem bpick_limits {s : State} {f : Fields} {c : Ctx} {late : Bool} (hs : Sees s 0 0x53 f c)
    (h : illegalCause (windowOfAgent c.hdr c.aid.slice) c.e f late = none) : oneOf f = false ∧ fnOf f = 0 := by
  rw [hs.entry rfl] at h
  obtain ⟨-, -, -, hm⟩ := limits_of_legal h
  exact ⟨modBit_of_mask hm (Nat.zero_testBit _), modF_of_mask hm (by simp)⟩

/-- Settles O7: the values are the model's own selection, and the entries of SEL and BPICK leave no room for the other
words. -/
theorem selectAndPick : Obligations.SelectAndPick := by
  intro f
  refine ⟨sel_givesD f, bpick_givesD f, fun s c hs hbad hlegal => ?_, fun s c hs hbad hlegal => ?_⟩
  · obtain ⟨hq, hfn⟩ := sel_limits hs hlegal
    simp [hq, hfn] at hbad
  · obtain ⟨hone, hfn⟩ := bpick_limits hs hlegal
    simp [hone, hfn] at hbad

/-! ### FCLASS (R119) -/

/-- The value of an IEEE code with the top exponent: an infinity or a NaN (R88). -/
theorem FFmt.decode_top {f : FFmt} {a : Nat} (hk : f.kind = .ieee) (he : f.expOf a = 2 ^ f.ebits - 1) :
    f.decode a = if f.fracOf a = 0 then .inf (f.signOf a) else .nan := by
  unfold FFmt.decode; rw [hk]; exact if_pos he

/-- The value of an IEEE code with another exponent is finite (R88). -/
theorem FFmt.decode_finite {f : FFmt} {a : Nat} (hk : f.kind = .ieee) (he : f.expOf a ≠ 2 ^ f.ebits - 1) :
    f.decode a = f.finOf a := by
  unfold FFmt.decode; rw [hk]; exact if_neg he

/-- The quiet bit of a code is its fraction field's top bit. -/
theorem FFmt.quiet_fracOf {f : FFmt} (hf : 0 < f.fbits) (a : Nat) :
    f.fracOf a / 2 ^ (f.fbits - 1) = a / 2 ^ (f.fbits - 1) % 2 := by
  obtain ⟨n, hn⟩ := Nat.exists_eq_succ_of_ne_zero (Nat.ne_of_gt hf)
  rw [FFmt.fracOf, hn, Nat.pow_succ, Nat.succ_sub_one, Nat.mod_mul_right_div_self]

theorem FFmt.signOf_eq (f : FFmt) (a : Nat) : f.signOf a = decide (a / 2 ^ (f.ebits + f.fbits) % 2 = 1) := by
  rw [FFmt.signOf, Nat.shiftRight_eq_div_pow]; rfl

theorem FFmt.expOf_eq (f : FFmt) (a : Nat) : f.expOf a = a / 2 ^ f.fbits % 2 ^ f.ebits := by
  rw [FFmt.expOf, Nat.shiftRight_eq_div_pow]

/-- The class of a code of an IEEE format by its fields (R119). -/
def FFmt.classOf (f : FFmt) (a : Nat) : Nat :=
  if f.expOf a = 2 ^ f.ebits - 1 then
    if f.fracOf a = 0 then (if f.signOf a then 0 else 7) else if f.fracOf a / 2 ^ (f.fbits - 1) = 1 then 9 else 8
  else if f.expOf a = 0 then
    if f.fracOf a = 0 then (if f.signOf a then 3 else 4) else (if f.signOf a then 2 else 5)
  else if f.signOf a then 1 else 6

/-- The FCLASS mask has the one bit of the class, by the four kinds of value that a code can have (R119). -/
theorem fclass_eq_classOf {w : Nat} (a : Nat) (hk : (fmtOfW w).kind = .ieee) (hf : 0 < (fmtOfW w).fbits) :
    fclass w a = 2 ^ (fmtOfW w).classOf a := by
  have hquiet := FFmt.quiet_fracOf hf a
  unfold fclass FFmt.classOf
  generalize fmtOfW w = f at *
  dsimp only
  by_cases htop : f.expOf a = 2 ^ f.ebits - 1
  · rw [FFmt.decode_top hk htop, if_pos htop, hquiet]
    by_cases hfrac : f.fracOf a = 0
    · simp only [if_pos hfrac]; cases f.signOf a <;> rfl
    · simp only [if_neg hfrac]; split <;> rfl
  · rw [FFmt.decode_finite hk htop, if_neg htop]
    unfold FFmt.finOf
    by_cases hexp : f.expOf a = 0
    · simp only [if_pos hexp]
      by_cases hfrac : f.fracOf a = 0
      · simp only [if_pos hfrac]; cases f.signOf a <;> rfl
      · simp only [if_neg hfrac]; cases f.signOf a <;> rfl
    · have hsig : 2 ^ f.fbits + f.fracOf a ≠ 0 :=
        Nat.ne_of_gt (Nat.add_pos_left (Nat.two_pow_pos _) _)
      simp only [if_neg hexp, if_neg hsig]
      cases f.signOf a <;> rfl

/-- The widths of the float formats of vector elements (R89). -/
def fltWidth (w : Nat) : Prop := w = 16 ∨ w = 32 ∨ w = 64

/-- The statement's class is that of the width's format. -/
theorem classBit_eq_classOf {w : Nat} (hw : fltWidth w) (a : Nat) : classBit w a = (fmtOfW w).classOf a := by
  unfold classBit FFmt.classOf
  rcases hw with rfl | rfl | rfl <;> simp only [FFmt.signOf_eq, FFmt.expOf_eq, FFmt.fracOf] <;> rfl

theorem fclass_eq {w : Nat} (hw : fltWidth w) (a : Nat) : fclass w a = 2 ^ classBit w a := by
  rw [classBit_eq_classOf hw]
  rcases hw with rfl | rfl | rfl <;> exact fclass_eq_classOf a rfl (by decide)

/-- A legal FCLASS is of a width that has a float format (R89, R119). -/
theorem fclass_width {s : State} {f : Fields} {c : Ctx} {late : Bool} (hs : Sees s 0 0x28 f c)
    (h : illegalCause (windowOfAgent c.hdr c.aid.slice) c.e c.f late = none) : fltWidth c.w := by
  obtain ⟨-, -, -, -, -, hf, -⟩ := hs.spec
  rw [hs.entry rfl] at h
  obtain ⟨hlt, hwid, -⟩ := limits_of_legal h
  unfold Ctx.w widthOf fltWidth
  generalize c.f.w.toNat = n at hlt hwid ⊢
  have hn : ∀ n < 5, Entry.wFlt / 2 ^ n % 2 ≠ 0 → min 64 (8 * 2 ^ n) = 16 ∨ min 64 (8 * 2 ^ n) = 32 ∨ min 64 (8 * 2 ^ n) = 64 := by
    decide
  exact hn n hlt hwid

/-- Settles O10: the widths of a legal FCLASS are those of the float formats, and there the model's mask is that of the class. -/
theorem classMasks : Obligations.ClassMasks := by
  intro f
  exact givesD_of_vecD (fun _ => rfl) fun s c hs hu l => by simp only [fclass_eq (fclass_width hs hu.legal)]

end Sys2Proof.Machine
end

section
/-!
The plane of a request: the hash is the XOR of 14 groups of the local address, and it sees no bit below the line (R354).
-/

namespace Sys2Proof.Machine

/-- The fold of `planeHash` written out: the groups of R354 at j = 0 … 13. -/
theorem planeHash_eq_xor (a : Nat) : planeHash a =
    (a % 2 ^ 48 / 2 ^ 8 % 8) ^^^ (a % 2 ^ 48 / 2 ^ 11 % 8) ^^^ (a % 2 ^ 48 / 2 ^ 14 % 8) ^^^ (a % 2 ^ 48 / 2 ^ 17 % 8) ^^^
    (a % 2 ^ 48 / 2 ^ 20 % 8) ^^^ (a % 2 ^ 48 / 2 ^ 23 % 8) ^^^ (a % 2 ^ 48 / 2 ^ 26 % 8) ^^^ (a % 2 ^ 48 / 2 ^ 29 % 8) ^^^
    (a % 2 ^ 48 / 2 ^ 32 % 8) ^^^ (a % 2 ^ 48 / 2 ^ 35 % 8) ^^^ (a % 2 ^ 48 / 2 ^ 38 % 8) ^^^ (a % 2 ^ 48 / 2 ^ 41 % 8) ^^^
    (a % 2 ^ 48 / 2 ^ 44 % 8) ^^^ (a % 2 ^ 48 / 2 ^ 47 % 8) := by
  simp only [planeHash, List.range_succ, List.range_zero, List.foldl_append, List.foldl_cons, List.foldl_nil,
    List.nil_append, Nat.zero_xor, Nat.reduceMul, Nat.reduceAdd]

/-- Each group begins at bit 8 or above, so the hash is one of the 256-byte line within the package. -/
theorem planeHash_eq_of_line {a b : Nat} (h : a % 2 ^ 48 / 2 ^ 8 = b % 2 ^ 48 / 2 ^ 8) : planeHash a = planeHash b := by
  have hgroup : ∀ j, a % 2 ^ 48 / 2 ^ (8 + 3 * j) = b % 2 ^ 48 / 2 ^ (8 + 3 * j) := fun j => by
    rw [Nat.pow_add, ← Nat.div_div_eq_div_mul, ← Nat.div_div_eq_div_mul, h]
  simp only [planeHash, hgroup]

theorem State.planeOf_eq_of_line (s : State) {a b : Nat} (h : a % 2 ^ 48 / 2 ^ 8 = b % 2 ^ 48 / 2 ^ 8) :
    s.planeOf a = s.planeOf b := congrArg (mapEntry s.pkg.planeMap) (planeHash_eq_of_line h)

/-- Settles O55: the entry's index is the hash written out, and addresses that differ only in the package id or within a line
agree above bit 8 of the local address. -/
theorem planeOfRequest : Obligations.PlaneOfRequest := by
  intro s a
  refine ⟨?entry, fun n => ?package, fun i hi => ?line⟩
  case entry => rw [← planeHash_eq_xor]; rfl
  case package => exact s.planeOf_eq_of_line (by rw [Nat.mul_add_mod'])
  case line => exact s.planeOf_eq_of_line (by omega)

end Sys2Proof.Machine
end

section
/-!
Proofs of the encoding (04): the words of an instruction hold its opcode and fields (R68, R71, R72), the opcode map is read
back as it is written (R73), and so decoding gives back what was encoded.
-/

namespace Sys2Proof.Laws

/-! ### The opcode map (R73) -/

/-- Class, opcode and fields make the instruction again. Five instructions are told apart by more than their opcode, and an
unassigned opcode by being none; every other has an opcode of its own, and an event has no code. -/
theorem codes (i : Instr) : Codes.Statement i := by
  cases i
  case nop cls f => exact Codes.nop cls f
  case bra f => exact Codes.bra f
  case braGuarded f => exact Codes.braGuarded f
  case tret f => exact Codes.tret f
  case tretSkip f => exact Codes.tretSkip f
  case unassignedOpcode cls op f => exact Codes.unassignedOpcode cls op f
  all_goals first | exact none_codes rfl | exact some_codes rfl id rfl

/-! ### The word formats (R68, R71, R72) -/

/-- A field above the lowest part of a word is a field of the rest. -/
theorem extract_above {n m i len : Nat} {x : BitVec n} {y : BitVec m} {v : BitVec len} (h : m ≤ i)
    (hx : x.extractLsb' (i - m) len = v) : (x ++ y).extractLsb' i len = v := by
  rw [BitVec.extractLsb'_append_eq_of_le h, hx]

/-- So is a bit. -/
theorem getLsbD_above {n m i : Nat} {x : BitVec n} {y : BitVec m} {v : Bool} (h : m ≤ i) (hx : x.getLsbD (i - m) = v) :
    (x ++ y).getLsbD i = v := by
  rw [BitVec.getLsbD_append, if_neg (Nat.not_lt.2 h), hx]

theorem getLsbD_append_ofBool {n : Nat} (x : BitVec n) (b : Bool) : (x ++ BitVec.ofBool b).getLsbD 0 = b := by
  rw [BitVec.getLsbD_append, if_pos Nat.one_pos]
  cases b <;> rfl

/-- The opcode stands in bits 27 to 21 and X in bit 28, and bit 31 is clear (R68). -/
theorem packWord_bits (op : BitVec 7) (f : Fields) :
    (packWord op f).getLsbD 31 = false ∧ (packWord op f).getLsbD 28 = f.x ∧ opField (packWord op f) = op := by
  refine ⟨?marker, ?x, ?op⟩
  case op =>
    repeat refine extract_above (by decide) ?_
    exact BitVec.extractLsb'_append_eq_right
  all_goals repeat refine getLsbD_above (by decide) ?_
  case marker => exact BitVec.getLsbD_zero
  case x => exact getLsbD_append_ofBool _ _

/-- The fields of the word that stand in every instruction (R68). -/
theorem packWord_fields (op : BitVec 7) (f : Fields) :
    (packWord op f).extractLsb' 29 2 = f.stall ∧ (packWord op f).extractLsb' 18 3 = f.g ∧
    (packWord op f).extractLsb' 12 6 = f.d ∧ (packWord op f).extractLsb' 6 6 = f.a ∧ (packWord op f).extractLsb' 0 6 = f.b := by
  refine ⟨?_, ?_, ?_, ?_, ?_⟩
  all_goals repeat refine extract_above (by decide) ?_
  all_goals exact BitVec.extractLsb'_append_eq_right

/-- The fields of the extension word (R71). -/
theorem packExt_fields (f : Fields) :
    (packExt f).extractLsb' 27 3 = f.w ∧ (packExt f).extractLsb' 22 2 = f.rm ∧ (packExt f).extractLsb' 15 6 = f.c ∧
    (packExt f).extractLsb' 0 15 = f.mod := by
  refine ⟨?_, ?_, ?_, ?_⟩
  all_goals repeat refine extract_above (by decide) ?_
  all_goals exact BitVec.extractLsb'_append_eq_right

/-- The flags of the extension word, whose bit 31 is clear (R71). -/
theorem packExt_flags (f : Fields) :
    (packExt f).getLsbD 31 = false ∧ (packExt f).getLsbD 30 = f.gn ∧ (packExt f).getLsbD 26 = f.aq ∧
    (packExt f).getLsbD 25 = f.bq ∧ (packExt f).getLsbD 24 = f.cq ∧ (packExt f).getLsbD 21 = f.sat := by
  refine ⟨?marker, ?_, ?_, ?_, ?_, ?_⟩
  all_goals repeat refine getLsbD_above (by decide) ?_
  case marker => exact BitVec.getLsbD_zero
  all_goals exact getLsbD_append_ofBool _ _

/-- The words of well-formed fields give them back; those of one word have the defaults of R72. -/
theorem unpack_packWord {f : Fields} {e : Word} (op : BitVec 7) (h : f.wf = true) (he : f.x = true → e = packExt f) :
    unpack (packWord op f) e = f := by
  obtain ⟨-, hx, -⟩ := packWord_bits op f
  obtain ⟨hstall, hg, hd, ha, hb⟩ := packWord_fields op f
  unfold unpack
  simp only [hx, hstall, hg, hd, ha, hb]
  cases hfx : f.x with
  | true =>
    obtain ⟨hw, hrm, hc, hmod⟩ := packExt_fields f
    obtain ⟨-, hgn, haq, hbq, hcq, hsat⟩ := packExt_flags f
    simp only [he hfx, if_true, hw, hrm, hc, hmod, hgn, haq, hbq, hcq, hsat]
    rw [← hfx]
  | false =>
    simp only [Fields.wf, hfx, Bool.false_or, Bool.and_eq_true, Bool.not_eq_true', decide_eq_true_eq] at h
    obtain ⟨⟨⟨⟨⟨⟨⟨⟨hgn, hw⟩, haq⟩, hbq⟩, hcq⟩, hrm⟩, hsat⟩, hc⟩, hmod⟩ := h
    obtain ⟨stall, x, g, d, a, b, gn, w, aq, bq, cq, rm, sat, c, mod⟩ := f
    subst hgn hw haq hbq hcq hrm hsat hc hmod hfx
    simp [defaultExt]

/-- A word's four bytes make it again (R65). -/
theorem wordOf_bytes (w : Word) :
    wordOf (w.extractLsb' 0 8) (w.extractLsb' 8 8) (w.extractLsb' 16 8) (w.extractLsb' 24 8) = w := by
  unfold wordOf
  rw [BitVec.extractLsb'_append_extractLsb'_eq_extractLsb' (show 24 = 16 + 8 from rfl),
    BitVec.extractLsb'_append_extractLsb'_eq_extractLsb' (show 16 = 8 + 8 from rfl),
    BitVec.extractLsb'_append_extractLsb'_eq_extractLsb' (show 8 = 0 + 8 from rfl)]
  exact BitVec.extractLsb'_eq_self

/-- The packed words of a well-formed instruction decode to it (R67, R68, R73). -/
theorem decodeWords_pack {i : Instr} {cls : BitVec 3} {op : BitVec 7} {f : Fields} {e : Word} (h : i.wf = true)
    (hc : codeOf i = some (cls, op, f)) (he : f.x = true → e = packExt f) : decodeWords cls (packWord op f) e = .ok i := by
  obtain ⟨hmake, hf⟩ := codes i cls op f h hc
  obtain ⟨hmark, hx, hop⟩ := packWord_bits op f
  have hext : (f.x && e.getLsbD 31) = false := by
    cases hfx : f.x with
    | false => rfl
    | true => rw [he hfx, (packExt_flags f).1]; rfl
  unfold decodeWords
  rw [hmark, hx, hext, hop, unpack_packWord op hf he, hmake]
  rfl

/-- Settles O58: by one word or two, whose bytes make them again. -/
theorem encodeThenDecode : Obligations.EncodeThenDecode := by
  intro i cls ws rest hw he
  unfold encode at he
  split at he
  · cases he
  next cls' op f hc =>
    injection he with he
    obtain ⟨rfl, rfl⟩ := Prod.mk.inj he
    obtain ⟨-, hx, -⟩ := packWord_bits op f
    cases hfx : f.x with
    | true =>
      have hd := decodeWords_pack (e := packExt f) hw hc fun _ => rfl
      simp only [if_true, bytesOfWords, List.flatMap_cons, List.flatMap_nil, List.append_nil, List.cons_append, List.nil_append,
        decodeBytes, wordOf_bytes, hx, hfx, hd]
    | false =>
      have hd := decodeWords_pack (e := 0) hw hc fun h => by rw [hfx] at h; cases h
      simp only [if_false, Bool.false_eq_true, bytesOfWords, List.flatMap_cons, List.flatMap_nil, List.append_nil, List.cons_append,
        List.nil_append, decodeBytes, wordOf_bytes, hx, hfx, hd]

/-! ### Words of the spec (R65, R68, R71, R73) -/

/-- Settles O57: each word is decoded by evaluation. -/
theorem decodeWords : Obligations.DecodeWords := by
  unfold Obligations.DecodeWords
  refine ⟨rfl, rfl, rfl, rfl, rfl, rfl, rfl, rfl, rfl, rfl⟩

end Sys2Proof.Laws
end

section
/-!
Proofs about the machine as a whole: the phase of a barrier (R242), what reset leaves (R304, R335, R355), and which
instruction a step runs (R67, R68).
-/

namespace Sys2Proof.Machine

/-! ### The phase of a barrier (R242) -/

/-- The completion of a phase touches phase and arrivals alone. -/
theorem Bar.complete_keeps (b : Bar) :
    b.complete.expect = b.expect ∧ b.complete.members = b.members ∧ b.complete.pend = b.pend := by
  unfold Bar.complete; split <;> exact ⟨rfl, rfl, rfl⟩

/-- Settles O27: an arrival adds one to ARRIVE, which is below its limit, and then the phase completes or not. -/
theorem phaseCompletion : Obligations.PhaseCompletion := by
  intro b g hlt
  have hmin : min 63 (b.arrive + 1) = b.arrive + 1 := Nat.min_eq_right hlt
  refine ⟨fun hle hp => ?completes, fun hn => ?stays, ?keeps⟩
  case completes =>
    unfold Bar.arrival Bar.complete
    simp only [hmin, if_pos (And.intro hle hp), and_self]
  case stays =>
    have hno : ¬(b.expect ≤ b.arrive + 1 ∧ b.pend = 0) := fun ⟨hle, hp⟩ => hn.elim (Nat.not_lt.2 hle) (· hp)
    unfold Bar.arrival Bar.complete
    simp only [hmin, if_neg hno, and_self]
  case keeps => exact Bar.complete_keeps _

/-! ### What reset leaves -/

theorem Mem.read_reset (key a : Nat) : State.reset.mem.read key a = 0 := Mem.read_plain (.inl rfl)

theorem State.reset_inv : State.reset.Inv := ⟨Memory.reset_wf, nofun, nofun⟩

/-- Settles O59: reset is a literal, whose fields are read off; memory reads zero where no byte is listed. -/
theorem resetState : Obligations.ResetState := by
  have hmap : ∀ n, n < 8 → mapEntry State.reset.pkg.planeMap n = n := by decide
  exact ⟨State.reset_inv, rfl, rfl, hmap, rfl, rfl, rfl, rfl, rfl, rfl, rfl, rfl, Mem.read_reset, rfl, rfl, rfl⟩

/-! ### What a step runs (R67, R68) -/

/-- A word without X says nothing of the word after it (R68, R72). -/
theorem decodeWords_congr {cls : BitVec 3} {w e e' : Word} (h : w.getLsbD 28 = true → e = e') :
    decodeWords cls w e = decodeWords cls w e' := by
  cases hx : w.getLsbD 28 with
  | true => rw [h hx]
  | false => simp only [decodeWords, unpack, hx, Bool.false_and, Bool.false_eq_true, if_false]

section
variable {s : State} {aid : AgentId} {g : Gang} {x : Slice} {b : Block}

/-- The words at an agent's point, decoded. -/
theorem State.fetch_words {w e : Word} {i : Instr} (hg : s.gang? aid.gang = some g) (hx : g.lead aid.slice = some x)
    (hb : s.block? g.block = some b) (hw : s.code b.part x.point.pc = some w)
    (he : w.getLsbD 28 = true → s.code b.part (x.point.pc + 4) = some e)
    (hd : decodeWords (BitVec.ofNat 3 x.point.cls) w e = .ok i) : s.fetch aid = some i := by
  have hext : w.getLsbD 28 = true → (s.code b.part (x.point.pc + 4)).getD 0 = e := fun h => by rw [he h]; rfl
  have hd' := (decodeWords_congr hext).trans hd
  unfold State.fetch
  simp only [hg, hx, hb, hw, hd']

/-- Without a word at its point the agent has nothing to issue. -/
theorem State.fetch_none (hg : s.gang? aid.gang = some g) (hx : g.lead aid.slice = some x) (hb : s.block? g.block = some b)
    (hw : s.code b.part x.point.pc = none) : s.fetch aid = none := by
  unfold State.fetch
  simp only [hg, hx, hb, hw]

end

theorem State.lives_iff {s : State} : s.lives ↔ s.pkg.live = true := by
  simp [State.lives, Package.live]

/-- Settles O56: by who acts: the agent that holds the issue, what comes from outside, the package itself. -/
theorem stepRunsDecoded : Obligations.StepRunsDecoded := by
  intro s
  refine ⟨fun aid g x b hi hg hx hb => ⟨fun w e i hw he hd => ?_, fun hw => ?_⟩, fun hi => ⟨fun i rest hin => ?_, fun hin hl => ?_,
    fun hin hl => ?_⟩⟩
  · unfold step; rw [hi]; dsimp only; rw [State.fetch_words hg hx hb hw he hd]
  · unfold step; rw [hi]; dsimp only; rw [State.fetch_none hg hx hb hw]
  · unfold step; rw [hi, hin]
  · unfold step; rw [hi, hin]; exact if_pos (State.lives_iff.1 hl)
  · unfold step; rw [hi, hin]; exact if_neg fun h => hl (State.lives_iff.2 h)

end Sys2Proof.Machine
end

section
/-!
What an instruction that completes leaves: one lemma for every instruction whose own part is done (R79, R81), and the states
of several results in the executing lanes, and of one result of the agent (R80, R107, R135).
-/

namespace Sys2Proof.Machine

section
variable {s t u : State} {cls op : Nat} {f : Fields} {c : Ctx} {b : Body} {g h : Gang} {r : RFile} {x : Nat} {v : Nat → Reg}

/-! ### Gangs that stand where they stood -/

theorem Gang.standing_writeShared (g : Gang) (sl : Option Nat) (now choice lat w : Nat) (r : RFile) (i : Nat) (v : Reg) :
    (g.writeShared sl now choice lat w r i v).standing = g.standing := by
  unfold Gang.writeShared
  split
  · exact (Gang.standing_writeR _ ..).trans rfl
  · exact Gang.standing_writeR ..

/-- A gang that stands where it stood has the number, kind and life that it had. -/
theorem Gang.standing_named (e : h.standing = g.standing) : h.id = g.id ∧ h.kind = g.kind ∧ h.life = g.life := by
  simp only [Gang.standing, Prod.mk.injEq] at e
  obtain ⟨hid, hkind, hlife, -⟩ := e
  exact ⟨hid, hkind, hlife⟩

theorem State.Untwinned.modStanding {gid i : Nat} {f : Gang → Gang} (h : s.Untwinned gid) (hf : ∀ g, (f g).standing = g.standing) :
    (s.modGang i f).Untwinned gid :=
  h.modGang fun g => Gang.standing_named (hf g)

/-! ### An instruction that completes -/

/-- The state `t` in which an instruction's own part ends is ready for the end of its issue: its gang has no twin and stands at
the instruction. -/
structure Ctx.Done (c : Ctx) (t : State) (h : Gang) : Prop where
  untwinned : t.Untwinned c.aid.gang
  gang : t.gang? c.g.id = some h
  stands : h.StandsAs c

/-- The state in which an instruction that nothing stands before begins to act. -/
theorem Sees.done_begun (hs : Sees s cls op f c) (hu : c.Undisturbed s) :
    c.Done (s.begun c.aid) (c.g.modAgent c.aid.slice (fun x => { x with hold := .none })) :=
  ⟨hu.untwinned_begun hs, hs.begun_gang, Gang.standsAs_begun c⟩

/-- A change of the agent's gang that leaves it where it stands. -/
theorem Ctx.Done.modGang {f : Gang → Gang} (hd : c.Done t g) (hf : ∀ g, (f g).standing = g.standing) :
    c.Done (t.modGang c.g.id f) (f g) where
  untwinned := hd.untwinned.modStanding hf
  gang := by rw [State.gang?_modGang_same fun g => (Gang.standing_named (hf g)).1, hd.gang]; rfl
  stands := hd.stands.of_standing (hf g)

/-- A change of the state that names no gang. -/
theorem Ctx.Done.of_gangs (hd : c.Done t g) (hg : u.gangs = t.gangs) : c.Done u g where
  untwinned := hd.untwinned.of_gangs hg
  gang := by unfold State.gang?; rw [hg]; exact hd.gang
  stands := hd.stands

/-- The end of the issue of an instruction that completes: its agent goes on behind it, and nothing that Frame names changes. -/
theorem Ctx.Done.finish (hd : c.Done t h) (hid : c.g.id = c.aid.gang) (rst : Bool) :
    c.goesOn (t.finish c rst false) ∧ Frame nothing (· = 0x07) t (t.finish c rst false) :=
  ⟨State.finish_goesOn hid hd.gang hd.stands, Frame.finish c _ _ hd.untwinned rfl⟩

/-- What is consumed of poisoned stack entries changes what is poisoned, and nothing else (R346). -/
theorem State.consumed_eq (s o : State) (gid : Nat) : ∃ e, s.consumed o gid = { s with errs := e } := by
  unfold State.consumed
  split
  · exact ⟨s.errs, rfl⟩
  · split <;> exact ⟨_, rfl⟩

/-- An instruction that nothing stands before and whose own part is done completes: its issue ends, and marks of poison that
it has consumed stay. -/
theorem issueOp_completes (hs : Sees s cls op f c) (hu : c.Unhindered s (b.late c (s.begun c.aid)) (b.more c))
    (ht : b.target c (s.begun c.aid) = none) (hx : b.unassigned = none) (hw : c.targetsThere b (s.begun c.aid))
    (hr : b.run c (s.begun c.aid) = .done t) :
    ∃ e, issueOp cls op f b s = .next { t.finish c (b.rst c) false with errs := e } := by
  have ho : c.conclude b (c.result b (s.begun c.aid)) = t.finish c (b.rst c) false := by
    rw [hu.result ht hx hw (by rw [hr]; nofun), hr]; rfl
  have hi : c.issue b (s.begun c.aid) = t.finish c (b.rst c) false := by
    unfold Ctx.issue
    split
    next p hp => exact absurd hp (hu.kind p)
    · simp only [State.shadowOf_begun hu.alone, ho]
  obtain ⟨e, he⟩ := (t.finish c (b.rst c) false).consumed_eq { s with issuing := none } c.aid.gang
  exact ⟨e, by rw [issueOp_next hs, hi, he]⟩

/-- What lies outside `nothing` is everything. -/
theorem Frame.of_nothing {W : Nat → RFile → Nat → Nat → Prop} {T : Nat → Prop} (hf : Frame nothing T s t) : Frame W T s t :=
  ⟨fun i g hg => by
    obtain ⟨h, hh, hrest, hregs, hk⟩ := hf.gangs i g hg
    exact ⟨h, hh, hrest, hregs, fun r x l hl _ => hk r x l hl id⟩, hf.blocks, hf.mem⟩

/-- An instruction that nothing stands before and whose own part is done leaves the results that this part leaves. -/
theorem resultsFrom_of_done {i : Instr} {l : List (RFile × Nat × (Nat → Reg))} (hi : exec i s = issueOp cls op f b s)
    (hs : Sees s cls op f c) (hu : c.Unhindered s (b.late c (s.begun c.aid)) (b.more c))
    (ht : b.target c (s.begun c.aid) = none) (hx : b.unassigned = none) (hw : c.targetsThere b (s.begun c.aid))
    (hr : b.run c (s.begun c.aid) = .done t) (hd : c.Done t h)
    (hf : Frame (c.may (l.map (fun p => (p.1, p.2.1)))) (· = 0x07) u t)
    (hv : ∀ p ∈ l, ∀ lane, lane < 32 → hasLane c.exec lane = true → h.getR p.1 p.2.1 lane =
      if ignoredReg p.1 p.2.1 then c.g.getR p.1 p.2.1 lane else p.2.2 lane) : ResultsFrom i s u c l := by
  obtain ⟨-, hid, -⟩ := hs.spec
  obtain ⟨e, hnext⟩ := issueOp_completes hs hu ht hx hw hr
  obtain ⟨hgo, hfin⟩ := hd.finish hid (b.rst c)
  obtain ⟨k, hk, -, -, hkeep⟩ := hfin.gangs _ h hd.gang
  exact ⟨_, k, hi.trans hnext, hk, fun p hp lane hl he => (hkeep _ _ _ hl id).trans (hv p hp lane hl he),
    hf.trans (hfin.of_nothing.trans (.of_eq rfl rfl rfl)), hgo⟩

/-- An instruction that nothing stands before and whose own part is done completes. -/
theorem doneFrom_of_done {i : Instr} (hi : exec i s = issueOp cls op f b s)
    (hs : Sees s cls op f c) (hu : c.Unhindered s (b.late c (s.begun c.aid)) (b.more c))
    (ht : b.target c (s.begun c.aid) = none) (hx : b.unassigned = none) (hw : c.targetsThere b (s.begun c.aid))
    (hr : b.run c (s.begun c.aid) = .done t) (hd : c.Done t h) (hf : Frame nothing (· = 0x07) u t) : DoneFrom i s u c := by
  obtain ⟨-, hid, -⟩ := hs.spec
  obtain ⟨e, hnext⟩ := issueOp_completes hs hu ht hx hw hr
  obtain ⟨hgo, hfin⟩ := hd.finish hid (b.rst c)
  exact ⟨_, hi.trans hnext, hf.trans (hfin.trans (.of_eq rfl rfl rfl)), hgo⟩

/-! ### Several results in the executing lanes (R80, R107) -/

/-- Fixed-latency results one after another. -/
def Ctx.puts (c : Ctx) (s : State) (l : List (RFile × Nat × (Nat → Reg))) : State :=
  l.foldl (fun s p => c.put s p.1 p.2.1 p.2.2) s

/-- The registers of two results are apart: of other files, or of other numbers. -/
def apart (p q : RFile × Nat × (Nat → Reg)) : Prop := q.1 ≠ p.1 ∨ q.2.1 ≠ p.2.1

/-- A list of results of d and p registers, each a value of its file and no two in one register. -/
structure Resulting (l : List (RFile × Nat × (Nat → Reg))) : Prop where
  files : ∀ p ∈ l, p.1 = .d ∨ p.1 = .p
  fit : ∀ p ∈ l, ∀ lane, fits p.1 (p.2.2 lane)
  apart : l.Pairwise apart

/-- A result leaves what another register holds and awaits. -/
theorem Gang.writes_apart (g : Gang) (now choice lat w : Nat) {p q : RFile × Nat × (Nat → Reg)} (hp : p.1 = .d ∨ p.1 = .p)
    (ha : Machine.apart p q) {ls : List Nat} (hls : ∀ l ∈ ls, l < 32) :
    let k := ls.foldl (fun g l => g.writeR now choice lat w p.1 p.2.1 l (p.2.2 l)) g
    (∀ lane, lane < 32 → k.getR q.1 q.2.1 lane = g.getR q.1 q.2.1 lane) ∧
    ∀ lane, k.oldOf now q.1 q.2.1 lane = g.oldOf now q.1 q.2.1 lane := by
  refine ⟨fun lane hl => Gang.getR_writes_other g _ _ _ _ _ _ _ _ _ _ hls lane hl ?_, fun lane => ?_⟩
  · refine ha.imp_right fun h => .inl ⟨?_, h⟩
    rcases hp with e | e <;> rw [e] <;> nofun
  · induction ls generalizing g with
    | nil => rfl
    | cons a t ih =>
      rw [List.foldl_cons, ih _ fun l hl => hls l (List.mem_cons_of_mem _ hl)]
      exact Gang.oldOf_writeR_other _ _ _ _ _ _ _ _ _ _ _ _ (ha.imp_right .inl)

/-- Results of registers apart, over no pending write: each register holds its own. -/
theorem Ctx.Done.puts {l : List (RFile × Nat × (Nat → Reg))} (hl : Resulting l) (hd : c.Done t g)
    (ho : ∀ p ∈ l, ∀ lane, g.oldOf c.now p.1 p.2.1 lane = none) :
    ∃ h, c.Done (c.puts t l) h ∧
      (∀ p ∈ l, ∀ lane, lane < 32 → hasLane c.exec lane = true → h.getR p.1 p.2.1 lane =
        if ignoredReg p.1 p.2.1 then g.getR p.1 p.2.1 lane else p.2.2 lane) ∧
      ∀ q, (∀ p ∈ l, Machine.apart p q) → (∀ lane, lane < 32 → h.getR q.1 q.2.1 lane = g.getR q.1 q.2.1 lane) ∧
        ∀ lane, h.oldOf c.now q.1 q.2.1 lane = g.oldOf c.now q.1 q.2.1 lane := by
  induction l generalizing t g with
  | nil => exact ⟨g, hd, nofun, fun _ _ => ⟨fun _ _ => rfl, fun _ => rfl⟩⟩
  | cons p l ih =>
    obtain ⟨hap, hpw⟩ := List.pairwise_cons.1 hl.apart
    have hfile := hl.files p (List.mem_cons_self ..)
    have hr : p.1 ≠ .q ∧ p.1 ≠ .c := by rcases hfile with e | e <;> rw [e] <;> exact ⟨nofun, nofun⟩
    have hstand := fun g => Gang.standing_writes c.now c.choice c.e.lat c.w p.1 p.2.1 p.2.2 (lanesOf c.exec) g
    obtain ⟨k, hk, -, hval⟩ := Ctx.put_spec (c := c) (x := p.2.1) hd.gang hr (hl.fit p (List.mem_cons_self ..))
      (ho p (List.mem_cons_self ..))
    have hput : c.Done (c.put t p.1 p.2.1 p.2.2) k := by
      have h1 : c.Done (c.put t p.1 p.2.1 p.2.2) _ := hd.modGang hstand
      have e := h1.gang.symm.trans hk
      cases e; exact h1
    have hkg : k = (lanesOf c.exec).foldl (fun g l => g.writeR c.now c.choice c.e.lat c.w p.1 p.2.1 l (p.2.2 l)) g :=
      Option.some.inj (hk.symm.trans (Ctx.put_gang hd.gang))
    have hother : ∀ q, Machine.apart p q → (∀ lane, lane < 32 → k.getR q.1 q.2.1 lane = g.getR q.1 q.2.1 lane) ∧
        ∀ lane, k.oldOf c.now q.1 q.2.1 lane = g.oldOf c.now q.1 q.2.1 lane := fun q hq => by
      rw [hkg]
      exact g.writes_apart _ _ _ _ hfile hq fun l hl => (mem_lanesOf.1 hl).1
    obtain ⟨h, hh, hin, hout⟩ := ih ⟨fun q hq => hl.files q (List.mem_cons_of_mem _ hq),
        fun q hq => hl.fit q (List.mem_cons_of_mem _ hq), hpw⟩ hput
      fun q hq lane => ((hother q (hap q hq)).2 lane).trans (ho q (List.mem_cons_of_mem _ hq) lane)
    refine ⟨h, hh, fun q hq lane hlt he => ?_, fun q hq => ?_⟩
    · rcases List.mem_cons.1 hq with rfl | hq
      · rw [(hout q (fun r hr => (hap r hr).imp Ne.symm Ne.symm)).1 lane hlt, hval lane hlt he]
      · rw [hin q hq lane hlt he, (hother q (hap q hq)).1 lane hlt]
    · obtain ⟨hget, hold⟩ := hout q fun r hr => hq r (List.mem_cons_of_mem _ hr)
      obtain ⟨hget', hold'⟩ := hother q (hq p (List.mem_cons_self ..))
      exact ⟨fun lane hlt => (hget lane hlt).trans (hget' lane hlt), fun lane => (hold lane).trans (hold' lane)⟩

/-- What lies outside a list of registers lies outside each of them. -/
theorem Ctx.not_may_mem {l : List (RFile × Nat)} {p : RFile × Nat} (hp : p ∈ l) {r' : RFile} {x' lane : Nat}
    (h : ¬c.may l c.g.id r' x' lane) : ¬c.may [p] c.g.id r' x' lane := fun ⟨h1, ⟨q, hq, h2⟩, h3⟩ =>
  h ⟨h1, ⟨p, hp, by rw [← List.mem_singleton.1 hq]; exact h2⟩, h3⟩

/-- Results write their registers in the executing lanes, and nothing else. -/
theorem Frame.puts {T : Nat → Prop} (s : State) (l m : List (RFile × Nat × (Nat → Reg))) (hm : ∀ p ∈ l, p ∈ m) :
    Frame (c.may (m.map (fun p => (p.1, p.2.1)))) T s (c.puts s l) := by
  induction l generalizing s with
  | nil => exact .refl s
  | cons p l ih =>
    refine (Frame.put (i := p.2.1) fun r' x lane hn => Ctx.not_may_one (Ctx.not_may_mem ?_ hn)).trans
      (ih (c.put s p.1 p.2.1 p.2.2) fun q hq => hm q (List.mem_cons_of_mem _ hq))
    exact List.mem_map_of_mem (f := fun p => (p.1, p.2.1)) (hm p (List.mem_cons_self ..))

/-- A vector instruction whose own part writes results of registers apart gives them all (R80, R107). -/
theorem givesAll_of_puts {i : Instr} {run : Ctx → State → Res} {l : Ctx → List (RFile × Nat × (Nat → Reg))}
    (hi : ∀ s, exec i s = issueOp cls op f { run := run } s)
    (hrun : ∀ s c, Sees s cls op f c → c.Unhindered s false [] →
      Resulting (l c) ∧ run c (s.begun c.aid) = .done (c.puts (s.begun c.aid) (l c))) :
    GivesAll i cls op f l := by
  intro s c hs hu hl
  obtain ⟨hres, hr⟩ := hrun s c hs hu
  obtain ⟨h, hd, hval, -⟩ := (hs.done_begun hu.toUndisturbed).puts hres fun p hp lane => (c.g.oldOf_modAgent ..).trans (hl p hp lane)
  refine resultsFrom_of_done (hi s) hs hu rfl rfl (Ctx.targetsThere_nil rfl) hr hd
    ((Frame.begun s c.aid).trans (Frame.puts _ _ _ fun _ => id)) fun p hp lane hlt he => ?_
  rw [hval p hp lane hlt he, Gang.getR_modAgent]

/-- An instruction whose only effect is a predicate gives it the value that it computes where nothing stands before it. -/
theorem givesP_of_vecP {i : Instr} {v' v : Ctx → Nat → Bool} (hi : ∀ s, exec i s = issueOp 0 op f (vecP v') s)
    (hv : ∀ s c, Sees s 0 op f c → c.Unhindered s false [] → ∀ l, v' c l = v c l) : GivesP i op f v :=
  gives_of_put ⟨nofun, nofun⟩ hi (fun _ _ => fits_boolReg _) fun s c hs hu => by
    obtain ⟨-, -, -, -, -, hf, -⟩ := hs.spec
    rw [hf, funext fun l => congrArg boolReg (hv s c hs hu l)]

/-! ### One result of the agent (R80, R135) -/

theorem any_of_hasLane {lane : Nat} (h : hasLane c.exec lane = true) : c.any = true := by
  refine decide_eq_true fun e => ?_
  rw [e] at h
  simp [hasLane] at h

/-- The register of a result of the agent, over no pending write. -/
theorem Ctx.Done.putQ {v : Reg} (hd : c.Done t g) (hr : r = .q ∨ r = .c) (ho : g.oldOf c.now r x 0 = none) :
    ∃ h, c.Done (c.putQ t r x v) h ∧ (c.any = true → ∀ lane, h.getR r x lane = if ignoredReg r x then g.getR r x lane else v) ∧
      (c.any = false → h = g) := by
  cases hany : c.any with
  | false =>
    refine ⟨g, ?_, nofun, fun _ => rfl⟩
    unfold Ctx.putQ; rw [hany]; exact hd
  | true =>
    refine ⟨g.writeShared c.aid.slice c.now c.choice c.e.lat c.w r x v, ?_, fun _ lane => ?_, nofun⟩
    · unfold Ctx.putQ; rw [hany]; exact hd.modGang fun g => g.standing_writeShared ..
    · have hlane : ∀ k : Gang, k.getR r x lane = k.getR r x 0 := fun k => by rcases hr with rfl | rfl <;> rfl
      rw [hlane, hlane g]
      split
      next hi =>
        unfold Gang.writeShared
        simp only [ho, Option.isSome_none, Bool.and_false, Bool.false_eq_true, if_false]
        rw [show g.writeR c.now c.choice c.e.lat c.w r x 0 v = g from if_pos hi]
      next hi =>
        refine Gang.getR_writeShared_same _ _ _ _ _ _ _ _ _ (by simpa using hi) ho ?_
        rcases hr with rfl | rfl
        · exact fits_q v
        · exact fits_c v

/-- What lies outside the agent's one register. -/
theorem Ctx.not_may_shared {r' : RFile} {x' l : Nat} (hr : r = .q ∨ r = .c) (h : ¬c.may [(r, x)] c.g.id r' x' l) :
    r' ≠ r ∨ (r ≠ .amax ∧ x' ≠ x) := by
  rcases Ctx.not_may_one h with h | h | h
  · exact .inl h
  · exact .inr h
  · rcases hr with e | e
    · exact absurd e h.1
    · exact absurd e h.2.1

/-- An instruction whose own part writes one register of the agent, from a state that is ready, gives it the value (R135). -/
theorem resultsFrom_of_putQ {i : Instr} {v : Reg} (hi : exec i s = issueOp cls op f b s) (hs : Sees s cls op f c)
    (hu : c.Unhindered s (b.late c (s.begun c.aid)) (b.more c))
    (ht : b.target c (s.begun c.aid) = none) (hx : b.unassigned = none) (hw : c.targetsThere b (s.begun c.aid))
    (hr : r = .q ∨ r = .c) (hrun : b.run c (s.begun c.aid) = .done (c.putQ t r x v)) (hd : c.Done t g)
    (hg : ∀ lane, g.getR r x lane = c.g.getR r x lane) (ho : g.oldOf c.now r x 0 = none)
    (hf : Frame (c.may [(r, x)]) (· = 0x07) u t) : ResultsFrom i s u c [(r, x, fun _ => v)] := by
  obtain ⟨h, hh, hval, -⟩ := hd.putQ (v := v) hr ho
  refine resultsFrom_of_done hi hs hu ht hx hw hrun hh
    (hf.trans (Frame.putQ fun r' x' l hn => Ctx.not_may_shared hr hn)) fun p hp lane _ he => ?_
  obtain rfl := List.mem_singleton.1 hp
  rw [hval (any_of_hasLane he) lane, hg]

/-- The same where nothing else changes. -/
theorem gives_of_putQ {i : Instr} {run : Ctx → State → Res} {v : Ctx → Reg} (hr : r = .q ∨ r = .c)
    (hi : ∀ s, exec i s = issueOp cls op f { run := run } s)
    (hrun : ∀ s c, Sees s cls op f c → c.Unhindered s false [] →
      run c (s.begun c.aid) = .done (c.putQ (s.begun c.aid) r x (v c))) :
    Gives i cls op f r x (fun c _ => v c) := fun s c hs hu hl =>
  resultsFrom_of_putQ (hi s) hs hu rfl rfl (Ctx.targetsThere_nil rfl) hr (hrun s c hs hu) (hs.done_begun hu.toUndisturbed)
    (fun _ => Gang.getR_modAgent ..) ((c.g.oldOf_modAgent ..).trans (hl 0)) (Frame.begun s c.aid)

end

end Sys2Proof.Machine
end

section
/-!
Proofs of the vector instructions that compute per lane (06): integer arithmetic with IADDC's carry chain (R110 to R113), logic,
shifts and fields (R114 to R116), float arithmetic and comparison (R117, R118), moves and PMOV (R124, R125, R127).
-/

namespace Sys2Proof.Machine

/-! ### The bits of packed and replaced elements (R93) -/

/-- Sums of elements below `2^w` at their places: element `k` stands in bits `w * k` and up. -/
theorem testBit_packed (w : Nat) (f : Nat → Nat) (n : Nat) :
    let s := (List.range n).foldl (fun acc k => acc + (f k % 2 ^ w) * 2 ^ (w * k)) 0
    s < 2 ^ (w * n) ∧ ∀ k i, k < n → i < w → s.testBit (w * k + i) = (f k).testBit i := by
  induction n with
  | zero => exact ⟨by simp, nofun⟩
  | succ n ih =>
    obtain ⟨hlt, hbit⟩ := ih
    simp only [List.range_succ, List.foldl_append, List.foldl_cons, List.foldl_nil] at *
    generalize (List.range n).foldl (fun acc k => acc + (f k % 2 ^ w) * 2 ^ (w * k)) 0 = s at *
    rw [Nat.add_comm s, Nat.mul_comm (f n % 2 ^ w)]
    refine ⟨?_, fun k i hk hi => ?_⟩
    · have hf : f n % 2 ^ w + 1 ≤ 2 ^ w := Nat.mod_lt _ (Nat.two_pow_pos w)
      calc 2 ^ (w * n) * (f n % 2 ^ w) + s < 2 ^ (w * n) * (f n % 2 ^ w + 1) := by rw [Nat.mul_add, Nat.mul_one]; omega
        _ ≤ 2 ^ (w * n) * 2 ^ w := Nat.mul_le_mul_left _ hf
        _ = 2 ^ (w * (n + 1)) := by rw [← Nat.pow_add, Nat.mul_succ]
    · rw [Nat.testBit_two_pow_mul_add _ hlt]
      rcases Nat.lt_or_ge k n with hkn | hkn
      · have : w * k + w ≤ w * n := by rw [← Nat.mul_succ]; exact Nat.mul_le_mul_left w hkn
        rw [if_pos (by omega), hbit k i hkn hi]
      · obtain rfl : k = n := by omega
        rw [if_neg (by omega), Nat.add_sub_cancel_left, Nat.testBit_mod_two_pow, decide_eq_true hi, Bool.true_and]

/-- A bit of a packed register is a bit of its element. -/
theorem getLsbD_packN {w n k i : Nat} (f : Nat → Nat) (hk : k < n) (hi : i < w) (h64 : w * k + i < 64) :
    (packN w n f).getLsbD (w * k + i) = (f k).testBit i := by
  unfold packN
  rw [BitVec.getLsbD_ofNat, decide_eq_true h64, Bool.true_and]
  exact (testBit_packed w f n).2 k i hk hi

/-- A bit of a register with element `k` replaced. -/
theorem getLsbD_setElem {w k j : Nat} (r : Reg) (v : Nat) (hj : j < 64) :
    (setElem w k r v).getLsbD j = if w * k ≤ j ∧ j < w * k + w then v.testBit (j - w * k) else r.getLsbD j := by
  have hmask : (BitVec.ofNat 64 ((2 ^ w - 1) * 2 ^ (w * k))).getLsbD j = decide (w * k ≤ j ∧ j < w * k + w) := by
    rw [BitVec.getLsbD_ofNat, decide_eq_true hj, Bool.true_and, Nat.mul_comm, Nat.testBit_two_pow_mul, Nat.testBit_two_pow_sub_one,
      ← Bool.decide_and, decide_eq_decide]
    omega
  have hval : (BitVec.ofNat 64 (v * 2 ^ (w * k))).getLsbD j = (decide (w * k ≤ j) && v.testBit (j - w * k)) := by
    rw [BitVec.getLsbD_ofNat, decide_eq_true hj, Bool.true_and, Nat.mul_comm, Nat.testBit_two_pow_mul]
  unfold setElem
  simp only [BitVec.getLsbD_or, BitVec.getLsbD_and, BitVec.getLsbD_not, hj, decide_true, Bool.true_and, hmask, hval]
  by_cases h : w * k ≤ j ∧ j < w * k + w
  · simp [h]
  · simp [h]

/-- A width of vector elements divides a register (R71, R93). -/
theorem Ctx.w_cases (c : Ctx) : c.w = 8 ∨ c.w = 16 ∨ c.w = 32 ∨ c.w = 64 := by
  unfold Ctx.w widthOf
  have hn : ∀ n < 8, min 64 (8 * 2 ^ n) = 8 ∨ min 64 (8 * 2 ^ n) = 16 ∨ min 64 (8 * 2 ^ n) = 32 ∨ min 64 (8 * 2 ^ n) = 64 := by decide
  exact hn _ c.f.w.isLt

theorem Ctx.w_mul (c : Ctx) : 0 < c.w ∧ c.w * (64 / c.w) = 64 := by
  rcases c.w_cases with h | h | h | h <;> rw [h] <;> decide

/-! ### Integer arithmetic (R110) -/

/-- Settles O1: the model computes each element as the statement does; its minimum and maximum choose by the order. -/
theorem integerArithmetic : Obligations.IntegerArithmetic := by
  intro f
  have hf : ∀ {s c op}, Sees s 0 op f c → c.f = f := fun h => by obtain ⟨-, -, -, -, -, hf, -⟩ := h.spec; exact hf
  refine ⟨?_, ?_, ?_, ?_, ?_, ?min, ?max, ?abs, ?neg⟩
  case min => exact givesD_of_vecD (fun _ => rfl) fun _ _ _ _ _ => by simp only [intPlain, intOp, Int.min_def]
  case max => exact givesD_of_vecD (fun _ => rfl) fun _ _ _ _ _ => by simp only [intPlain, intOp, Int.max_def]
  case abs => exact givesD_of_vecD (fun _ => rfl) fun _ _ hs _ _ => by rw [← hf hs]; rfl
  case neg => exact givesD_of_vecD (fun _ => rfl) fun _ _ hs _ _ => by rw [← hf hs]; rfl
  all_goals exact givesD_of_vecD (fun _ => rfl) fun _ _ _ _ _ => rfl

/-! ### The carry chain (R111) -/

/-- The chain as the model runs it, from the lowest element up: the carry of the first element, then the chain above it. -/
theorem carryInto_succ (w first : Nat) (a b : Reg) (cy n : Nat) :
    carryInto w first a b cy (n + 1) = carryInto w (first + 1) a b ((elem w first a + elem w first b + cy) / 2 ^ w) n := by
  induction n with
  | zero => rfl
  | succ n ih => rw [carryInto, ih, carryInto]; congr 2; rw [show first + (n + 1) = first + 1 + n by omega]

theorem addcGo_carry (w : Nat) (a b : Reg) (n k : Nat) (d : Reg) (cy : Nat) :
    (addcGo w a b n k d cy).2 = carryInto w k a b cy n := by
  induction n generalizing k d cy with
  | zero => rfl
  | succ n ih => rw [carryInto_succ, addcGo]; exact ih ..

/-- Every bit of the sum: an element of the chain has its sum with the carry into it, the others are the old ones. -/
theorem getLsbD_addcGo (w : Nat) (a b : Reg) (n k : Nat) (d : Reg) (cy : Nat) {e i : Nat} (hi : i < w) (h64 : w * e + i < 64) :
    (addcGo w a b n k d cy).1.getLsbD (w * e + i) = if k ≤ e ∧ e < k + n
      then ((elem w e a + elem w e b + carryInto w k a b cy (e - k)) % 2 ^ w).testBit i else d.getLsbD (w * e + i) := by
  induction n generalizing k d cy with
  | zero => rw [if_neg (by omega)]; rfl
  | succ n ih =>
    rw [addcGo, ih]
    by_cases hin : k + 1 ≤ e ∧ e < k + 1 + n
    · rw [if_pos hin, if_pos (by omega), show e - k = e - (k + 1) + 1 by omega, carryInto_succ]
    · rw [if_neg hin, getLsbD_setElem _ _ h64]
      by_cases he : e = k
      · subst he
        rw [if_pos (by omega), if_pos (by omega), Nat.sub_self, Nat.add_sub_cancel_left]; rfl
      · have hne : ¬(w * k ≤ w * e + i ∧ w * e + i < w * k + w) := by
          rintro ⟨h1, h2⟩
          rcases Nat.lt_or_gt_of_ne he with h | h
          · have := Nat.mul_le_mul_left w h; rw [Nat.mul_succ] at this; omega
          · have := Nat.mul_le_mul_left w h; rw [Nat.mul_succ] at this; omega
        rw [if_neg hne, if_neg (by omega)]

/-- IADDC's sum over whole registers (R111). -/
theorem addcGo_whole {w : Nat} (hw : 0 < w) (h64 : w * (64 / w) = 64) (a b d : Reg) (cy : Nat) :
    (addcGo w a b (64 / w) 0 d cy).1 = packW w (fun e => (elem w e a + elem w e b + carryInto w 0 a b cy (e - 0)) % 2 ^ w) := by
  refine BitVec.eq_of_getLsbD_eq fun j hj => ?_
  have hi := Nat.mod_lt j hw
  have he : j / w < 64 / w := by
    rw [Nat.div_lt_iff_lt_mul hw, Nat.mul_comm, h64]; exact hj
  rw [← Nat.div_add_mod j w] at hj ⊢
  rw [getLsbD_addcGo w a b _ _ _ _ hi hj, if_pos ⟨Nat.zero_le _, by omega⟩, packW, getLsbD_packN _ he hi hj]

/-- IADDC in a lane as R111 has it. -/
theorem Ctx.addc_eq (c : Ctx) (l : Nat) :
    let first := if c.form.one then c.form.k else 0
    let cy := carryInto c.w first (c.A l) (c.B l) (if c.C l = 0 then 0 else 1)
    c.addc l = (c.each l (fun e => (elem c.w e (c.A l) + elem c.w e (c.B l) + cy (e - first)) % 2 ^ c.w),
      decide (cy (if c.form.one then 1 else 64 / c.w) ≠ 0)) := by
  obtain ⟨hw, h64⟩ := c.w_mul
  have hcy : (c.C l != 0).toNat = if c.C l = 0 then 0 else 1 := by
    by_cases h : c.C l = 0
    · rw [if_pos h, h]; rfl
    · rw [if_neg h, bne_iff_ne.2 h]; rfl
  have hne : ∀ n : Nat, (n != 0) = decide (n ≠ 0) := fun n => by by_cases h : n = 0 <;> simp [h]
  dsimp only
  unfold Ctx.addc Machine.addc Ctx.each Form.apply
  cases c.form.one with
  | true =>
    simp only [if_true, addcGo_carry, hcy, hne]
    rw [addcGo, addcGo, Nat.sub_self]; rfl
  | false =>
    simp only [Bool.false_eq_true, if_false, addcGo_carry, addcGo_whole hw h64, hcy, hne]

/-- A dot product of four elements, summed one after another. -/
theorem dot4_eq (ua ub sat : Bool) (a b c : Reg) (e : Nat) : dot4 ua ub sat a b c e =
    let p := fun (j : Nat) => readInt 8 ua (elem 8 (4 * e + j) a) * readInt 8 ub (elem 8 (4 * e + j) b)
    narrow 32 (ua && ub) sat (readInt 32 (ua && ub) (elem 32 e c) + p 0 + p 1 + p 2 + p 3) := rfl

/-- Settles O2: by the carry chain, and the four products in turn. -/
theorem carryAndDot : Obligations.CarryAndDot := by
  intro f
  refine ⟨givesAll_of_puts (fun _ => rfl) fun s c hs _ => ⟨?_, ?_⟩, givesD_of_vecD (fun _ => rfl) fun s c hs _ l => ?_⟩
  · exact ⟨by simp, by simp [fits_d, fits_boolReg], by simp [apart]⟩
  · simp only [c.addc_eq]; rfl
  · simp only [dot4_eq]

/-! ### Comparisons (R113, R118) -/

/-- Two values compare unless one is a NaN. -/
theorem FVal.cmp_eq_none {x y : FVal} : x.cmp y = none ↔ (x.isNan || y.isNan) = true := by
  cases x <;> cases y <;> simp [FVal.cmp, FVal.isNan]

/-- Zeros of either sign compare equal. -/
theorem FVal.cmp_zeros {x y : FVal} (h : (x.isZero && y.isZero) = true) : x.cmp y = some .eq := by
  cases x <;> cases y <;> simp [FVal.isZero] at h
  obtain ⟨rfl, rfl⟩ := h
  have hz : ∀ b, signed b 0 = 0 := by decide
  simp [FVal.cmp, hz]

/-- FCMP's second source is a register: the entry has no immediate form (R118). -/
theorem fcmp_limits {s : State} {f : Fields} {c : Ctx} (hs : Sees s 0 0x26 f c) (hu : c.Unhindered s false []) :
    c.Bf = c.B := by
  obtain ⟨-, -, -, -, -, hf, -⟩ := hs.spec
  have hl := hu.legal
  rw [hs.entry rfl] at hl
  obtain ⟨-, -, -, hm⟩ := limits_of_legal hl
  have himm : immOf c.f = false := modBit_of_mask hm (by simp [elemMods]; decide)
  funext l
  unfold Ctx.Bf
  rw [himm]; rfl

/-- A comparison by code, in terms of order, equality and NaN (R118). -/
theorem fcmp_eq (n w : Nat) (un : Bool) (a b : Nat) : fcmp (n % 8) w un a b =
    (let x := (fmtOfW w).decode a
     let y := (fmtOfW w).decode b
     let nan := x.isNan || y.isNan
     let eq := (x.isZero && y.isZero) || x.cmp y == some .eq
     match n % 8 with
     | 0 => if nan then un else eq
     | 1 => nan || !eq
     | 2 => if nan then un else !eq && x.cmp y == some .lt
     | 3 => if nan then un else eq || x.cmp y == some .lt
     | 4 => if nan then un else !eq && x.cmp y == some .gt
     | 5 => if nan then un else eq || x.cmp y == some .gt
     | 6 => !nan
     | _ => nan) := by
  unfold fcmp
  dsimp only
  have hcode : n % 8 < 8 := Nat.mod_lt _ (by decide)
  generalize n % 8 = code at *
  generalize (fmtOfW w).decode a = x
  generalize (fmtOfW w).decode b = y
  have heq : ((x.isZero && y.isZero) || x.cmp y == some .eq) = (x.cmp y == some .eq) := by
    cases hz : x.isZero && y.isZero with
    | true => rw [FVal.cmp_zeros hz]; rfl
    | false => rfl
  rw [heq]
  have hcases : ∀ P : Nat → Prop, P 0 → P 1 → P 2 → P 3 → P 4 → P 5 → P 6 → P 7 → P code := by
    intro P h0 h1 h2 h3 h4 h5 h6 h7
    have hlist : code = 0 ∨ code = 1 ∨ code = 2 ∨ code = 3 ∨ code = 4 ∨ code = 5 ∨ code = 6 ∨ code = 7 := by omega
    rcases hlist with rfl | rfl | rfl | rfl | rfl | rfl | rfl | rfl <;> assumption
  cases hc : x.cmp y with
  | none =>
    rw [FVal.cmp_eq_none.1 hc]
    apply hcases <;> simp
  | some o =>
    have hn : (x.isNan || y.isNan) = false := by
      rw [Bool.eq_false_iff]; intro h; rw [FVal.cmp_eq_none.2 h] at hc; cases hc
    rw [hn]
    apply hcases <;> cases o <;> rfl

/-- Settles O3. -/
theorem comparisons : Obligations.Comparisons := by
  intro f
  refine ⟨givesP_of_vecP (fun _ => rfl) fun s c _ _ l => ?_, givesP_of_vecP (fun _ => rfl) fun s c hs hu l => ?_⟩
  · rfl
  · rw [fcmp_eq, fcmp_limits hs hu]; rfl

/-! ### Logic, shifts and fields (R114 to R116) -/

/-- Settles O5: so are its shifts and counts. -/
theorem shiftsAndCounts : Obligations.ShiftsAndCounts := by
  intro f
  refine ⟨?_, ?_, ?_, ?_, ?_, ?_, ?_, ?_⟩ <;> exact givesD_of_vecD (fun _ => rfl) fun _ _ _ _ _ => rfl

/-- Settles O6: so are its fields and moves; MOVU's result is the agent's. -/
theorem fieldsAndMoves : Obligations.FieldsAndMoves := by
  intro f
  refine ⟨?_, ?_, ?_, ?_, ?movu, ?_, ?_⟩
  case movu => exact gives_of_putQ (.inl rfl) (fun _ => rfl) fun _ _ _ _ => rfl
  all_goals exact givesD_of_vecD (fun _ => rfl) fun _ _ _ _ _ => rfl

/-! ### Float arithmetic (R117) -/

/-- Settles O9: each instruction rounds the exact value once, or picks a value of the format. -/
theorem floatArithmetic : Obligations.FloatArithmetic := by
  intro f
  refine ⟨?_, ?_, ?_, ?_, ?_, ?_, ?_, ?_⟩ <;> exact givesD_of_vecD (fun _ => rfl) fun _ _ _ _ _ => rfl

/-! ### PMOV (R127) -/

/-- Settles O8: one register or predicate, or the seven predicates in turn. -/
theorem predicateMoves : Obligations.PredicateMoves := by
  intro f
  refine givesAll_of_puts (fun _ => rfl) fun s c hs _ => ?_
  by_cases h4 : fnOf f = 4
  · simp only [if_pos h4]
    exact ⟨⟨by simp, by simp [fits_d], by simp⟩, rfl⟩
  by_cases h5 : fnOf f = 5
  · simp only [if_neg h4, if_pos h5]
    refine ⟨⟨by simp, by simp [fits_boolReg], ?_⟩, ?_⟩
    · rw [List.pairwise_map]
      exact List.nodup_range.imp fun h => .inr (Ne.symm h)
    · simp only [Ctx.puts, List.foldl_map]
  · simp only [if_neg h4, if_neg h5]
    exact ⟨⟨by simp, by simp [fits_boolReg], by simp⟩, rfl⟩

end Sys2Proof.Machine

namespace Sys2Proof.Laws
open Sys2Proof.Machine

/-- Settles O4: the model's logic on registers is that of the statement. -/
theorem logic : Obligations.Logic := by
  intro f
  refine ⟨?_, ?_, ?_, ?_, ?_, ?_⟩ <;> exact givesD_of_vecD (fun _ => rfl) fun _ _ _ _ _ => rfl

end Sys2Proof.Laws
end

section
/-!
Proofs of the cross-lane instructions (R129 to R134), of the uniform ones (R135, R136) and of the reads of special registers
(R42, R43).
-/

namespace Sys2Proof.Machine

section
variable {s : State} {cls op : Nat} {f : Fields} {c : Ctx} {b : Body} {i : Instr}

/-- An instruction whose own part writes results of registers apart leaves them all (R80, R107). -/
theorem results_of_puts {l : List (RFile × Nat × (Nat → Reg))} (hi : exec i s = issueOp cls op f b s) (hs : Sees s cls op f c)
    (hu : c.Unhindered s (b.late c (s.begun c.aid)) (b.more c)) (ht : b.target c (s.begun c.aid) = none)
    (hx : b.unassigned = none) (hw : c.targetsThere b (s.begun c.aid))
    (hr : b.run c (s.begun c.aid) = .done (c.puts (s.begun c.aid) l)) (hres : Resulting l)
    (hl : ∀ p ∈ l, c.Landed p.1 p.2.1) : Results i s c l := by
  obtain ⟨h, hd, hval, -⟩ := (hs.done_begun hu.toUndisturbed).puts hres fun p hp lane => (c.g.oldOf_modAgent ..).trans (hl p hp lane)
  refine resultsFrom_of_done hi hs hu ht hx hw hr hd
    ((Frame.begun s c.aid).trans (Frame.puts _ _ _ fun _ => id)) fun p hp lane hlt he => ?_
  rw [hval p hp lane hlt he, Gang.getR_modAgent]

/-- An instruction whose own part writes one register of the agent gives it the value (R135). -/
theorem results_of_putQ {r : RFile} {x : Nat} {v : Reg} (hi : exec i s = issueOp cls op f b s) (hs : Sees s cls op f c)
    (hu : c.Unhindered s (b.late c (s.begun c.aid)) (b.more c)) (ht : b.target c (s.begun c.aid) = none)
    (hx : b.unassigned = none) (hw : c.targetsThere b (s.begun c.aid)) (hr : r = .q ∨ r = .c)
    (hrun : b.run c (s.begun c.aid) = .done (c.putQ (s.begun c.aid) r x v)) (hl : c.Landed r x) :
    Results i s c [(r, x, fun _ => v)] :=
  resultsFrom_of_putQ hi hs hu ht hx hw hr hrun (hs.done_begun hu.toUndisturbed) (fun _ => Gang.getR_modAgent ..)
    ((c.g.oldOf_modAgent ..).trans (hl 0)) (Frame.begun s c.aid)

end

/-! ### Cross-lane instructions (R129 to R134) -/

/-- A lane that executes is one of the 32. -/
theorem hasLane_lt {m : Mask} {l : Nat} (h : hasLane m l = true) : l < 32 := by
  refine Decidable.byContradiction fun hl => ?_
  rw [hasLane, BitVec.getLsbD_of_ge m l (Nat.not_lt.1 hl)] at h
  cases h

/-- LXCH's source lane as R129 has it: the model's, or none where it lies outside 0 to 31. -/
theorem lxchSource_eq {mode : Nat} (hm : mode < 4) (lane v : Nat) : (lxchSource mode lane v).filter (· < 32) =
    if 0 ≤ sourceLane mode lane v ∧ sourceLane mode lane v < 32 then some (sourceLane mode lane v).toNat else none := by
  obtain rfl | rfl | rfl | rfl : mode = 0 ∨ mode = 1 ∨ mode = 2 ∨ mode = 3 := by omega
  · have : v % 32 < 32 := Nat.mod_lt _ (by decide)
    simp only [lxchSource, sourceLane, Option.filter, this, decide_true, if_true]
    rw [if_pos (by omega)]
    congr 1
  · simp only [lxchSource, sourceLane]
    by_cases h : v ≤ lane
    · by_cases h2 : lane - v < 32
      · rw [if_pos h, if_pos (by omega)]
        simp only [Option.filter, h2, decide_true, if_true]
        congr 1; omega
      · rw [if_pos h, if_neg (by omega)]
        simp only [Option.filter, h2, decide_false, Bool.false_eq_true, if_false]
    · rw [if_neg h, if_neg (by omega)]; rfl
  · simp only [lxchSource, sourceLane]
    by_cases h : lane + v < 32
    · rw [if_pos h, if_pos (by omega)]
      simp only [Option.filter, h, decide_true, if_true]
      congr 1
    · rw [if_neg h, if_neg (by omega)]; rfl
  · simp only [lxchSource, sourceLane]
    by_cases h : lane ^^^ (v % 32) < 32
    · rw [if_pos (by omega)]
      simp only [Option.filter, h, decide_true, if_true, Int.toNat_natCast]
    · rw [if_neg (by omega)]
      simp only [Option.filter, h, decide_false, Bool.false_eq_true, if_false]

/-- LXCH gives a lane what R129 says. -/
theorem Ctx.exchange_eq (c : Ctx) (lane : Nat) : c.exchange lane = c.lxch lane := by
  have hsrc := lxchSource_eq (Nat.mod_lt (fnOf c.f) (by decide : 0 < 4)) lane (elem 32 0 (c.B lane))
  unfold Ctx.exchange Ctx.lxch
  dsimp only
  generalize sourceLane (fnOf c.f % 4) lane (elem 32 0 (c.B lane)) = z at hsrc ⊢
  cases hx : lxchSource (fnOf c.f % 4) lane (elem 32 0 (c.B lane)) with
  | none =>
    rw [hx] at hsrc
    by_cases hz : 0 ≤ z ∧ z < 32
    · rw [if_pos hz] at hsrc; cases hsrc
    · rw [if_neg hz]
  | some t =>
    rw [hx] at hsrc
    by_cases ht : t < 32
    · rw [show (some t).filter (· < 32) = some t by simp [Option.filter, ht]] at hsrc
      split at hsrc
      next hz => cases hsrc; rw [if_pos hz]; rfl
      next => cases hsrc
    · have hout : ∀ m : Mask, hasLane m t = false := fun m => Bool.eq_false_iff.2 fun h => ht (hasLane_lt h)
      rw [show (some t).filter (· < 32) = none by simp [Option.filter, ht]] at hsrc
      split at hsrc
      next => cases hsrc
      next hz => rw [if_neg hz]; simp only [hout, Bool.false_eq_true, if_false]

/-- A set flag of LXCH names a dead source lane (R129). -/
theorem Ctx.exchange_flag (c : Ctx) {l : Nat} (h : (c.exchange l).2 = true) : (c.exchange l).1 = 0 ∧ c.g.dead ≠ 0 := by
  unfold Ctx.exchange at h ⊢
  dsimp only at h ⊢
  split at h
  · cases h
  next t _ =>
    split at h
    · cases h
    next hex =>
      split at h
      next hdead =>
        rw [if_neg hex, if_pos hdead]
        refine ⟨rfl, fun h0 => ?_⟩
        have hsee : hasLane c.g.dead t = true := by
          unfold Ctx.deadSeen at hdead
          split at hdead
          · exact hdead
          · rw [hasLane_and, Bool.and_eq_true] at hdead; exact hdead.1
        rw [h0] at hsee
        simp [hasLane] at hsee
      · cases h

/-- POLL's results are one predicate, or the mask in D (R130). -/
theorem poll_results {f : Fields} {c : Ctx} {m : Mask} {s : State} :
    let l := match fnOf f % 4 with
      | 0 => [(RFile.p, f.d.toNat, fun (_ : Nat) => boolReg (decide (m = c.exec)))]
      | 1 => [(.p, f.d.toNat, fun _ => boolReg (decide (m ≠ 0)))]
      | 2 => [(.p, f.d.toNat, fun _ => boolReg (decide (m = c.exec ∨ m = 0)))]
      | _ => [(.d, f.d.toNat, fun _ => m.setWidth 64)]
    Resulting l ∧ (match fnOf f % 4 with
      | 0 => c.put s .p f.d.toNat (fun _ => boolReg (decide (m = c.exec)))
      | 1 => c.put s .p f.d.toNat (fun _ => boolReg (decide (m ≠ 0)))
      | 2 => c.put s .p f.d.toNat (fun _ => boolReg (decide (m = c.exec ∨ m = 0)))
      | _ => c.put s .d f.d.toNat (fun _ => m.setWidth 64)) = c.puts s l := by
  dsimp only
  split
  case h_4 => exact ⟨⟨by simp, by simp [fits_d], by simp⟩, rfl⟩
  all_goals exact ⟨⟨by simp, by simp [fits_boolReg], by simp⟩, rfl⟩

/-- Settles O12: LXCH by its source lane; the others are the model's own functions of the executing lanes. -/
theorem crossLane : Obligations.CrossLane := by
  intro f
  have hf : ∀ {s c op}, Sees s 0 op f c → c.f = f := fun h => by obtain ⟨-, -, -, -, -, hf, -⟩ := h.spec; exact hf
  refine ⟨?lxch, fun s c _ l => c.exchange_flag, ?poll, ?rfal, ?peers, ?lfold, ?scan⟩
  case lxch =>
    refine givesAll_of_puts (fun _ => rfl) fun s c _ _ => ⟨⟨by simp, by simp [fits_d, fits_boolReg], by simp [apart]⟩, ?_⟩
    simp only [← c.exchange_eq]; rfl
  case poll =>
    refine givesAll_of_puts (fun _ => rfl) fun s c hs _ => ⟨poll_results (s := s).1, congrArg Res.done ?_⟩
    exact poll_results.2
  case rfal => exact givesD_of_vecD (fun _ => rfl) fun _ _ _ _ _ => rfl
  case peers => exact givesD_of_vecD (fun _ => rfl) fun _ _ _ _ _ => rfl
  case lfold => exact givesD_of_vecD (fun _ => rfl) fun _ _ hs _ _ => by rw [← hf hs]; rfl
  case scan => exact givesD_of_vecD (fun _ => rfl) fun _ _ hs _ _ => by rw [← hf hs]; rfl

/-! ### Uniform instructions (R135, R136) -/

theorem Ctx.any_eq_false {c : Ctx} (h : c.exec = 0) : c.any = false := decide_eq_false (not_not_intro h)

/-- An instruction without an executing lane that would write a register of the agent changes nothing (R135). -/
theorem givesUni_of_uniQ {i : Instr} {op : Nat} {f : Fields} {v' v : Ctx → Reg}
    (hi : ∀ s, exec i s = issueOp 1 op f (uniQ v') s)
    (hv : ∀ s c, Sees s 1 op f c → v' c = v c) : GivesUni i op f v := by
  have hf : ∀ {s c}, Sees s 1 op f c → c.f = f := fun h => by obtain ⟨-, -, -, -, -, hf, -⟩ := h.spec; exact hf
  refine ⟨gives_of_putQ (.inl rfl) hi fun s c hs _ => by rw [hf hs, hv s c hs], fun s c hs hu h0 => ?_⟩
  have hd := hs.done_begun hu.toUndisturbed
  obtain ⟨-, hid, -⟩ := hs.spec
  have hr : (uniQ v').run c (s.begun c.aid) = .done (s.begun c.aid) := by
    show Res.done (c.putQ _ _ _ _) = _
    rw [Ctx.putQ, Ctx.any_eq_false h0]; rfl
  obtain ⟨e, hnext⟩ := issueOp_completes hs hu rfl rfl (Ctx.targetsThere_nil rfl) hr
  obtain ⟨hgo, hfin⟩ := hd.finish hid ((uniQ v').rst c)
  obtain ⟨k, hk, -, -, hkeep⟩ := hfin.gangs _ _ hd.gang
  exact ⟨_, k, (hi s).trans hnext, hk, (hkeep .q _ 0 (by decide) id).trans (Gang.getR_modAgent ..),
    (Frame.begun s c.aid).trans (hfin.trans (.of_eq rfl rfl rfl)), hgo⟩

/-- Settles O13: each UNI instruction writes its one q register, or nothing where no lane executes. -/
theorem uniform : Obligations.Uniform := by
  intro f
  refine ⟨?_, ?_, ?_, ?_, ?_, ?min, ?max, ?_, ?_, ?_, ?_, ?_, ?_, ?_, ?_, ?_, ?_⟩
  case min => exact givesUni_of_uniQ (fun _ => rfl) fun _ _ _ => by simp only [uniPlain, intOp, Int.min_def]
  case max => exact givesUni_of_uniQ (fun _ => rfl) fun _ _ _ => by simp only [uniPlain, intOp, Int.max_def]
  all_goals exact givesUni_of_uniQ (fun _ => rfl) fun _ _ _ => rfl

/-! ### Special registers (R42, R43) -/

/-- A sum of ascending powers of two has the bits of its exponents. -/
theorem testBit_foldl_pow (l : List Nat) (hl : l.Pairwise (· < ·)) {n : Nat} (hn : ∀ i ∈ l, n < 2 ^ i) (j : Nat) :
    (l.foldl (fun n i => n + 2 ^ i) n).testBit j = (n.testBit j || decide (j ∈ l)) := by
  induction l generalizing n with
  | nil => simp
  | cons a l ih =>
    obtain ⟨ha, hl⟩ := List.pairwise_cons.1 hl
    have hlt := hn a (List.mem_cons_self ..)
    have hor : n + 2 ^ a = 2 ^ a ||| n := by
      have h := Nat.two_pow_add_eq_or_of_lt hlt 1
      rwa [Nat.mul_one, Nat.add_comm] at h
    have hnext : ∀ i ∈ l, n + 2 ^ a < 2 ^ i := fun i hi => by
      have h : 2 ^ (a + 1) ≤ 2 ^ i := Nat.pow_le_pow_right (by decide) (ha i hi)
      rw [Nat.pow_succ] at h; omega
    rw [List.foldl_cons, ih hl hnext, hor, Nat.testBit_or, Nat.testBit_two_pow]
    have hmem : decide (j ∈ a :: l) = (decide (a = j) || decide (j ∈ l)) := by
      rw [← Bool.decide_or, decide_eq_decide, List.mem_cons, eq_comm]
    rw [hmem, Bool.or_comm (decide (a = j)), Bool.or_assoc]

/-- The bits of an agent's mask over slices are its slices. -/
theorem Gang.testBit_memberBits (g : Gang) (sl : Option Nat) (j : Nat) :
    (g.memberBits sl).testBit j = decide (j ∈ g.members sl) := by
  have hasc : (g.members sl).Pairwise (· < ·) := by
    cases sl with
    | none => exact List.Pairwise.filter _ List.pairwise_lt_range
    | some i => exact List.pairwise_singleton ..
  rw [Gang.memberBits, testBit_foldl_pow _ hasc fun i _ => Nat.two_pow_pos i, Nat.zero_testBit, Bool.false_or]

/-- SLICEMASK has the agent's slices in its low byte and the gang's live ones above it (R42). -/
theorem getLsbD_sliceMask (g : Gang) (sl : Option Nat) (hm : ∀ i ∈ g.members sl, i < 8) {i : Nat} (hi : i < 8) :
    ((BitVec.ofNat 64 (g.sliceMask sl)).getLsbD i = true ↔ i ∈ g.members sl) ∧
    ((BitVec.ofNat 64 (g.sliceMask sl)).getLsbD (8 + i) = true ↔ i ∈ g.liveSlices) := by
  have hlow : g.memberBits sl < 2 ^ 8 := Nat.lt_pow_two_of_testBit _ fun j hj => by
    rw [Gang.testBit_memberBits, decide_eq_false fun h => absurd (hm j h) (Nat.not_lt.2 hj)]
  have hsplit : g.sliceMask sl = 2 ^ 8 * g.memberBits none + g.memberBits sl := by
    unfold Gang.sliceMask; omega
  rw [hsplit, BitVec.getLsbD_ofNat, BitVec.getLsbD_ofNat, Nat.testBit_two_pow_mul_add _ hlow, Nat.testBit_two_pow_mul_add _ hlow,
    if_pos hi, if_neg (by omega), Nat.add_sub_cancel_left, Gang.testBit_memberBits, Gang.testBit_memberBits,
    decide_eq_true (show i < 64 by omega), decide_eq_true (show 8 + i < 64 by omega), Bool.true_and, Bool.true_and,
    decide_eq_true_eq, decide_eq_true_eq]
  exact ⟨Iff.rfl, Iff.rfl⟩

/-- AMAX reads as it stands where no write of it is pending (R83). -/
theorem Gang.readAmax_landed {g : Gang} {now lane : Nat} (h0 : g.oldOf now .amax 0 lane = none)
    (h1 : g.oldOf now .amax 1 lane = none) (choice : Nat) : g.readAmax now choice lane = g.getR .amax 0 lane := by
  have hnil : g.oldsOf now .amax 1 lane = [] := List.head?_eq_none_iff.1 h1
  unfold Gang.readAmax
  rw [hnil, Gang.readR_landed h0]; rfl

/-- A reserved selector reads zero (R42). -/
theorem Ctx.special_reserved (c : Ctx) (s : State) (lane : Nat) {n : Nat} (h : n ∈ [0x0D, 0x0E, 0x0F] ∨ (0x13 ≤ n ∧ n ≤ 0x17) ∨
    (0x1A ≤ n ∧ n ≤ 0x1F) ∨ (0x23 ≤ n ∧ n ≤ 0x27) ∨ (0x2D ≤ n ∧ n ≤ 0x2F) ∨ (0x33 ≤ n ∧ n ≤ 0x37) ∨ 0x3A ≤ n) :
    c.special s n lane = 0 := by
  simp only [List.mem_cons, List.not_mem_nil, or_false] at h
  unfold Ctx.special
  dsimp only
  split
  case h_32 => rfl
  all_goals omega

/-- Settles O14: SREAD and USREAD give what `special` says, and its table is that of R42. -/
theorem specialRegisterReads : Obligations.SpecialRegisterReads := by
  intro f
  refine ⟨fun s c hs hu hl => ?_, fun s c hs hu hl => ?_, fun c s lane => ?_⟩
  · exact results_of_puts rfl hs hu rfl rfl (Ctx.targetsThere_nil rfl) rfl ⟨by simp, by simp [fits_d], by simp⟩ (by simpa using hl)
  · exact results_of_putQ rfl hs hu rfl rfl (Ctx.targetsThere_nil rfl) (.inl rfl) rfl hl
  · refine ⟨rfl, rfl, rfl, rfl, rfl, rfl, rfl, rfl, rfl, rfl, rfl, rfl, rfl, rfl, rfl, rfl, rfl, rfl, rfl, fun l hl => ?_, ?_, ?_,
      rfl, rfl, fun _ hm i hi => getLsbD_sliceMask c.g c.aid.slice hm hi,
      fun ha => Gang.readAmax_landed (ha lane).1 (ha lane).2 _, ?_, rfl, rfl, fun n hn => c.special_reserved s lane hn⟩
    · refine ⟨fun h0 => ?_, fun seq slot recs h0 => ?_⟩
      · simp only [Ctx.special, State.blockIds, hl, Option.bind_some, h0, and_self]
      · simp only [Ctx.special, State.blockIds, hl, Option.bind_some, h0]
        exact ⟨trivial, rfl, rfl⟩
    · simp only [Ctx.special, wingOf]
    · simp only [Ctx.special, wingOf, spanOf, Nat.div_div_eq_div_mul]
    · show BitVec.ofNat 64 c.hdr.check.toNat = _
      cases c.hdr.check <;> rfl

end Sys2Proof.Machine
end

section
/-!
Proofs of AMAX: the conversions with their .am update (R122, R123), AMXRD, AMXSET and an SWRITE of AMAX (R123, R329).
-/

namespace Sys2Proof.Machine

/-! ### One lane's AMAX written -/

/-- From `g` to `h` one lane's AMAX is written with `v`; besides, only pending writes of that lane's AMAX and the marks of
results on their way change. -/
structure AmaxStep (now l : Nat) (v : Word) (g h : Gang) : Prop where
  shape : ∃ o t, h = { g with amax := mapSet g.amax l v, olds := o, outst := t }
  olds : ∀ i m, m ≠ l → h.oldOf now .amax i m = g.oldOf now .amax i m

section
variable {now l : Nat} {v : Word} {g h : Gang}

theorem AmaxStep.standing (a : AmaxStep now l v g h) : h.standing = g.standing := by
  obtain ⟨o, t, rfl⟩ := a.shape; rfl

theorem AmaxStep.keeps (a : AmaxStep now l v g h) : h.rest = g.rest ∧ h.regs = g.regs := by
  obtain ⟨o, t, rfl⟩ := a.shape; exact ⟨rfl, rfl⟩

theorem AmaxStep.getR_other (a : AmaxStep now l v g h) {r : RFile} {x m : Nat} (hr : r ≠ .amax ∨ m ≠ l) :
    h.getR r x m = g.getR r x m := by
  obtain ⟨o, t, rfl⟩ := a.shape
  cases r with
  | amax =>
    have hm : m ≠ l := hr.resolve_left (· rfl)
    exact congrArg (BitVec.setWidth 64) (mapGet_mapSet_other hm)
  | d | q | p | c => rfl

theorem AmaxStep.getAmax_same (a : AmaxStep now l v g h) : h.getAmax l = v := by
  obtain ⟨o, t, rfl⟩ := a.shape; exact mapGet_mapSet_same

theorem AmaxStep.getAmax_other (a : AmaxStep now l v g h) {m : Nat} (hm : m ≠ l) : h.getAmax m = g.getAmax m := by
  obtain ⟨o, t, rfl⟩ := a.shape; exact mapGet_mapSet_other hm

end

/-- What an .am update leaves pending for another lane (R123). -/
theorem Gang.oldOf_update_other (g : Gang) (now i l : Nat) (x : OldVal) (hx : x.lane = l) {j m : Nat} (hm : m ≠ l) :
    ({ g with olds := g.oldsBut .amax i l ++ (x :: g.unlanded now .amax i l) } : Gang).oldOf now .amax j m =
      g.oldOf now .amax j m := by
  have hnil : (x :: g.unlanded now .amax i l).filter
      (fun o => o.file == .amax && o.idx == j && o.lane == laneKey .amax m && decide (now < o.till)) = [] := by
    refine List.filter_eq_nil_iff.2 fun o ho => ?_
    have hlane : o.lane = l := by
      rcases List.mem_cons.1 ho with rfl | ho
      · exact hx
      · have hf := (List.mem_filter.1 ho).2
        simp only [Bool.and_eq_true, beq_iff_eq] at hf
        exact hf.1.1.2
    simp only [Bool.and_eq_true, beq_iff_eq, hlane]
    exact fun h => hm h.1.2.symm
  unfold Gang.oldOf Gang.oldsOf
  dsimp only
  rw [List.filter_append, hnil, List.append_nil, List.head?_filter, List.head?_filter]
  refine find?_filter_of_imp _ _ _ fun o ho => ?_
  simp only [Bool.and_eq_true, beq_iff_eq] at ho
  simp only [Bool.not_eq_true', Bool.and_eq_false_iff, beq_eq_false_iff_ne, ne_eq]
  exact .inr fun h => hm (ho.1.2.symm.trans h)

/-- An .am update over no pending write of another kind (R123). -/
theorem Gang.amaxStep_update (g : Gang) {now l : Nat} (choice lat : Nat) (up : Nat → Nat) (h0 : g.oldOf now .amax 0 l = none) :
    AmaxStep now l (BitVec.ofNat 32 (up (g.getAmax l).toNat)) g (g.updateAmax now choice lat l up) := by
  have hread : (g.readR now choice 32 .amax 0 l).toNat = (g.getAmax l).toNat := by
    rw [Gang.readR_landed h0]
    show ((g.getAmax l).setWidth 64).toNat = _
    rw [BitVec.toNat_setWidth, Nat.mod_eq_of_lt]
    exact Nat.lt_of_lt_of_le (g.getAmax l).isLt (by decide)
  have hval : (BitVec.ofNat 64 (up (g.getAmax l).toNat)).setWidth 32 = BitVec.ofNat 32 (up (g.getAmax l).toNat) := by
    apply BitVec.eq_of_toNat_eq
    simp only [BitVec.toNat_setWidth, BitVec.toNat_ofNat]
    omega
  have hshape : g.updateAmax now choice lat l up = { g with
      amax := mapSet g.amax l (BitVec.ofNat 32 (up (g.getAmax l).toNat))
      olds := g.oldsBut .amax 1 l ++ (⟨.amax, 1, l, g.getR .amax 0 l, now + lat, now + lat⟩ :: g.unlanded now .amax 1 l)
      outst := g.outst } := by
    unfold Gang.updateAmax
    simp only [h0, hread]
    show Gang.setAmax _ l (BitVec.setWidth 32 _) = _
    rw [hval]; rfl
  rw [hshape]
  exact ⟨⟨_, _, rfl⟩, fun i m hm => g.oldOf_update_other now 1 l _ rfl hm⟩

/-- AMAX set over no pending write (R123). -/
theorem Gang.amaxStep_write (g : Gang) {now l : Nat} (choice lat : Nat) (v : Reg) (h0 : g.oldOf now .amax 0 l = none)
    (h1 : g.oldOf now .amax 1 l = none) : AmaxStep now l (v.setWidth 32) g (g.writeAmax now choice lat l v) := by
  unfold Gang.writeAmax
  simp only [h1]
  refine ⟨?_, fun i m hm => Gang.oldOf_writeR_other _ _ _ _ _ _ _ _ _ _ _ _ (.inr (.inr hm))⟩
  unfold Gang.writeR
  simp only [h0, show ignoredReg .amax 0 = false from rfl, Bool.false_eq_true, if_false]
  split
  · exact ⟨_, _, rfl⟩
  · exact ⟨_, g.outst, rfl⟩

/-! ### AMAX written in the executing lanes -/

/-- A word is told by its value in 64 bits. -/
theorem setWidth_inj {a b : Word} (h : a.setWidth 64 = b.setWidth 64) : a = b := by
  have e := congrArg (BitVec.setWidth 32) h
  rwa [BitVec.setWidth_setWidth_of_le _ (by decide), BitVec.setWidth_setWidth_of_le _ (by decide), BitVec.setWidth_eq,
    BitVec.setWidth_eq] at e

/-- Writing AMAX lane by lane: `u` writes a lane where `ready` holds of it. -/
structure AmaxWrites (now : Nat) (ready : Gang → Nat → Prop) (w : Nat → Word → Word) (u : Gang → Nat → Gang) : Prop where
  step : ∀ g l, ready g l → AmaxStep now l (w l (g.getAmax l)) g (u g l)
  stands : ∀ g l, (u g l).standing = g.standing
  next : ∀ g h l m, m ≠ l → AmaxStep now l (w l (g.getAmax l)) g h → ready g m → ready h m

/-- The readiness of an .am update: no write of another kind is pending. -/
def updateReady (now : Nat) (g : Gang) (l : Nat) : Prop := g.oldOf now .amax 0 l = none

/-- The readiness of a write of AMAX: no write at all is pending. -/
def writeReady (now : Nat) (g : Gang) (l : Nat) : Prop := g.oldOf now .amax 0 l = none ∧ g.oldOf now .amax 1 l = none

theorem amaxWrites_update (now choice lat : Nat) (up : Nat → Nat → Nat) :
    AmaxWrites now (updateReady now) (fun l x => BitVec.ofNat 32 (up l x.toNat)) (fun g l => g.updateAmax now choice lat l (up l)) where
  step g l h0 := g.amaxStep_update choice lat (up l) h0
  stands _ _ := Gang.standing_setR ..
  next _ _ _ _ hm a h0 := (a.olds 0 _ hm).trans h0

theorem amaxWrites_write (now choice lat : Nat) (v : Nat → Reg) :
    AmaxWrites now (writeReady now) (fun l _ => (v l).setWidth 32) (fun g l => g.writeAmax now choice lat l (v l)) where
  step g l h := g.amaxStep_write choice lat (v l) h.1 h.2
  stands _ _ := Gang.standing_writeR ..
  next _ _ _ _ hm a h := ⟨(a.olds 0 _ hm).trans h.1, (a.olds 1 _ hm).trans h.2⟩

section
variable {s t : State} {c : Ctx} {g : Gang} {now : Nat} {ready : Gang → Nat → Prop} {w : Nat → Word → Word} {u : Gang → Nat → Gang}

theorem AmaxWrites.foldl (a : AmaxWrites now ready w u) (ls : List Nat) (hnd : ls.Nodup) (g : Gang) (hr : ∀ l ∈ ls, ready g l) :
    let h := ls.foldl u g
    h.standing = g.standing ∧ h.rest = g.rest ∧ h.regs = g.regs ∧
    (∀ l ∈ ls, h.getAmax l = w l (g.getAmax l)) ∧ ∀ r x l, r ≠ .amax ∨ l ∉ ls → h.getR r x l = g.getR r x l := by
  induction ls generalizing g with
  | nil => exact ⟨rfl, rfl, rfl, nofun, fun _ _ _ _ => rfl⟩
  | cons b ls ih =>
    obtain ⟨hb, hnd⟩ := List.nodup_cons.1 hnd
    have hstep := a.step g b (hr b (List.mem_cons_self ..))
    have hne : ∀ l ∈ ls, l ≠ b := fun l hl e => hb (e ▸ hl)
    obtain ⟨hst, hrest, hregs, hin, hout⟩ := ih hnd (u g b)
      fun l hl => a.next _ _ _ _ (hne l hl) hstep (hr l (List.mem_cons_of_mem _ hl))
    refine ⟨hst.trans hstep.standing, hrest.trans hstep.keeps.1, hregs.trans hstep.keeps.2, fun l hl => ?_, fun r x l h => ?_⟩
    · rcases List.mem_cons.1 hl with rfl | hl
      · have e : ((ls.foldl u (u g l)).getAmax l).setWidth 64 = ((u g l).getAmax l).setWidth 64 := hout .amax 0 l (.inr hb)
        rw [List.foldl_cons, ← hstep.getAmax_same]
        exact setWidth_inj e
      · rw [List.foldl_cons, hin l hl, hstep.getAmax_other (hne l hl)]
    · have hne' : r ≠ .amax ∨ l ≠ b := h.imp_right fun h e => h (e ▸ List.mem_cons_self ..)
      rw [List.foldl_cons, hout r x l (h.imp_right fun h hl => h (List.mem_cons_of_mem _ hl)), hstep.getR_other hne']

theorem AmaxWrites.stands_foldl (a : AmaxWrites now ready w u) (ls : List Nat) (g : Gang) :
    (ls.foldl u g).standing = g.standing := by
  induction ls generalizing g with
  | nil => rfl
  | cons b ls ih => rw [List.foldl_cons, ih, a.stands]

/-- A change of one gang, told of the gang that has the number. -/
theorem Frame.modGang_at {W : Nat → RFile → Nat → Nat → Prop} {T : Nat → Prop} {i : Nat} {k : Gang → Gang}
    (hg : t.gang? i = some g) (hid : ∀ g, (k g).id = g.id) (hrest : (k g).rest = g.rest) (hregs : (k g).regs = g.regs)
    (hget : ∀ r x l, l < 32 → ¬W i r x l → (k g).getR r x l = g.getR r x l) : Frame W T t (t.modGang i k) where
  gangs j h hh := by
    by_cases hj : j = i
    · subst hj
      obtain rfl : g = h := Option.some.inj (hg.symm.trans hh)
      exact ⟨k g, by rw [State.gang?_modGang_same hid, hg]; rfl, hrest, .inl hregs, hget⟩
    · exact ⟨h, by rw [State.gang?_modGang_other hid hj]; exact hh, rfl, .inl rfl, fun _ _ _ _ _ => rfl⟩
  blocks _ b hb := ⟨b, hb, rfl⟩
  mem := rfl

/-- Fixed-latency results with AMAX written after them: each register holds its value (R80, R123). -/
theorem results_of_amax {i : Instr} {cls op : Nat} {f : Fields} {b : Body} {l : List (RFile × Nat × (Nat → Reg))}
    {v : Nat → Reg}
    (hi : exec i s = issueOp cls op f b s) (hs : Sees s cls op f c)
    (hu : c.Unhindered s (b.late c (s.begun c.aid)) (b.more c)) (ht : b.target c (s.begun c.aid) = none)
    (hx : b.unassigned = none) (hw : c.targetsThere b (s.begun c.aid)) (a : AmaxWrites now ready w u)
    (hr : b.run c (s.begun c.aid) = .done ((c.puts (s.begun c.aid) l).modGang c.g.id (fun g => (lanesOf c.exec).foldl u g)))
    (hres : Resulting l) (hl : ∀ p ∈ l, c.Landed p.1 p.2.1)
    (hready : ∀ h : Gang, (∀ i m, h.oldOf c.now .amax i m = c.g.oldOf c.now .amax i m) → ∀ m, ready h m)
    (hv : ∀ m, v m = (w m (c.g.getAmax m)).setWidth 64) : Results i s c (l ++ [(.amax, 0, v)]) := by
  obtain ⟨h, hd, hval, hother⟩ := (hs.done_begun hu.toUndisturbed).puts hres
    fun p hp lane => (c.g.oldOf_modAgent ..).trans (hl p hp lane)
  have hapart : ∀ i, ∀ p ∈ l, Machine.apart p (.amax, i, v) := fun i p hp => .inl fun e => by
    rcases hres.files p hp with e' | e' <;> rw [e'] at e <;> cases e
  have hgetamax : ∀ m, m < 32 → h.getAmax m = c.g.getAmax m := fun m hm =>
    setWidth_inj (((hother (.amax, 0, v) (hapart 0)).1 m hm).trans (Gang.getR_modAgent ..))
  obtain ⟨hst, hrest, hregs, hin, hout⟩ := a.foldl (lanesOf c.exec) (nodup_lanesOf _) h fun m _ =>
    hready h (fun i m => ((hother (.amax, i, v) (hapart i)).2 m).trans (c.g.oldOf_modAgent ..)) m
  have hstands : ∀ g : Gang, ((lanesOf c.exec).foldl u g).standing = g.standing := fun g => a.stands_foldl _ g
  refine resultsFrom_of_done hi hs hu ht hx hw hr (hd.modGang hstands)
    ((Frame.begun s c.aid).trans ((Frame.puts _ _ _ fun p hp => List.mem_append_left _ hp).trans
      (Frame.modGang_at hd.gang (fun g => (Gang.standing_named (hstands g)).1) hrest hregs fun r x m hm hn => hout r x m ?_)))
    fun p hp m hm he => ?_
  · by_cases hr : r = .amax
    · refine .inr fun hmem => hn ⟨rfl, ⟨(.amax, 0), ?_, hr.symm, .inl hr⟩, .inr (.inr (mem_lanesOf.1 hmem).2)⟩
      simp
    · exact .inl hr
  · rcases List.mem_append.1 hp with hp | hp
    · have hr : p.1 ≠ .amax := fun e => by rcases hres.files p hp with e' | e' <;> rw [e'] at e <;> cases e
      rw [hout _ _ _ (.inl hr), hval p hp m hm he, Gang.getR_modAgent]
    · obtain rfl := List.mem_singleton.1 hp
      show (Gang.getAmax _ m).setWidth 64 = v m
      rw [hv, hin m (mem_lanesOf.2 ⟨hm, he⟩), hgetamax m hm]

end

/-! ### AMXRD, AMXSET and SWRITE (R123, R329) -/

theorem Resulting.nil : Resulting [] := ⟨nofun, nofun, .nil⟩

/-- Settles O16: AMAX is read as it stands and then written in every executing lane. -/
theorem amaxInstructions : Obligations.AmaxInstructions := by
  intro f
  have hset : ∀ n, (BitVec.ofNat 64 n).setWidth 32 = BitVec.ofNat 32 n := fun n => by
    apply BitVec.eq_of_toNat_eq; simp only [BitVec.toNat_setWidth, BitVec.toNat_ofNat]; omega
  have hready : ∀ {c : Ctx}, c.AmaxLanded → ∀ h : Gang, (∀ i m, h.oldOf c.now .amax i m = c.g.oldOf c.now .amax i m) →
      ∀ m, writeReady c.now h m := fun ha h e m => ⟨(e 0 m).trans (ha m).1, (e 1 m).trans (ha m).2⟩
  refine ⟨fun s c hs hu ha hl => ?_, fun s c hs hu ha => ?_, fun s c hs hu ha hsel => ?_⟩
  · have hd : Resulting [(RFile.d, f.d.toNat, fun l => c.g.getR .amax 0 l)] := ⟨by simp, by simp [fits_d], by simp⟩
    have hread : (fun l => c.g.readAmax c.now c.choice l) = fun l => c.g.getR .amax 0 l :=
      funext fun l => Gang.readAmax_landed (ha l).1 (ha l).2 _
    cases hclr : modBit f 0 with
    | false =>
      refine results_of_puts rfl hs hu rfl rfl (Ctx.targetsThere_nil rfl) ?_ hd (by simpa using hl)
      dsimp only
      rw [hclr, hread]; rfl
    | true =>
      refine results_of_amax (l := [(.d, f.d.toNat, fun l => c.g.getR .amax 0 l)]) rfl hs hu rfl rfl (Ctx.targetsThere_nil rfl)
        (amaxWrites_write c.now c.choice c.e.lat fun _ => 0) ?_ hd (by simpa using hl) (hready ha) fun _ => rfl
      dsimp only
      rw [hclr, hread]; rfl
  · exact results_of_amax (l := []) rfl hs hu rfl rfl (Ctx.targetsThere_nil rfl)
      (amaxWrites_write c.now c.choice c.e.lat fun l => BitVec.ofNat 64 (amxset (c.A l))) rfl .nil nofun (hready ha)
      fun m => by rw [hset]
  · refine results_of_amax (l := []) rfl hs hu rfl rfl (Ctx.targetsThere_nil rfl)
      (amaxWrites_write c.now c.choice c.e.lat fun l => BitVec.ofNat 64 (amxset (c.A l))) ?_ .nil nofun (hready ha)
      fun m => by rw [hset]
    dsimp only
    rw [if_pos hsel]; rfl

/-! ### Conversions (R122, R123) -/

/-- The results of a conversion but AMAX: D, and the INVALID predicate where one is named (R122). -/
def convPuts (f : Fields) (src dst : NumTy) (scaled : Bool) (c : Ctx) : List (RFile × Nat × (Nat → Reg)) :=
  let r := fun l => cvtLane src dst (rmodeOf f.rm) f.sat (if scaled then some (elem 32 0 (c.B l)) else none) (c.A l)
  [(.d, f.d.toNat, fun l => (r l).1)] ++ (if modBit f 3 then [(.p, modF f 2 0, fun l => boolReg (r l).2)] else [])

theorem convPuts_resulting (f : Fields) (src dst : NumTy) (scaled : Bool) (c : Ctx) : Resulting (convPuts f src dst scaled c) := by
  unfold convPuts
  cases modBit f 3 with
  | true => exact ⟨by simp, by simp [fits_d, fits_boolReg], by simp [apart]⟩
  | false => exact ⟨by simp, by simp [fits_d], by simp⟩

/-- A conversion writes its results and, with .am, updates AMAX lane by lane. -/
theorem converts_of_convBody {i : Instr} {op : Nat} {f : Fields} {scaled : Bool}
    (hi : ∀ s, exec i s = issueOp 0 op f (convBody scaled) s) : Converts i op f scaled := by
  intro src dst hsrc hdst s c hs hu hl
  obtain ⟨-, -, -, -, -, hf, -⟩ := hs.spec
  have hputs : c.puts (s.begun c.aid) (convPuts f src dst scaled c) =
      let r := fun l => cvtLane src dst (rmodeOf f.rm) f.sat (if scaled then some (elem 32 0 (c.B l)) else none) (c.A l)
      let s1 := c.put (s.begun c.aid) .d f.d.toNat (fun l => (r l).1)
      if modBit f 3 then c.put s1 .p (modF f 2 0) (fun l => boolReg (r l).2) else s1 := by
    unfold convPuts; cases modBit f 3 <;> rfl
  have hrun : (convBody scaled).run c (s.begun c.aid) = .done (if immOf f then
      (c.puts (s.begun c.aid) (convPuts f src dst scaled c)).modGang c.g.id (fun g => (lanesOf c.exec).foldl
        (fun g l => g.updateAmax c.now c.choice c.e.lat l (amaxLane src dst (c.A l))) g)
      else c.puts (s.begun c.aid) (convPuts f src dst scaled c)) := by
    rw [hputs]; unfold convBody; dsimp only; rw [hf, hsrc, hdst]
  have hres := convPuts_resulting f src dst scaled c
  have hlist : convResults f src dst scaled c = convPuts f src dst scaled c ++ (if immOf f then
      [(.amax, 0, fun l => (BitVec.ofNat 32 (amaxLane src dst (c.A l) (c.g.getAmax l).toNat)).setWidth 64)] else []) := rfl
  rw [hlist] at hl ⊢
  cases him : immOf f with
  | false =>
    rw [him] at hl hrun
    simp only [Bool.false_eq_true, if_false, List.append_nil] at hl hrun ⊢
    exact results_of_puts (hi s) hs hu rfl rfl (Ctx.targetsThere_nil rfl) hrun hres hl
  | true =>
    rw [him] at hl hrun
    simp only [if_true] at hl hrun ⊢
    have hamax : c.Landed .amax 0 := hl (.amax, 0, _) (List.mem_append_right _ (List.mem_singleton_self _))
    exact results_of_amax (hi s) hs hu rfl rfl (Ctx.targetsThere_nil rfl)
      (amaxWrites_update c.now c.choice c.e.lat fun l => amaxLane src dst (c.A l)) hrun hres
      (fun p hp => hl p (List.mem_append_left _ hp)) (fun h e m => (e 0 m).trans (hamax m)) fun _ => rfl

/-- Settles O15: the three conversions share one own part. -/
theorem conversions : Obligations.Conversions := fun _ =>
  ⟨converts_of_convBody fun _ => rfl, converts_of_convBody fun _ => rfl, converts_of_convBody fun _ => rfl⟩

end Sys2Proof.Machine
end

section
/-!
What the end of an issue, a trap and the end of a gang leave alone beside what `Frame` names: where a gang's lanes stand and what
becomes of its views may change, and gangs, blocks and launches of further shading gangs may come (R46, R81, R290, R301, R320 to R325).
-/

namespace Sys2Proof.Machine

/-- Of a gang, only its life, slices, exited lanes, trap registers, trap state, deferred traps, arrivals and stall may change. -/
def Gang.Ends (g h : Gang) : Prop := ∃ li wh sl ex re ts pt ar ss, h = { g with
  life := li, whole := wh, slices := sl, exited := ex, regs := re, trapState := ts, pendTraps := pt, arrivals := ar, stallSince := ss }

theorem Gang.Ends.refl (g : Gang) : g.Ends g := ⟨_, _, _, _, _, _, _, _, _, rfl⟩

theorem Gang.Ends.trans {g h k : Gang} (a : g.Ends h) (b : h.Ends k) : g.Ends k := by
  obtain ⟨_, _, _, _, _, _, _, _, _, rfl⟩ := a
  obtain ⟨_, _, _, _, _, _, _, _, _, rfl⟩ := b
  exact ⟨_, _, _, _, _, _, _, _, _, rfl⟩

theorem Gang.Ends.id {g h : Gang} (a : g.Ends h) : h.id = g.id := by obtain ⟨_, _, _, _, _, _, _, _, _, rfl⟩ := a; rfl

theorem Gang.ends_modSlice (g : Gang) (i : Nat) (f : Slice → Slice) : g.Ends (g.modSlice i f) := ⟨_, _, _, _, _, _, _, _, _, rfl⟩

theorem Gang.ends_foldl {α : Type} (f : Gang → α → Gang) (hf : ∀ (g : Gang) a, g.Ends (f g a)) (l : List α) (g : Gang) :
    g.Ends (l.foldl f g) := by
  induction l generalizing g with
  | nil => exact .refl g
  | cons a t ih => exact (hf g a).trans (ih _)

theorem Gang.ends_modAgent (g : Gang) (sl : Option Nat) (f : Slice → Slice) : g.Ends (g.modAgent sl f) :=
  Gang.ends_foldl _ (fun h i => h.ends_modSlice i f) _ g

theorem Gang.ends_escalate (g : Gang) (sl : Option Nat) (t : Trap) (m : Mask) (now : Nat) : g.Ends (g.escalate sl t m now) :=
  (g.ends_modAgent sl _).trans ⟨_, _, _, _, _, _, _, _, _, rfl⟩

theorem Gang.ends_enterHandler (g : Gang) (sl : Option Nat) (t : Trap) (m : Mask) (vec now : Nat) :
    g.Ends (g.enterHandler sl t m vec now) :=
  (Gang.ends_foldl _ (fun h i => h.ends_modSlice i _) _ g).trans ⟨_, _, _, _, _, _, _, _, _, rfl⟩

theorem Gang.ends_repart (g : Gang) : g.Ends g.repart := by
  unfold Gang.repart
  split
  · exact .refl g
  · split
    · exact ⟨_, _, _, _, _, _, _, _, _, rfl⟩
    · exact .refl g

/-- The end checks of an agent's slices change slices alone (R233). -/
theorem Gang.endClauses_shape {g h : Gang} {sl : Option Nat} (he : g.endClauses sl = some h) : ∃ l, h = { g with slices := l } := by
  have key : ∀ (l : List Nat) (acc : Option Gang), (∀ k, acc = some k → ∃ l, k = { g with slices := l }) →
      ∀ k, l.foldl (fun acc i => acc.bind (fun h => match h.slice? i with
        | some x => if x.active &&& g.live ≠ 0 ∧ x.atEnd then x.endClause.map (fun y => h.modSlice i (fun _ => y)) else some h
        | none => some h)) acc = some k → ∃ l, k = { g with slices := l } := by
    intro l
    induction l with
    | nil => intro acc ha k hk; exact ha k hk
    | cons i t ih =>
      intro acc ha k hk
      refine ih _ (fun m hm => ?_) k hk
      obtain ⟨h0, hacc, hm⟩ := Option.bind_eq_some_iff.1 hm
      obtain ⟨l0, rfl⟩ := ha h0 hacc
      split at hm
      · split at hm
        · obtain ⟨y, _, rfl⟩ := Option.map_eq_some_iff.1 hm
          exact ⟨_, rfl⟩
        · cases hm; exact ⟨_, rfl⟩
      · cases hm; exact ⟨_, rfl⟩
  exact key _ _ (fun k hk => by cases hk; exact ⟨_, rfl⟩) h he

theorem Gang.ends_endClauses {g h : Gang} {sl : Option Nat} (he : g.endClauses sl = some h) : g.Ends h := by
  obtain ⟨l, rfl⟩ := Gang.endClauses_shape he
  exact ⟨_, _, _, _, _, _, _, _, _, rfl⟩

/-- From `s` to `t` gangs change as `Gang.Ends` says, blocks may end, views may change or go, launches, blocks and gangs may come. -/
structure Ends (s t : State) : Prop where
  gangs : ∀ i g, s.gang? i = some g → ∃ h, t.gang? i = some h ∧ g.Ends h
  blocks : ∀ i b, s.block? i = some b → ∃ e, t.block? i = some { b with ended := e }
  launches : ∃ l, t.launches = s.launches ++ l
  fl : ∃ v, t.fl = { s.fl with views := v }
  pkg : ∃ a b c, t.pkg = { s.pkg with clock := a, nano := b, nanoRem := c }
  mem : t.mem = s.mem
  graphs : t.graphs = s.graphs
  parts : t.parts = s.parts
  saved : t.saved = s.saved
  out : t.out = s.out

section
variable {s t u : State}

theorem Ends.refl (s : State) : Ends s s where
  gangs _ g h := ⟨g, h, .refl g⟩
  blocks _ b h := ⟨b.ended, h⟩
  launches := ⟨[], (List.append_nil _).symm⟩
  fl := ⟨_, rfl⟩
  pkg := ⟨_, _, _, rfl⟩
  mem := rfl
  graphs := rfl
  parts := rfl
  saved := rfl
  out := rfl

theorem Ends.trans (a : Ends s t) (b : Ends t u) : Ends s u where
  gangs i g hg := by
    obtain ⟨h, hh, h1⟩ := a.gangs i g hg
    obtain ⟨k, hk, h2⟩ := b.gangs i h hh
    exact ⟨k, hk, h1.trans h2⟩
  blocks i d hd := by
    obtain ⟨e, he⟩ := a.blocks i d hd
    obtain ⟨e', he'⟩ := b.blocks i _ he
    exact ⟨e', he'⟩
  launches := by
    obtain ⟨l, hl⟩ := a.launches
    obtain ⟨l', hl'⟩ := b.launches
    exact ⟨l ++ l', by rw [hl', hl, List.append_assoc]⟩
  fl := by
    obtain ⟨v, hv⟩ := a.fl
    obtain ⟨v', hv'⟩ := b.fl
    exact ⟨v', by rw [hv', hv]⟩
  pkg := by
    obtain ⟨_, _, _, hp⟩ := a.pkg
    obtain ⟨x, y, z, hp'⟩ := b.pkg
    exact ⟨x, y, z, by rw [hp', hp]⟩
  mem := b.mem.trans a.mem
  graphs := b.graphs.trans a.graphs
  parts := b.parts.trans a.parts
  saved := b.saved.trans a.saved
  out := b.out.trans a.out

/-- States that differ in the poisoned grains, the numbers given, the choices and the turn alone. -/
theorem Ends.of_eq (h : ∃ e f c n o, t = { s with errs := e, fresh := f, choice := c, turn := n, counters := o }) : Ends s t := by
  obtain ⟨_, _, _, _, _, rfl⟩ := h
  exact ⟨(Ends.refl s).gangs, (Ends.refl s).blocks, (Ends.refl s).launches, ⟨_, rfl⟩, ⟨_, _, _, rfl⟩, rfl, rfl, rfl, rfl, rfl⟩

theorem Ends.errs (s : State) (e : Errors) : Ends s { s with errs := e } := .of_eq ⟨e, _, _, _, _, rfl⟩

theorem Ends.modGang {id : Nat} {f : Gang → Gang} (hf : ∀ g, s.gang? id = some g → g.Ends (f g)) (hid : ∀ g, (f g).id = g.id) :
    Ends s (s.modGang id f) where
  gangs i g hg := by
    rw [State.gang?_modGang hid, hg]
    refine ⟨if g.id = id then f g else g, rfl, ?_⟩
    split
    next h =>
      have : i = id := (State.gang?_id hg).symm.trans h
      exact hf g (this ▸ hg)
    next => exact .refl g
  blocks _ b h := ⟨b.ended, h⟩
  launches := ⟨[], (List.append_nil _).symm⟩
  fl := ⟨_, rfl⟩
  pkg := ⟨_, _, _, rfl⟩
  mem := rfl
  graphs := rfl
  parts := rfl
  saved := rfl
  out := rfl

theorem Ends.modGang_all {id : Nat} {f : Gang → Gang} (hf : ∀ g : Gang, g.Ends (f g)) : Ends s (s.modGang id f) :=
  Ends.modGang (fun g _ => hf g) fun g => (hf g).id

theorem Ends.views (f : List View → List View) : Ends s { s with fl := { s.fl with views := f s.fl.views } } :=
  ⟨(Ends.refl s).gangs, (Ends.refl s).blocks, (Ends.refl s).launches, ⟨_, rfl⟩, ⟨_, _, _, rfl⟩, rfl, rfl, rfl, rfl, rfl⟩

theorem Ends.endBlock (id : Nat) : Ends s (s.modBlock id (fun b => { b with ended := true })) where
  gangs := (Ends.refl s).gangs
  blocks i b hb := by
    rw [State.block?_modBlock (f := fun b => { b with ended := true }) fun _ => rfl, hb]
    by_cases h : b.id = id
    · exact ⟨true, by rw [Option.map_some, if_pos h]⟩
    · exact ⟨b.ended, by rw [Option.map_some, if_neg h]⟩
  launches := (Ends.refl s).launches
  fl := ⟨_, rfl⟩
  pkg := ⟨_, _, _, rfl⟩
  mem := rfl
  graphs := rfl
  parts := rfl
  saved := rfl
  out := rfl

theorem Ends.startShading (v : View) (hdr : LaunchHdr) (rays : List Ray) (cl pl : Nat) : Ends s (s.startShading v hdr rays cl pl) where
  gangs i g hg := by
    refine ⟨g, ?_, .refl g⟩
    show List.find? _ (_ ++ _) = _
    rw [List.find?_append, show s.gangs.find? (fun g => g.id == i) = some g from hg]; rfl
  blocks i b hb := by
    refine ⟨b.ended, ?_⟩
    show List.find? _ (_ ++ _) = _
    rw [List.find?_append, show s.blocks.find? (fun b => b.id == i) = some b from hb]; rfl
  launches := ⟨_, rfl⟩
  fl := ⟨_, rfl⟩
  pkg := ⟨_, _, _, rfl⟩
  mem := rfl
  graphs := rfl
  parts := rfl
  saved := rfl
  out := rfl

theorem Ends.startNext {l lv w : Nat} (h : s.startNext l lv w = some t) : Ends s t := by
  unfold State.startNext at h
  split at h
  · cases h
  · split at h
    · cases h; exact Ends.startShading ..
    · cases h

theorem Ends.shadeEnded (b v : Nat) : Ends s (s.shadeEnded b v) := by
  unfold State.shadeEnded
  have h1 : Ends s ((s.modView v (fun w => { w with running := w.running - 1 })).modBlock b (fun b => { b with ended := true })) :=
    (Ends.views (mapWhere (fun x => x.id == v) _)).trans (Ends.endBlock b)
  dsimp only
  split
  · exact h1
  · refine h1.trans ?_
    have hd : ∀ (u : State) (c : Bool) (i : Nat), Ends u (if c then u.dropView i else u) := fun u c i => by
      cases c
      · exact .refl u
      · exact Ends.views (List.filter (fun x => x.id != i))
    refine Ends.trans ?_ (hd _ _ _)
    cases hn : State.startNext _ _ _ _ with
    | none => exact .refl _
    | some u => exact Ends.startNext hn

theorem Ends.endGang (gid : Nat) : Ends s (s.endGang gid) := by
  unfold State.endGang
  split
  · exact .refl s
  · split
    · exact .refl s
    · have h1 : Ends s (s.modGang gid (fun g => { g with life := .ended, pendTraps := [], arrivals := [] })) :=
        Ends.modGang_all fun g => ⟨_, _, _, _, _, _, _, _, _, rfl⟩
      dsimp only
      split
      · exact h1.trans (Ends.shadeEnded ..)
      · exact h1

theorem Ends.endShading (g : Gang) (v : Nat) (px : List (Nat × Nat)) : Ends s (s.endShading g v px) :=
  (Ends.modGang_all fun _ => ⟨_, _, _, _, _, _, _, _, _, rfl⟩).trans
    ((Ends.views (mapWhere (fun x => x.id == v) _)).trans (Ends.endGang g.id))

theorem Ends.escalates (g : Gang) (sl : Option Nat) (tr : Trap) (m : Mask) : Ends s (s.escalates g sl tr m) := by
  unfold State.escalates
  have h1 : Ends s (s.modGang g.id (fun g => g.escalate sl tr m s.pkg.clock)) := Ends.modGang_all fun g => g.ends_escalate sl tr ..
  dsimp only
  split
  · exact h1.trans (Ends.endShading ..)
  · exact h1

theorem Ends.cleanTrapState (gid : Nat) : Ends s (s.cleanTrapState gid) := by
  unfold State.cleanTrapState
  split
  · exact .refl s
  · exact .of_eq ⟨_, _, _, _, _, rfl⟩

/-- Taking a trap (R320 to R325). -/
theorem Ends.takeTrap (aid : AgentId) (tr : Trap) (m : Mask) : Ends s (s.takeTrap aid tr m) := by
  unfold State.takeTrap
  split
  · exact .refl s
  · extract_lets vec now
    split
    · split
      · exact Ends.escalates ..
      · exact Ends.modGang_all fun g => g.ends_modAgent ..
    · split
      · exact Ends.escalates ..
      · exact (Ends.modGang_all fun g => g.ends_enterHandler ..).trans (Ends.cleanTrapState _)

theorem Ends.endTurn (e k : Nat) : Ends s (s.endTurn e k) := by
  unfold State.endTurn
  dsimp only
  split
  · exact .of_eq ⟨_, _, _, _, _, rfl⟩
  · exact ⟨(Ends.refl s).gangs, (Ends.refl s).blocks, (Ends.refl s).launches, ⟨_, rfl⟩, ⟨_, _, _, rfl⟩, rfl, rfl, rfl, rfl, rfl⟩

theorem Ends.trapAtNext (aid : AgentId) (tr : Trap) (same : Gang → Bool) (h : s.Untwinned aid.gang) :
    Ends s (s.trapAtNext aid tr same) := by
  unfold State.trapAtNext
  split
  · exact .refl s
  next g hg => rw [h g hg]; exact Ends.takeTrap ..

theorem Ends.endBodies (aid : AgentId) (h : s.Untwinned aid.gang) : Ends s (s.endBodies aid) := by
  unfold State.endBodies
  split
  · exact .refl s
  next g hg =>
    split
    next k he =>
      have hk : g.Ends k.repart := (Gang.ends_endClauses he).trans k.ends_repart
      have hid := State.gang?_id hg
      refine ⟨fun i x hx => ?_, (Ends.refl s).blocks, (Ends.refl s).launches, ⟨_, rfl⟩, ⟨_, _, _, rfl⟩, rfl, rfl, rfl, rfl, rfl⟩
      have hfind : (s.modGang g.id (fun _ => k.repart)).gang? i = (s.gang? i).map (fun x => if x.id == g.id then k.repart else x) := by
        unfold State.gang? State.modGang
        exact find?_mapWhere _ _ _ _ fun x hx' => by rw [hk.id, beq_iff_eq.1 hx']
      rw [hfind, hx]
      refine ⟨if x.id == g.id then k.repart else x, rfl, ?_⟩
      split
      next heq =>
        have hi : i = aid.gang := (State.gang?_id hx).symm.trans ((beq_iff_eq.1 heq).trans hid)
        obtain rfl : g = x := Option.some.inj (hg.symm.trans (hi ▸ hx))
        exact hk
      next => exact .refl x
    · split
      · split
        · exact Ends.trapAtNext _ _ _ h
        · exact .refl s
      · exact .refl s

/-- What follows an instruction's effect: its gang is as `leaves` says but for what `Ends` allows (R81, R84). -/
theorem Ends.finish (c : Ctx) (rst jumped : Bool) (h : s.Untwinned c.aid.gang) :
    Ends (s.modGang c.g.id (c.leaves s rst jumped)) (s.finish c rst jumped) := by
  have hupd : ∀ g, (c.leaves s rst jumped g).id = g.id ∧ (c.leaves s rst jumped g).kind = g.kind ∧
      (c.leaves s rst jumped g).life = g.life := fun g => Gang.named_foldl (c.issued jumped) (c.g.members c.aid.slice) g
  have h1 : ∀ e n, Ends (s.modGang c.g.id (c.leaves s rst jumped))
      (State.endBodies { ({ s with errs := e }.modGang c.g.id (c.leaves s rst jumped)) with choice := n } c.aid) := fun e n =>
    (Ends.of_eq ⟨e, s.fresh, n, s.turn, s.counters, rfl⟩).trans (Ends.endBodies _ ((h.modGang hupd).of_gangs rfl))
  have h2 : ∀ r : State, (∃ e, r = { s with errs := e }) → Ends (s.modGang c.g.id (c.leaves s rst jumped))
      (let s1 := r.modGang c.g.id (c.leaves s rst jumped)
       let s2 := { s1 with choice := s1.choice + 1 }.endBodies c.aid
       if c.resumed then s2 else s2.endTurn c.g.easel 0) := by
    rintro r ⟨e, rfl⟩
    dsimp only
    split
    · exact h1 e _
    · exact (h1 e _).trans (Ends.endTurn ..)
  refine h2 _ ?_
  split
  · exact ⟨s.errs, rfl⟩
  · exact ⟨_, rfl⟩

/-! ### What this keeps -/

theorem Ends.specials (h : Ends s t) : t.fl.specials = s.fl.specials := by obtain ⟨v, hv⟩ := h.fl; rw [hv]
theorem Ends.ops (h : Ends s t) : t.fl.ops = s.fl.ops := by obtain ⟨v, hv⟩ := h.fl; rw [hv]
theorem Ends.fences (h : Ends s t) : t.fl.fences = s.fl.fences := by obtain ⟨v, hv⟩ := h.fl; rw [hv]
theorem Ends.cctls (h : Ends s t) : t.fl.cctls = s.fl.cctls := by obtain ⟨v, hv⟩ := h.fl; rw [hv]
theorem Ends.copies (h : Ends s t) : t.fl.copies = s.fl.copies := by obtain ⟨v, hv⟩ := h.fl; rw [hv]
theorem Ends.ctxs (h : Ends s t) : t.fl.ctxs = s.fl.ctxs := by obtain ⟨v, hv⟩ := h.fl; rw [hv]
theorem Ends.jobs (h : Ends s t) : t.fl.jobs = s.fl.jobs := by obtain ⟨v, hv⟩ := h.fl; rw [hv]

theorem Gang.Ends.cede {g h : Gang} (a : g.Ends h) : h.cede = g.cede := by obtain ⟨_, _, _, _, _, _, _, _, _, rfl⟩ := a; rfl

end

end Sys2Proof.Machine
end

section
/-!
Proofs of the instructions that read state and of those that leave registers alone: VSTAT and DEADRD (R288, R332), MCOEF, MISTAT and
MNORM (R163, R172, R173), NOP, PAD, YIELD, KWAIT and SIGCHK (R74, R229, R237, R238, R247), opcodes of no instruction (R78), and the
issue of the special functions (R120).
-/

namespace Sys2Proof.Machine

section
variable {s t u : State} {cls op : Nat} {f : Fields} {c : Ctx} {b : Body} {g h : Gang} {i : Instr}

/-! ### The end of an issue as a whole -/

/-- An instruction whose own part leaves `t` has completed in `u`: its agent goes on, and but for that `u` is as `t`. -/
structure Ctx.Completes (c : Ctx) (t u : State) (h k : Gang) : Prop where
  gang : u.gang? c.g.id = some k
  frame : Frame nothing (· = 0x07) t u
  goes : c.goesOn u
  ends : ∃ rst, Ends (t.modGang c.g.id (c.leaves t rst false)) u ∧ (c.leaves t rst false h).Ends k

theorem Ctx.leaves_id (c : Ctx) (s : State) (rst jumped : Bool) (g : Gang) : (c.leaves s rst jumped g).id = g.id :=
  (Gang.named_foldl (c.issued jumped) (c.g.members c.aid.slice) g).1

/-- An instruction that nothing stands before and whose own part is done completes. -/
theorem completes_of_done (hi : exec i s = issueOp cls op f b s)
    (hs : Sees s cls op f c) (hu : c.Unhindered s (b.late c (s.begun c.aid)) (b.more c))
    (ht : b.target c (s.begun c.aid) = none) (hx : b.unassigned = none) (hw : c.targetsThere b (s.begun c.aid))
    (hr : b.run c (s.begun c.aid) = .done t) (hd : c.Done t h) : ∃ u k, exec i s = .next u ∧ c.Completes t u h k := by
  obtain ⟨-, hid, -⟩ := hs.spec
  obtain ⟨e, hnext⟩ := issueOp_completes hs hu ht hx hw hr
  obtain ⟨hgo, hfin⟩ := hd.finish hid (b.rst c)
  have hends := (Ends.finish c (b.rst c) false hd.untwinned).trans (.errs _ e)
  obtain ⟨k, hk, hkends⟩ := hends.gangs c.g.id (c.leaves t (b.rst c) false h)
    (by rw [State.gang?_modGang_same fun g => c.leaves_id ..]; rw [hd.gang]; rfl)
  exact ⟨_, k, hi.trans hnext, hk, hfin.trans (.of_eq rfl rfl rfl), hgo, _, hends, hkends⟩

theorem Ctx.Completes.fl (hc : c.Completes t u g h) : ∃ v, u.fl = { t.fl with views := v } := by
  obtain ⟨rst, he, -⟩ := hc.ends; exact he.fl

theorem Ctx.leaves_cede (c : Ctx) (s : State) (rst jumped : Bool) (hg : g.cede = true) : (c.leaves s rst jumped g).cede = true := by
  show (g.cede || _) = true
  rw [hg]; rfl

/-- An update of a gang beside its registers, whose part in what `Gang.rest` names depends on that alone. -/
structure Aside (k : Gang → Gang) : Prop where
  id : ∀ g, (k g).id = g.id
  rest : ∀ g h, h.rest = g.rest → (k h).rest = (k g).rest
  regs : ∀ g, (k g).regs = g.regs
  getR : ∀ g r x l, (k g).getR r x l = g.getR r x l

/-- What a frame allows it allows beside one more such update. -/
theorem Frame.aside {W : Nat → RFile → Nat → Nat → Prop} {T : Nat → Prop} {n : Nat} {k : Gang → Gang} (hk : Aside k)
    (a : Frame W T s t) : Frame W T (s.modGang n k) (t.modGang n k) where
  gangs i g hg := by
    rw [State.gang?_modGang hk.id] at hg ⊢
    obtain ⟨x, hx, rfl⟩ := Option.map_eq_some_iff.1 hg
    obtain ⟨y, hy, hrest, hregs, hget⟩ := a.gangs i x hx
    have hxy : y.id = x.id := (State.gang?_id hy).trans (State.gang?_id hx).symm
    refine ⟨if y.id = n then k y else y, by rw [hy]; rfl, ?_⟩
    rw [hxy]
    split
    · exact ⟨hk.rest _ _ hrest, by rw [hk.regs, hk.regs]; exact hregs, fun r x l hl hw => by rw [hk.getR, hk.getR, hget r x l hl hw]⟩
    · exact ⟨hrest, hregs, hget⟩
  blocks := a.blocks
  mem := a.mem

/-! ### Status words (R287, R288, R332) -/

theorem aside_viewStatus (j : Nat) : Aside (fun g => { g with viewStatus := mapSet g.viewStatus j 0 }) where
  id _ := rfl
  rest g h e := by simp only [Gang.rest, Prod.mk.injEq] at e ⊢; simp only [e, and_self]
  regs _ := rfl
  getR _ r _ _ := by cases r <;> rfl

theorem aside_newDead : Aside (fun g => { g with newDead := 0 }) where
  id _ := rfl
  rest g h e := by simp only [Gang.rest, Prod.mk.injEq] at e ⊢; simp only [e, and_self]
  regs _ := rfl
  getR _ r _ _ := by cases r <;> rfl

/-- A result of the agent beside an update of its gang: the instruction leaves both (R135). -/
theorem resultsFrom_of_aside_putQ {k : Gang → Gang} {r : RFile} {x : Nat} {v : Reg} (hk : Aside k) (hst : ∀ g, (k g).standing = g.standing)
    (hi : exec i s = issueOp cls op f b s) (hs : Sees s cls op f c)
    (hu : c.Unhindered s (b.late c (s.begun c.aid)) (b.more c)) (ht : b.target c (s.begun c.aid) = none)
    (hx : b.unassigned = none) (hw : c.targetsThere b (s.begun c.aid)) (hr : r = .q ∨ r = .c)
    (hrun : b.run c (s.begun c.aid) = .done ((c.putQ (s.begun c.aid) r x v).modGang c.g.id k)) (hl : c.Landed r x) :
    ResultsFrom i s (s.modGang c.g.id k) c [(r, x, fun _ => v)] := by
  obtain ⟨h, hh, hval, -⟩ := (hs.done_begun hu.toUndisturbed).putQ (v := v) hr ((c.g.oldOf_modAgent ..).trans (hl 0))
  refine resultsFrom_of_done hi hs hu ht hx hw hrun (hh.modGang hst) (((Frame.begun s c.aid).trans
    (Frame.putQ fun r' x' l hn => Ctx.not_may_shared hr hn)).aside hk) fun p hp lane _ he => ?_
  obtain rfl := List.mem_singleton.1 hp
  rw [hk.getR, hval (any_of_hasLane he) lane, Gang.getR_modAgent]

/-- The same for a result in the executing lanes (R80). -/
theorem resultsFrom_of_aside_puts {k : Gang → Gang} {l : List (RFile × Nat × (Nat → Reg))} (hk : Aside k)
    (hst : ∀ g, (k g).standing = g.standing) (hi : exec i s = issueOp cls op f b s) (hs : Sees s cls op f c)
    (hu : c.Unhindered s (b.late c (s.begun c.aid)) (b.more c)) (ht : b.target c (s.begun c.aid) = none)
    (hx : b.unassigned = none) (hw : c.targetsThere b (s.begun c.aid))
    (hrun : b.run c (s.begun c.aid) = .done ((c.puts (s.begun c.aid) l).modGang c.g.id k)) (hres : Resulting l)
    (hl : ∀ p ∈ l, c.Landed p.1 p.2.1) : ResultsFrom i s (s.modGang c.g.id k) c l := by
  obtain ⟨h, hd, hval, -⟩ := (hs.done_begun hu.toUndisturbed).puts hres fun p hp lane => (c.g.oldOf_modAgent ..).trans (hl p hp lane)
  refine resultsFrom_of_done hi hs hu ht hx hw hrun (hd.modGang hst)
    (((Frame.begun s c.aid).trans (Frame.puts _ _ _ fun _ => id)).aside hk) fun p hp lane hlt he => ?_
  rw [hk.getR, hval p hp lane hlt he, Gang.getR_modAgent]

end

/-- Settles O17: the word is written as it stands, and cleared where .clr asks and a lane executes. -/
theorem statusReads : Obligations.StatusReads := by
  intro f
  refine ⟨fun s c hs hu hl => ?_, fun s c hs hu hl => ?_⟩
  · cases hclr : modBit f 3 && c.any with
    | true =>
      refine resultsFrom_of_aside_putQ (aside_viewStatus _) (fun _ => rfl) rfl hs hu rfl rfl (Ctx.targetsThere_nil rfl) (.inl rfl) ?_ hl
      dsimp only; rw [if_pos hclr]
    | false =>
      refine results_of_putQ rfl hs hu rfl rfl (Ctx.targetsThere_nil rfl) (.inl rfl) ?_ hl
      dsimp only; rw [if_neg (by rw [hclr]; decide)]
  · have hres : Resulting [(RFile.d, f.d.toNat, fun _ => c.g.dead.setWidth 64 ||| (c.g.newDead.setWidth 64 <<< 32))] :=
      ⟨by simp, by simp [fits_d], by simp⟩
    cases hclr : modBit f 0 && c.any with
    | true =>
      refine resultsFrom_of_aside_puts aside_newDead (fun _ => rfl) rfl hs hu rfl rfl (Ctx.targetsThere_nil rfl) ?_ hres (by simpa using hl)
      dsimp only; rw [if_pos hclr]; rfl
    | false =>
      refine results_of_puts rfl hs hu rfl rfl (Ctx.targetsThere_nil rfl) ?_ hres (by simpa using hl)
      dsimp only; rw [if_neg (by rw [hclr]; decide)]; rfl

/-! ### Reads of the iteration registers (R163, R172, R173) -/

section
variable {s : State} {f : Fields} {c : Ctx}

/-- An MTX instruction with its engine there and no wrong format goes on to its own part (R159, R160). -/
theorem Ctx.mtx_of_there (h : c.engineThere) (s : State) (k : State → Res) : c.mtx s 0 k = k s := by
  obtain ⟨h1, h2⟩ := h
  unfold Ctx.mtx Ctx.absent
  rw [h1, h2]; rfl

/-- A mark of a q register changes what is poisoned, and nothing else (R344). -/
theorem State.markQ_eq (s : State) (gid r : Nat) (bad : Bool) : ∃ e, s.markQ gid r bad = { s with errs := e } := by
  have key : ∀ (l : List Nat) (s : State), ∃ e, l.foldl (fun s i =>
      if bad then s.addPoison (.q i r) else s.clearPoison (· == .q i r)) s = { s with errs := e } := by
    intro l
    induction l with
    | nil => exact fun s => ⟨s.errs, rfl⟩
    | cons i l ih =>
      intro s
      obtain ⟨e, he⟩ := ih (if bad then s.addPoison (.q i r) else s.clearPoison (· == .q i r))
      refine ⟨e, he.trans ?_⟩
      cases bad with
      | true => rw [if_pos rfl]; unfold State.addPoison; split <;> rfl
      | false => rfl
  unfold State.markQ
  split
  · exact ⟨s.errs, rfl⟩
  · exact key _ s

/-- One result of the agent beside what is in flight and what is poisoned. -/
theorem results_of_putQ_beside {i : Instr} {cls op : Nat} {b : Body} {r : RFile} {x : Nat} {v : Reg} {fl : Flight} {e : Errors}
    (hi : exec i s = issueOp cls op f b s) (hs : Sees s cls op f c)
    (hu : c.Unhindered s (b.late c (s.begun c.aid)) (b.more c)) (ht : b.target c (s.begun c.aid) = none)
    (hx : b.unassigned = none) (hw : c.targetsThere b (s.begun c.aid)) (hr : r = .q ∨ r = .c)
    (hrun : b.run c (s.begun c.aid) = .done { c.putQ (s.begun c.aid) r x v with fl := fl, errs := e }) (hl : c.Landed r x) :
    Results i s c [(r, x, fun _ => v)] := by
  obtain ⟨h, hh, hval, -⟩ := (hs.done_begun hu.toUndisturbed).putQ (v := v) hr ((c.g.oldOf_modAgent ..).trans (hl 0))
  refine resultsFrom_of_done hi hs hu ht hx hw hrun (hh.of_gangs rfl) (((Frame.begun s c.aid).trans
    (Frame.putQ fun r' x' l hn => Ctx.not_may_shared hr hn)).trans (.of_eq rfl rfl rfl)) fun p hp lane _ he => ?_
  obtain rfl := List.mem_singleton.1 hp
  rw [hval (any_of_hasLane he) lane, Gang.getR_modAgent]

/-- A job dropped before the result is written is dropped after it. -/
theorem Ctx.putQ_dropJob (c : Ctx) (s : State) (id : Nat) (r : RFile) (x : Nat) (v : Reg) :
    c.putQ (s.dropJob id) r x v = { c.putQ s r x v with fl := (s.dropJob id).fl } := by
  unfold Ctx.putQ; split <;> rfl

end

/-- Settles O18: the engine being there, each reads its value; the jobs and marks that change are none of what a result leaves. -/
theorem iterationReads : Obligations.IterationReads := by
  intro f
  refine ⟨fun s c hs hu he hl => ?_, fun s c hs hu he hl hbusy => ?_, fun s c id v hs hu he hl hmn => ?_⟩
  · have h := results_of_putQ (i := .mcoef f) (v := coefVal f (if immOf f then BitVec.ofNat 64 (imm16 f) else c.A c.low)) rfl hs hu
      rfl rfl (Ctx.targetsThere_nil rfl) (.inr rfl) (by dsimp only; rw [Ctx.mtx_of_there he]) hl
    exact h
  · obtain ⟨e, hmark⟩ := (c.putQ (s.begun c.aid) .q f.d.toNat (c.g.regs.mistat (modBit f 0))).markQ_eq c.g.id f.d.toNat c.g.regs.miBad
    refine results_of_putQ_beside (v := c.g.regs.mistat (modBit f 0)) (fl := (c.putQ (s.begun c.aid) .q f.d.toNat
      (c.g.regs.mistat (modBit f 0))).fl) (e := if c.any then e else (c.putQ (s.begun c.aid) .q f.d.toNat
      (c.g.regs.mistat (modBit f 0))).errs) rfl hs hu rfl rfl (Ctx.targetsThere_nil rfl) (.inl rfl)
      ?_ hl
    have hb : (s.begun c.aid).mxBusy c.g.id = false := hbusy
    dsimp only
    rw [Ctx.mtx_of_there he]
    simp only [hb, Bool.false_eq_true, if_false, hmark]
    cases c.any <;> rfl
  · have hmn' : (s.begun c.aid).mnormOf c.lead.hold = some (id, some v) := hmn
    have hcause : (if ((s.begun c.aid).mnormOf c.lead.hold).isSome then 0 else c.loopCause) = 0 := by rw [hmn']; rfl
    cases hany : c.any with
    | false =>
      refine results_of_putQ rfl hs hu rfl rfl (Ctx.targetsThere_nil rfl) (.inl rfl) ?_ hl
      dsimp only
      rw [hcause, Ctx.mtx_of_there he, Ctx.putQ, hany]; rfl
    | true =>
      obtain ⟨e, hmark⟩ := (c.putQ ((s.begun c.aid).dropJob id) .q f.d.toNat v.1).markQ_eq c.g.id f.d.toNat v.2
      refine results_of_putQ_beside (v := v.1) (fl := ((s.begun c.aid).dropJob id).fl) (e := e) rfl hs hu rfl rfl
        (Ctx.targetsThere_nil rfl) (.inl rfl) ?_ hl
      dsimp only
      rw [hcause, Ctx.mtx_of_there he]
      simp only [hany, hmn', Bool.not_true, Bool.false_eq_true, if_false]
      rw [hmark, Ctx.putQ_dropJob]

/-! ### Instructions that leave registers alone (R74, R229, R237, R238, R247) -/

section
variable {s : State} {f : Fields} {c : Ctx}

/-- A NOP has no token (R74). -/
theorem nop_tokenFull {cls : BitVec 3} (hs : Sees s cls.toNat 0 f c) : c.tokenFull = false := by
  have he := State.ctx?_entry hs.2
  have htok : ∀ (cls : BitVec 3) win, ((entryOf cls.toNat 0 f win).getD {}).tok = .no := fun cls win => by
    have hcases : cls = 0 ∨ cls = 1 ∨ cls = 2 ∨ cls = 3 ∨ cls = 4 ∨ cls = 5 ∨ cls = 6 ∨ cls = 7 := by
      revert cls; decide
    rcases hcases with rfl | rfl | rfl | rfl | rfl | rfl | rfl | rfl <;> rfl
  unfold Ctx.tokenFull
  rw [he, htok]; rfl

/-- An undisturbed NOP is done with as it begins (R74). -/
theorem nop_outcome {cls : BitVec 3} {b : Body} (hs : Sees s cls.toNat 0 f c) (hu : c.Undisturbed s) (hn : b.nop = true) :
    c.outcome b (s.begun c.aid) = b.run c (s.begun c.aid) := by
  have hc : s.errs.poison = [] := hu.clean
  have hb : c.before b (s.begun c.aid) = none := by
    unfold Ctx.before Ctx.checks Ctx.early
    simp only [hu.noTrap, ite_self, hn, if_true]
  have ha : c.acts b (s.begun c.aid) = b.run c (s.begun c.aid) := by
    unfold Ctx.acts Ctx.runs Ctx.softK Ctx.soft
    simp only [State.begun_errs, hc, if_true, ite_self, nop_tokenFull hs]; rfl
  unfold Ctx.outcome Ctx.survive
  simp only [hb, State.begun_errs, hc, decide_true, Bool.true_or, if_true, ha]

theorem doneFrom_nop {cls : BitVec 3} (hs : Sees s cls.toNat 0 f c) (hu : c.Undisturbed s) : DoneFrom (.nop cls f) s s c := by
  have hd := hs.done_begun hu
  obtain ⟨-, hid, -⟩ := hs.spec
  obtain ⟨hgo, hfin⟩ := hd.finish hid false
  refine ⟨_, (issueOp_plain hs hu.kind hu.alone ?_).trans (congrArg _ ?_), (Frame.begun s c.aid).trans hfin, hgo⟩
  · rw [Ctx.result, nop_outcome hs hu rfl]
    exact State.finish_clean hu.clean
  · rw [Ctx.result, nop_outcome hs hu rfl]; rfl

end

/-- Settles O19: nothing but the end of their issue happens. -/
theorem noRegisterEffect : Obligations.NoRegisterEffect := by
  intro f
  have hbegun : ∀ {s cls op c}, Sees s cls op f c → c.Undisturbed s → ∀ {b : Body} {i}, exec i s = issueOp cls op f b s →
      c.Unhindered s (b.late c (s.begun c.aid)) (b.more c) → b.target c (s.begun c.aid) = none → b.unassigned = none →
      b.needs c = [] → b.run c (s.begun c.aid) = .done (s.begun c.aid) → DoneFrom i s s c :=
    fun hs hu0 _ _ hi hu ht hx hn hr =>
      doneFrom_of_done hi hs hu ht hx (Ctx.targetsThere_nil hn) hr (hs.done_begun hu0) (Frame.begun ..)
  refine ⟨fun cls s c hs hu => doneFrom_nop hs hu, fun s c hs hu => ?pad, fun s c hs hu => ?yield, fun s c hs hu hex => ?cede,
    fun s c hs hu => ?kwait, fun s c hs hu hsig => ?sigchk⟩
  case pad => exact hbegun hs hu.toUndisturbed rfl hu rfl rfl rfl rfl
  case yield =>
    cases hany : c.any with
    | false =>
      refine hbegun hs hu.toUndisturbed rfl hu rfl rfl rfl ?_
      dsimp only; rw [hany]; rfl
    | true =>
      refine doneFrom_of_done rfl hs hu rfl rfl (Ctx.targetsThere_nil rfl) (congrArg Res.done (if_pos hany))
        ((hs.done_begun hu.toUndisturbed).modGang fun _ => rfl) ((Frame.begun s c.aid).trans (Frame.modGang fun g => ?_))
      exact ⟨rfl, rfl, .inl rfl, rfl, rfl, rfl, rfl, rfl⟩
  case cede =>
    have hany : c.any = true := decide_eq_true hex
    obtain ⟨u, k, hu', hc⟩ := completes_of_done (i := .yield f) rfl hs hu rfl rfl (Ctx.targetsThere_nil rfl)
      (congrArg Res.done (if_pos hany)) ((hs.done_begun hu.toUndisturbed).modGang (f := fun g => { g with cede := true }) fun _ => rfl)
    obtain ⟨rst, -, hk⟩ := hc.ends
    exact ⟨u, k, hu', hc.gang, hk.cede.trans (c.leaves_cede _ _ _ rfl)⟩
  case kwait =>
    intro p hp
    refine hbegun hs hu.toUndisturbed rfl hu rfl rfl rfl ?_
    have hover : c.g.kwaitOver p.1 p.2 = true := by
      refine List.all_eq_true.2 fun j hj => ?_
      cases hb : bitAt p.1 j with
      | false => rfl
      | true => exact decide_eq_true (hp j (List.mem_range.1 hj) hb)
    exact if_pos (Bool.or_eq_true_iff.2 (.inr hover))
  case sigchk =>
    refine hbegun hs hu.toUndisturbed rfl hu rfl rfl rfl (if_pos ?_)
    cases hsl : c.aid.slice with
    | some i => simp
    | none => simp [hsig hsl]

end Sys2Proof.Machine
end

section
/-!
Proofs of what an opcode of no instruction raises (R74, R78, R324), and of the issue of the special functions (R41, R120).
-/

namespace Sys2Proof.Machine

section
variable {s t u : State} {cls op : Nat} {f : Fields} {c : Ctx} {b : Body} {g h : Gang} {i : Instr}

/-! ### Opcodes of no instruction (R74, R78) -/

/-- An opcode of no instruction that comes to issue traps before anything else of it is looked at (R79). -/
theorem unassigned_outcome {cause : Nat} (hu : c.Undisturbed s) (hn : c.Anew s) (hx : b.unassigned = some cause) (hb : b.nop = false) :
    c.outcome b (s.begun c.aid) = .trap (s.begun c.aid) (c.mkTrap 0x02 c.act 0 cause) c.lim := by
  obtain ⟨hres, hacc⟩ := hn
  have hpark : (s.begun c.aid).replays c.aid = false := by
    have h : (s.begun c.aid).parkOf c.aid = none := hu.noPark
    unfold State.replays; rw [h]; rfl
  have hacc' : (s.begun c.aid).accepted c.lead.hold = false := hacc
  unfold Ctx.outcome Ctx.before Ctx.checks Ctx.early
  simp only [hu.noTrap, ite_self, hres, hpark, hacc', hb, hx, Bool.or_self, Bool.false_eq_true, if_false]

/-- The agent's gang held at an instruction that it has not issued (R73). -/
def Ctx.holding (c : Ctx) (w : Hold) (g : Gang) : Gang :=
  g.modAgent c.aid.slice (fun x => { x with hold := w, earliest := max x.earliest (c.now + 1), readySince := none })

theorem State.held_eq_holding {w : Hold} (hw : w.issued = false) : State.held c t w = t.modGang c.g.id (c.holding w) := by
  unfold State.held
  simp only [hw, Bool.false_and, Bool.false_eq_true, if_false, Bool.or_false]
  refine congrArg _ (funext fun g => ?_)
  have hkeep : ∀ (l : List Nat) (u : Slice → Slice) (g : Gang), (l.foldl (fun h i => h.modSlice i u) g).lastIssue = g.lastIssue ∧
      (l.foldl (fun h i => h.modSlice i u) g).readySince = g.readySince ∧ (l.foldl (fun h i => h.modSlice i u) g).cede = g.cede := by
    intro l u
    induction l with
    | nil => exact fun g => ⟨rfl, rfl, rfl⟩
    | cons i l ih => exact fun g => ih (g.modSlice i u)
  obtain ⟨h1, h2, h3⟩ := hkeep (g.members c.aid.slice)
    (fun x => { x with hold := w, earliest := max x.earliest (c.now + 1), readySince := none }) g
  unfold Ctx.holding Gang.modAgent
  rw [← h1, ← h2, ← h3]

theorem Ctx.same_holding {T : Nat → Prop} (c : Ctx) (w : Hold) (g : Gang) : Gang.Same T g (c.holding w g) := g.same_modAgent ..

theorem Gang.members_modAgent (g : Gang) (sl : Option Nat) (u : Slice → Slice) (sl' : Option Nat) :
    (g.modAgent sl u).members sl' = g.members sl' := by
  obtain ⟨hn, he, hd⟩ := Gang.lanes_foldl u (g.members sl) g
  exact Gang.members_congr hn he hd sl'

/-- An agent held at its instruction without having issued it: its slices are held, and nothing else changes (R73). -/
theorem held_spec {w : Hold} (hw : w.issued = false) (hd : t.gang? c.g.id = some g)
    (hm : g.members c.aid.slice = c.g.members c.aid.slice) :
    ∃ k, (State.held c t w).gang? c.g.id = some k ∧ Frame nothing (fun _ => False) t (State.held c t w) ∧
      ∀ j ∈ c.g.members c.aid.slice, ∀ x, g.slice? j = some x → ∃ y, k.slice? j = some y ∧ y.hold = w ∧ y.point = x.point ∧
        y.active = x.active := by
  rw [State.held_eq_holding hw]
  refine ⟨c.holding w g, by rw [State.gang?_modGang_same fun g => (c.same_holding (T := fun _ => False) w g).id, hd]; rfl,
    Frame.modGang (c.same_holding w), fun j hj x hx => ?_⟩
  rw [Ctx.holding, Gang.slice?_modAgent, if_pos (hm ▸ hj), hx]
  exact ⟨_, rfl, rfl, rfl, rfl⟩

end

/-- Settles O20: the trap comes first of all, or its agent is held. -/
theorem unassignedOpcodes : Obligations.UnassignedOpcodes := by
  intro cls op f s c hs hu hn
  have hout := unassigned_outcome (b := { unassigned := some (if op = 0x7F then 2 else 1), run := fun (_ : Ctx) s => .done s })
    hu hn rfl rfl
  refine ⟨fun hbar => ?_, fun hbar => ?_⟩
  · have hres : c.result _ (s.begun c.aid) = _ := (congrArg (c.barring (s.begun c.aid)) hout).trans (by unfold Ctx.barring; rw [hbar])
    rw [exec_unassignedOpcode, execUnassignedOpcode, issueOp_plain hs hu.kind hu.alone (by
      rw [hres]; exact State.takeTrap_clean hu.clean), hres]
    rfl
  · have hres : c.result _ (s.begun c.aid) = _ := (congrArg (c.barring (s.begun c.aid)) hout).trans (by unfold Ctx.barring; rw [hbar])
    obtain ⟨k, hk, hframe, hall⟩ := held_spec (w := .handler) rfl hs.begun_gang (Gang.members_modAgent ..)
    refine ⟨State.held c (s.begun c.aid) .handler, k, ?_, hk, (Frame.begun s c.aid).trans hframe, fun j hj x hx => ?_⟩
    · rw [exec_unassignedOpcode, execUnassignedOpcode, issueOp_plain hs hu.kind hu.alone (by rw [hres]; exact hu.clean), hres]
      rfl
    · obtain ⟨y, hy, hhold, hpt, hact⟩ := hall j hj _ ((Gang.slice?_modAgent ..).trans (by rw [if_pos hj, hx]; rfl))
      exact ⟨y, hy, hhold, hpt, hact⟩

/-! ### The special functions (R41, R120) -/

section
variable {s t : State} {f : Fields} {c : Ctx} {g : Gang}

theorem Gang.touches_shape (r : RFile) (i : Nat) (ls : List Nat) (g : Gang) :
    ∃ o, ls.foldl (fun h l => h.touch r i l) g = { g with outst := o } := by
  induction ls generalizing g with
  | nil => exact ⟨g.outst, rfl⟩
  | cons l ls ih =>
    obtain ⟨o, ho⟩ := ih (g.touch r i l)
    exact ⟨o, ho⟩

/-- Awaiting registers marks them as outstanding, and changes nothing else (R85). -/
theorem Gang.awaits_shape (now token op : Nat) (lanes : Mask) (regs : List (RFile × Nat)) (g : Gang) :
    ∃ o, regs.foldl (Gang.await · now token op lanes) g = { g with outst := o } := by
  induction regs generalizing g with
  | nil => exact ⟨g.outst, rfl⟩
  | cons p regs ih =>
    obtain ⟨o', ho'⟩ := Gang.touches_shape p.1 p.2 (lanesOf (g.racing now p.1 p.2 lanes)) g
    have hp : ∃ o, g.await now token op lanes p = { g with outst := o } := by
      refine ⟨(g.await now token op lanes p).outst, ?_⟩
      unfold Gang.await
      dsimp only
      rw [ho']
    obtain ⟨o₁, h₁⟩ := hp
    obtain ⟨o, ho⟩ := ih (g.await now token op lanes p)
    rw [h₁] at ho
    exact ⟨o, (congrArg (fun h => regs.foldl (Gang.await · now token op lanes) h) h₁).trans ho⟩

/-- Counting an operation at its issue: a token counter is one higher, and what awaits it is marked (R41, R85). -/
theorem Gang.track_shape (g : Gang) (c : Ctx) (token latency : Nat) (regs : List (RFile × Nat)) (lanes : Mask) :
    ∃ o t, g.track c token latency regs lanes = { g with k := g.k.modify token (· + 1), outst := o, tracked := t } := by
  obtain ⟨o, ho⟩ := Gang.awaits_shape c.now token c.tag lanes regs g
  refine ⟨o, (g.track c token latency regs lanes).tracked, ?_⟩
  unfold Gang.track
  dsimp only
  rw [ho]; rfl

theorem Gang.standing_track (g : Gang) (c : Ctx) (token latency : Nat) (regs : List (RFile × Nat)) (lanes : Mask) :
    (g.track c token latency regs lanes).standing = g.standing := by
  obtain ⟨o, t, h⟩ := g.track_shape c token latency regs lanes
  rw [h]; rfl

theorem aside_track (c : Ctx) (token latency : Nat) (regs : List (RFile × Nat)) (lanes : Mask) :
    Aside (fun g => g.track c token latency regs lanes) where
  id g := by obtain ⟨o, t, h⟩ := g.track_shape c token latency regs lanes; rw [h]
  rest g h e := by
    obtain ⟨o, t, h1⟩ := g.track_shape c token latency regs lanes
    obtain ⟨o', t', h2⟩ := h.track_shape c token latency regs lanes
    rw [h1, h2]
    simp only [Gang.rest, Prod.mk.injEq] at e ⊢
    simp only [e, and_self]
  regs g := by obtain ⟨o, t, h⟩ := g.track_shape c token latency regs lanes; rw [h]
  getR g r x l := by obtain ⟨o, t, h⟩ := g.track_shape c token latency regs lanes; rw [h]; cases r <;> rfl

/-- What the counting of an operation leaves is as if its agent had not begun (R41). -/
theorem Frame.counted {W : Nat → RFile → Nat → Nat → Prop} {T : Nat → Prop} {lat : Nat} {regs : List (RFile × Nat)} {lanes : Mask}
    (a : Frame W T s t) : Frame W T (s.counted c lat regs lanes) (t.counted c lat regs lanes) :=
  a.aside (aside_track ..)

end

/-- A special function issues with the values of its lanes (R120). -/
theorem specialIssues_of_body {i : Instr} {op : Nat} {f : Fields} {k : SpecOp} {vals : Ctx → List (Nat × Reg)}
    (hi : ∀ s, exec i s = issueOp 0 op f (specialBody k) s)
    (hv : ∀ c : Ctx, c.f = f → (lanesOf c.exec).map (fun l => (l, packW c.w (fun n =>
      specOp k c.w (rmodeOf c.f.rm) (elem c.w n (c.A l)) (elem c.w n (c.B l))))) = vals c) : SpecialIssues i op f vals := by
  intro s c hs hu hex
  obtain ⟨-, -, -, -, -, hf, -⟩ := hs.spec
  have hany : c.any = true := decide_eq_true hex
  let b := s.begun c.aid
  let o : SpecialOp := { id := b.fresh, gang := c.g.id, slice := c.aid.slice, token := tokOf c.f, dest := c.f.d.toNat
                         vals := vals c, at_ := c.tag }
  have hrun : (specialBody k).run c b = .done { ({ b with fresh := b.fresh + 1 }.counted c 24 [(.d, c.f.d.toNat)] c.exec) with
      fl := { b.fl with specials := b.fl.specials ++ [o] } } := by
    show (if !c.any then _ else _) = _
    rw [hany]
    show Res.done _ = _
    simp only [hv c hf]; rfl
  have hd : c.Done { ({ b with fresh := b.fresh + 1 }.counted c 24 [(.d, c.f.d.toNat)] c.exec) with
      fl := { b.fl with specials := b.fl.specials ++ [o] } } _ :=
    (((hs.done_begun hu.toUndisturbed).of_gangs (u := { b with fresh := b.fresh + 1 }) rfl).modGang
      (f := fun g => g.track c (tokOf c.f) 24 [(.d, c.f.d.toNat)] c.exec) fun g => g.standing_track ..).of_gangs rfl
  obtain ⟨u, k, hnext, hc⟩ := completes_of_done (hi s) hs hu rfl rfl (Ctx.targetsThere_nil rfl) hrun hd
  obtain ⟨v, hfl⟩ := hc.fl
  refine ⟨u, o, hnext, by rw [hfl]; rfl, rfl, congrArg (·.d.toNat) hf, rfl, congrArg tokOf hf, ?_, hc.goes⟩
  rw [← hf]
  refine (Frame.counted (t := { b with fresh := b.fresh + 1 }) ((Frame.begun s c.aid).trans (.of_eq rfl rfl rfl))).trans
    (Frame.trans ?_ hc.frame)
  exact .of_eq rfl rfl rfl

/-- Settles O11: the nine share one own part, and differ in the value alone. -/
theorem specialFunctionsIssue : Obligations.SpecialFunctionsIssue := by
  intro f
  refine ⟨?rcp, ?sqrt, ?div, fun e he => ?others⟩
  case others =>
    simp only [List.mem_cons, List.not_mem_nil, or_false] at he
    rcases he with rfl | rfl | rfl | rfl | rfl | rfl <;> exact specialIssues_of_body (fun _ => rfl) fun c hf => rfl
  all_goals exact specialIssues_of_body (fun _ => rfl) fun c hf => by rw [hf]; rfl

end Sys2Proof.Machine
end

section
/-!
Where a transfer of control leaves an agent's slices (R29, R67, R233), and the proof of BRA (R32, R226).
-/

namespace Sys2Proof.Machine

section
variable {s t u : State} {cls op : Nat} {f : Fields} {c : Ctx} {b : Body} {g h : Gang} {i : Instr}

/-! ### The end of an issue, slice by slice -/

theorem Gang.pcs_congr (hn : h.nslices = g.nslices) (he : h.exited = g.exited) (hd : h.dead = g.dead) (hs : h.slices = g.slices) :
    h.pcs = g.pcs := by
  have hlive : h.liveSlices = g.liveSlices := Gang.members_congr hn he hd none
  unfold Gang.pcs Gang.activeSlices Gang.slice?
  rw [hlive, hs]

/-- A gang stays whole where its slices hold one pc (R29). -/
theorem Gang.repart_whole (g : Gang) : g.repart.whole = true ↔ g.whole = true ∧ g.repart.together := by
  have hpcs : g.repart.pcs = g.pcs := by
    unfold Gang.repart
    split
    · rfl
    · split <;> rfl
  unfold Gang.together
  rw [hpcs]
  unfold Gang.repart
  cases hp : g.pcs with
  | nil => simp
  | cons p t =>
    dsimp only
    by_cases hw : (g.whole && t.any (· != p)) = true
    · rw [if_pos hw]
      rw [Bool.and_eq_true, List.any_eq_true] at hw
      obtain ⟨-, a, ha, hne⟩ := hw
      refine ⟨nofun, fun h => ?_⟩
      have := h.2 a (List.mem_cons_of_mem _ ha) p (List.mem_cons_self ..)
      rw [this] at hne; simp at hne
    · rw [if_neg hw]
      refine ⟨fun h => ⟨h, ?_⟩, fun h => h.1⟩
      have hall : ∀ a ∈ p :: t, a = p := fun a ha => by
        rcases List.mem_cons.1 ha with rfl | ha
        · rfl
        · refine Classical.byContradiction fun hne => ?_
          refine hw ?_
          rw [h, Bool.true_and, List.any_eq_true]
          exact ⟨a, ha, bne_iff_ne.2 hne⟩
      exact fun a ha b hb => (hall a ha).trans (hall b hb).symm

/-- The gang has the lanes that the instruction found. -/
structure Gang.LanesAs (h : Gang) (c : Ctx) : Prop where
  nslices : h.nslices = c.g.nslices
  exited : h.exited = c.g.exited
  dead : h.dead = c.g.dead

theorem Gang.LanesAs.live (a : h.LanesAs c) : h.live = c.g.live := Gang.live_congr a.nslices a.exited a.dead
theorem Gang.LanesAs.members (a : h.LanesAs c) (sl : Option Nat) : h.members sl = c.g.members sl :=
  Gang.members_congr a.nslices a.exited a.dead sl

/-- A slice passes its end check where it makes one (R233). -/
def Slice.passesEnd (x : Slice) (live : Mask) : Prop := x.active &&& live ≠ 0 → x.atEnd = true → x.endClause.isSome = true

/-- The agent's slices after an issue: each as `issued` leaves it, past its end check; a whole gang parts where they differ. -/
theorem finish_slices {rst jumped : Bool} (hid : c.g.id = c.aid.gang) (hg : u.gang? c.g.id = some h) (ha : h.LanesAs c)
    (hok : ∀ i ∈ c.g.members c.aid.slice, ∀ x, h.slice? i = some x → (c.issued jumped x).passesEnd c.g.live) :
    ∃ w, (u.finish c rst jumped).gang? c.g.id = some w ∧ w.LanesAs c ∧
      (∀ i ∈ c.g.members c.aid.slice, w.slice? i = (h.slice? i).map (fun x => (c.issued jumped x).ended c.g.live)) ∧
      (∀ i, i ∉ c.g.members c.aid.slice → w.slice? i = h.slice? i) ∧ (w.whole = true ↔ h.whole = true ∧ w.together) := by
  obtain ⟨hkid, hn, he, hd, hs⟩ := c.leaves_spec u rst jumped h
  have hkw : (c.leaves u rst jumped h).whole = h.whole := by
    have : ∀ (l : List Nat) (f : Slice → Slice) (g : Gang), (l.foldl (fun h i => h.modSlice i f) g).whole = g.whole := fun l f => by
      induction l with
      | nil => exact fun _ => rfl
      | cons i l ih => exact fun g => ih (g.modSlice i f)
    exact this _ _ h
  have h1 : (((if u.errs.poison = [] then u else u.clearPoison c.cleans).modGang c.g.id (c.leaves u rst jumped))).gang? c.aid.gang =
      some (c.leaves u rst jumped h) := by
    rw [← hid, State.gang?_modGang_same fun g => (c.leaves_spec u rst jumped g).1]
    split <;> exact congrArg (Option.map _) hg
  generalize c.leaves u rst jumped h = k at *
  have hka : k.LanesAs c := ⟨hn.trans ha.nslices, he.trans ha.exited, hd.trans ha.dead⟩
  have hok' : ∀ i ∈ k.members c.aid.slice, ∀ x, k.slice? i = some x → x.active &&& k.live ≠ 0 → x.atEnd = true → x.endClause.isSome = true := by
    rw [hka.members, hka.live]
    intro i hi x hx
    rw [hs, if_pos hi] at hx
    obtain ⟨y, hy, rfl⟩ := Option.map_eq_some_iff.1 hx
    exact hok i hi y hy
  obtain ⟨m, m1, m2, m3⟩ := k.endClauses_some c.aid.slice hok'
  obtain ⟨l, hl⟩ := Gang.endClauses_shape m1
  have ends : ∀ v : State, v.gang? c.aid.gang = some k → (v.endBodies c.aid).gang? c.aid.gang = some m.repart := fun v hv => by
    unfold State.endBodies
    rw [hv]
    dsimp only
    rw [m1]
    dsimp only
    have e := State.gang?_id hv
    have hr : m.repart.id = c.aid.gang := by rw [m.repart_slices.2, m2, e]
    unfold State.gang? State.modGang at *
    rw [e, find?_mapWhere _ _ _ _ (fun x hx => by rw [hr]; simpa using hx.symm), hv]
    simp [e]
  have hrep : ∀ j, m.repart.slice? j = m.slice? j := fun j => by unfold Gang.slice?; rw [m.repart_slices.1]
  have hlanes : m.repart.LanesAs c := by
    have : m.repart.nslices = m.nslices ∧ m.repart.exited = m.exited ∧ m.repart.dead = m.dead := by
      unfold Gang.repart
      split
      · exact ⟨rfl, rfl, rfl⟩
      · split <;> exact ⟨rfl, rfl, rfl⟩
    subst hl
    exact ⟨this.1.trans hka.nslices, this.2.1.trans hka.exited, this.2.2.trans hka.dead⟩
  refine ⟨m.repart, ?_, hlanes, fun i hi => ?_, fun i hi => ?_, ?_⟩
  · rw [hid]
    unfold State.finish
    extract_lets s1 s2
    have e : s2.gang? c.aid.gang = some m.repart := ends _ h1
    split
    · exact e
    · rw [State.gang?_endTurn, e]
  · rw [hrep, m3, hka.members, if_pos hi, hs, if_pos hi, hka.live, Option.map_map]; rfl
  · rw [hrep, m3, hka.members, if_neg hi, hs, if_neg hi]
  · rw [m.repart_whole, hl, ← hkw]

/-! ### Slices sent on (R226 to R232) -/

theorem Ctx.nodup_running (c : Ctx) : (c.running.map (·.1)).Nodup := by
  have hsub : (c.running.map (·.1)).Sublist (c.g.members c.aid.slice) := by
    unfold Ctx.running
    generalize c.g.members c.aid.slice = l
    induction l with
    | nil => exact .slnil
    | cons i l ih =>
      rw [List.filterMap_cons]
      cases hx : (c.g.slice? i).bind (fun x => if x.active &&& c.g.live = 0 then none else some (i, x)) with
      | none => exact ih.cons i
      | some q =>
        obtain ⟨x, -, hq⟩ := Option.bind_eq_some_iff.1 hx
        split at hq
        · cases hq
        · cases hq; exact ih.cons_cons i
  exact hsub.nodup (c.g.nodup_members _)

theorem Gang.whole_modAgent (g : Gang) (sl : Option Nat) (f : Slice → Slice) : (g.modAgent sl f).whole = g.whole := by
  unfold Gang.modAgent
  generalize g.members sl = l
  induction l generalizing g with
  | nil => rfl
  | cons i l ih => exact ih (g.modSlice i f)

/-- The running slices changed, each as `k` says of it. -/
theorem Gang.slice?_send (k : Nat → Slice → Slice) (l : List (Nat × Slice)) (hl : (l.map (·.1)).Nodup) (g : Gang) (j : Nat) :
    (l.foldl (fun g q => g.modSlice q.1 (k q.1)) g).slice? j = if j ∈ l.map (·.1) then (g.slice? j).map (k j) else g.slice? j := by
  induction l generalizing g with
  | nil => simp
  | cons q l ih =>
    rw [List.map_cons, List.nodup_cons] at hl
    rw [List.foldl_cons, ih hl.2, Gang.slice?_modSlice, List.map_cons]
    by_cases e : q.1 = j
    · subst e; simp [hl.1]
    · rw [if_neg e]
      simp only [List.mem_cons, Ne.symm e, false_or]

theorem Gang.send_shape (k : Nat → Slice → Slice) (l : List (Nat × Slice)) (g : Gang) :
    ∃ sl, l.foldl (fun g q => g.modSlice q.1 (k q.1)) g = { g with slices := sl } := by
  induction l generalizing g with
  | nil => exact ⟨g.slices, rfl⟩
  | cons q l ih =>
    obtain ⟨sl, h⟩ := ih (g.modSlice q.1 (k q.1))
    exact ⟨sl, h⟩

/-- The lanes of slices for which nothing holds are none. -/
theorem Ctx.lanesWhere_eq_zero {p : Nat → Slice → Bool} (h : ∀ q ∈ c.running, p q.1 q.2 = false) : c.lanesWhere p = 0 := by
  unfold Ctx.lanesWhere
  revert h
  generalize c.running = l
  intro h
  induction l with
  | nil => rfl
  | cons q l ih =>
    rw [List.foldl_cons, h q (List.mem_cons_self ..)]
    exact ih fun r hr => h r (List.mem_cons_of_mem _ hr)

/-- A code word that is there is not awaited. -/
theorem State.codeHeld_of_there {part a : Nat} (h : (s.code part a).isSome = true) : s.codeHeld part a = false := by
  unfold State.code at h
  unfold State.codeHeld
  cases ht : s.translate part a 0 <;> simp [ht] at h ⊢

/-- An instruction that nothing stands before and that sends its slices on: its issue ends. -/
theorem issueOp_jumps (hs : Sees s cls op f c) (hu : c.Unhindered s (b.late c (s.begun c.aid)) (b.more c))
    (ht : b.target c (s.begun c.aid) = none) (hx : b.unassigned = none) (hw : c.targetsThere b (s.begun c.aid))
    (hr : b.run c (s.begun c.aid) = .jump t) :
    ∃ e, issueOp cls op f b s = .next { t.finish c (b.rst c) true with errs := e } := by
  have ho : c.conclude b (c.result b (s.begun c.aid)) = t.finish c (b.rst c) true := by
    rw [hu.result ht hx hw (by rw [hr]; nofun), hr]; rfl
  have hi : c.issue b (s.begun c.aid) = t.finish c (b.rst c) true := by
    unfold Ctx.issue
    split
    next p hp => exact absurd hp (hu.kind p)
    · simp only [State.shadowOf_begun hu.alone, ho]
  obtain ⟨e, he⟩ := (t.finish c (b.rst c) true).consumed_eq { s with issuing := none } c.aid.gang
  exact ⟨e, by rw [issueOp_next hs, hi, he]⟩

/-- The agent's gang `h` once its instruction has begun and its running slices have been sent on by `k`. -/
structure Ctx.Sent (c : Ctx) (k : Nat → Slice → Slice) (t : State) (h : Gang) : Prop where
  gang : t.gang? c.g.id = some h
  lanes : h.LanesAs c
  run : ∀ q ∈ c.running, h.slice? q.1 = some (k q.1 { q.2 with hold := .none })
  rest : ∀ i ∈ c.g.members c.aid.slice, i ∉ c.running.map (·.1) → h.slice? i = (c.g.slice? i).map (fun x => { x with hold := .none })
  whole : h.whole = c.g.whole
  untwinned : t.Untwinned c.aid.gang

theorem Sees.sent (hs : Sees s cls op f c) (hu : c.Undisturbed s) (k : Nat → Slice → Slice) :
    ∃ h, c.Sent k (c.send (s.begun c.aid) k) h ∧ Frame nothing (· = 0x07) s (c.send (s.begun c.aid) k) := by
  let g0 := c.g.modAgent c.aid.slice (fun x => { x with hold := .none })
  have hsame : ∀ g : Gang, Gang.Same (· = 0x07) g (c.running.foldl (fun g q => g.modSlice q.1 (k q.1)) g) :=
    Gang.same_foldl _ (fun g q => g.same_modSlice q.1 _) c.running
  have hstand := Gang.standsAs_begun c
  obtain ⟨sl, hshape⟩ := Gang.send_shape k c.running g0
  have hslice := Gang.slice?_send k c.running c.nodup_running g0
  refine ⟨c.running.foldl (fun g q => g.modSlice q.1 (k q.1)) g0, ⟨?_, ?_, fun q hq => ?_, fun i hi hr => ?_, ?_, ?_⟩,
    (Frame.begun s c.aid).trans (Frame.modGang hsame)⟩
  · unfold Ctx.send
    rw [State.gang?_modGang_same fun g => (hsame g).id, hs.begun_gang]; rfl
  · rw [hshape]; exact ⟨hstand.nslices, hstand.exited, hstand.dead⟩
  · obtain ⟨hm, hy, -⟩ := Ctx.mem_running.1 hq
    rw [hslice, if_pos (List.mem_map_of_mem hq), hstand.slices q.1 hm, hy]; rfl
  · rw [hslice, if_neg hr, hstand.slices i hi]
  · rw [hshape]; exact Gang.whole_modAgent ..
  · refine (hu.untwinned_begun hs).modGang fun g => ?_
    obtain ⟨sl, hg⟩ := Gang.send_shape k c.running g
    rw [hg]; exact ⟨rfl, rfl, rfl⟩

/-- A slice of the agent that is not running makes no end check. -/
theorem Ctx.passesEnd_of_not_running {i : Nat} {x y : Slice} (jumped : Bool) (hi : i ∈ c.g.members c.aid.slice)
    (hy : c.g.slice? i = some y) (hr : i ∉ c.running.map (·.1)) (hx : x.active = y.active) :
    (c.issued jumped x).passesEnd c.g.live := by
  intro ha
  rw [(c.issued_spec jumped x).1, hx] at ha
  exact absurd (List.mem_map_of_mem (f := (·.1)) (Ctx.mem_running.2 ⟨hi, hy, ha⟩ : (i, y) ∈ c.running)) hr

/-- The end checks of slices sent on hang on the running ones alone. -/
theorem Ctx.Sent.passEnds {k : Nat → Slice → Slice} (a : c.Sent k t h)
    (hok : ∀ q ∈ c.running, (c.issued true (k q.1 { q.2 with hold := .none })).passesEnd c.g.live) :
    ∀ i ∈ c.g.members c.aid.slice, ∀ x, h.slice? i = some x → (c.issued true x).passesEnd c.g.live := by
  intro i hi x hx
  by_cases hr : i ∈ c.running.map (·.1)
  · obtain ⟨q, hq, rfl⟩ := List.mem_map.1 hr
    rw [a.run q hq] at hx
    cases hx; exact hok q hq
  · rw [a.rest i hi hr] at hx
    obtain ⟨y, hy, rfl⟩ := Option.map_eq_some_iff.1 hx
    exact Ctx.passesEnd_of_not_running true hi hy hr rfl

/-- A transfer of control in which each running slice becomes what `k` makes of it. -/
theorem sends_of_jump {k : Nat → Slice → Slice} (hi : exec i s = issueOp cls op f b s)
    (hs : Sees s cls op f c) (hu : c.Unhindered s (b.late c (s.begun c.aid)) (b.more c))
    (ht : b.target c (s.begun c.aid) = none) (hx : b.unassigned = none) (hw : c.targetsThere b (s.begun c.aid))
    (hr : b.run c (s.begun c.aid) = .jump (c.send (s.begun c.aid) k))
    (hok : ∀ q ∈ c.running, (c.issued true (k q.1 { q.2 with hold := .none })).passesEnd c.g.live) :
    ∃ t g, exec i s = .next t ∧ t.gang? c.g.id = some g ∧ Frame nothing (· = 0x07) s t ∧
      (∀ q ∈ c.running, g.slice? q.1 = some ((c.issued true (k q.1 { q.2 with hold := .none })).ended c.g.live)) ∧
      (g.whole = true ↔ c.g.whole = true ∧ g.together) := by
  obtain ⟨-, hid, -⟩ := hs.spec
  obtain ⟨e, hnext⟩ := issueOp_jumps hs hu ht hx hw hr
  obtain ⟨h, a, hframe⟩ := hs.sent hu.toUndisturbed k
  obtain ⟨w, hw', -, hin, -, hwhole⟩ := finish_slices (rst := b.rst c) (jumped := true) hid a.gang a.lanes (a.passEnds hok)
  refine ⟨_, w, hi.trans hnext, hw', hframe.trans
    ((Frame.finish (T := (· = 0x07)) c (b.rst c) true a.untwinned rfl).trans (.of_eq rfl rfl rfl)), fun q hq => ?_, ?_⟩
  · rw [hin q.1 (Ctx.mem_running.1 hq).1, a.run q hq]; rfl
  · rw [hwhole, a.whole]

/-! ### A slice behind a transfer -/

/-- A slice that stands at a header makes no end check. -/
theorem issued_ended_header {x : Slice} {a : Nat} {live : Mask} (hp : x.point = .atHeader a) :
    (c.issued true x).passesEnd live ∧ ((c.issued true x).ended live).point = .atHeader a ∧
      ((c.issued true x).ended live).loops = x.loops := by
  obtain ⟨-, -, hl, -, -, h6, -⟩ := c.issued_spec true x
  simp only [Bool.not_true, Bool.false_and, Bool.false_eq_true, if_false] at h6
  have hend : (c.issued true x).atEnd = false := by unfold Slice.atEnd; rw [h6, hp]; rfl
  have hy : (c.issued true x).ended live = c.issued true x := by
    rw [Slice.ended, if_neg fun h => by rw [hend] at h; exact absurd h.2 (by decide)]
  refine ⟨fun _ h => (by rw [hend] at h; cases h), ?_, ?_⟩
  · rw [hy, h6, hp]
  · rw [hy]; exact hl

/-- What every slice keeps through the end of its issue. -/
theorem issued_ended_keeps (x : Slice) (live : Mask) :
    ((c.issued true x).ended live).active = x.active ∧ ((c.issued true x).ended live).deferred = x.deferred ∧
      ((c.issued true x).ended live).calls = x.calls ∧ ((c.issued true x).ended live).hold = x.hold := by
  obtain ⟨h1, h2, -, h4, h5, -⟩ := c.issued_spec true x
  have hkeep : ∀ y : Slice, (y.ended live).active = y.active ∧ (y.ended live).deferred = y.deferred ∧
      (y.ended live).calls = y.calls ∧ (y.ended live).hold = y.hold := fun y => by
    unfold Slice.ended
    split
    · unfold Slice.endClause
      split <;> exact ⟨rfl, rfl, rfl, rfl⟩
    · exact ⟨rfl, rfl, rfl, rfl⟩
  obtain ⟨k1, k2, k3, k4⟩ := hkeep (c.issued true x)
  exact ⟨k1.trans h1, k2.trans h2, k3.trans h4, k4.trans h5⟩

/-- A slice with no open loop, or inside its clause, passes its end check and keeps its pc and its loops. -/
theorem issued_ended_inside {x : Slice} {live : Mask} (h : x.loops = [] ∨ x.point.pc ≠ x.point.stop) :
    (c.issued true x).passesEnd live ∧ ((c.issued true x).ended live).point.pc = x.point.pc ∧
      ((c.issued true x).ended live).loops = x.loops := by
  obtain ⟨-, h2, hl, -, -, h6, -⟩ := c.issued_spec true x
  simp only [Bool.not_true, Bool.false_and, Bool.false_eq_true, if_false] at h6
  generalize c.issued true x = y at *
  rcases h with h | h
  · have hc : y.endClause = some { y with loops := [], point := .atHeader y.point.stop } := by
      unfold Slice.endClause; rw [hl, h]; rfl
    refine ⟨fun _ _ => by rw [hc]; rfl, ?_, ?_⟩
    · unfold Slice.ended
      split
      next he =>
        rw [hc]
        have : y.point.pc = y.point.stop := by
          have := he.2; simp [Slice.atEnd] at this; exact this.2
        show y.point.stop = _
        rw [← this, h6]
      next => rw [h6]
    · unfold Slice.ended
      split
      · rw [hc, h]; rfl
      · exact hl
  · have hend : y.atEnd = false := by
      unfold Slice.atEnd; rw [h6]; simp [h]
    have hy : y.ended live = y := by
      rw [Slice.ended, if_neg fun h => by rw [hend] at h; exact absurd h.2 (by decide)]
    refine ⟨fun _ h => (by rw [hend] at h; cases h), ?_, ?_⟩
    · rw [hy, h6]
    · rw [hy]; exact hl

end

/-! ### BRA (R32, R226) -/

section
variable {s : State} {f : Fields} {c : Ctx} {i : Instr}

/-- A slice of which no lane takes the branch goes on behind it. -/
theorem Ctx.branch_none {x : Slice} (h : x.active &&& c.exec = 0) : c.branch x = ({ x with point := x.point.skip c.words }, false) := by
  unfold Ctx.branch; dsimp only; rw [if_pos h]

/-- A slice that takes the branch goes to the target; lanes that do not wait in a deferred entry for the join (R32). -/
theorem Ctx.branch_taken {x : Slice} (h : x.active &&& c.exec ≠ 0) :
    (c.branch x).1.point = .atHeader c.words18 ∧ (c.branch x).1.calls = x.calls ∧
    (x.active &&& ~~~c.exec = 0 → (c.branch x).1.active = x.active ∧ (c.branch x).1.deferred = x.deferred) ∧
    (x.active &&& ~~~c.exec ≠ 0 → (c.branch x).1.active = x.active &&& c.exec ∧
      (c.branch x).1.deferred = ⟨x.active &&& ~~~c.exec, x.point.skip c.words, c.joinAddr, 0, false⟩ :: x.deferred) := by
  unfold Ctx.branch
  dsimp only
  rw [if_neg h]
  by_cases hf : x.active &&& ~~~c.exec = 0
  · rw [if_pos hf]
    exact ⟨rfl, rfl, fun _ => ⟨rfl, rfl⟩, fun hn => absurd hf hn⟩
  · rw [if_neg hf]
    exact ⟨rfl, rfl, fun h0 => absurd h0 hf, fun _ => ⟨rfl, rfl⟩⟩

theorem targetWord_there (hcode : c.codeThere (s.begun c.aid) [c.words18]) (b : Body) (hn : b.needs c = c.targetWord) :
    c.targetsThere b (s.begun c.aid) := by
  intro a ha
  rw [hn] at ha
  unfold Ctx.targetWord at ha
  split at ha
  · rw [List.mem_singleton.1 ha]
    exact State.codeHeld_of_there (hcode _ (List.mem_singleton_self _))
  · cases ha

/-- BRA's own part where no slice overflows its deferred stack or leaves a loop below its depth. -/
theorem bra_run {t : State} (hov : ∀ q ∈ c.running, c.overflows q.2 = false ∧ (c.branch q.2).2 = false) :
    braBody.run c t = .jump (c.send t (fun _ x => (c.branch x).1)) := by
  have h1 := c.lanesWhere_eq_zero (p := fun _ x => c.overflows x) fun q hq => (hov q hq).1
  have h2 := c.lanesWhere_eq_zero (p := fun _ x => (c.branch x).2) fun q hq => (hov q hq).2
  unfold braBody
  simp only [h1, Ctx.loopTrap, h2, ne_eq, not_true_eq_false, if_false]

theorem branchTransfers_of_braBody (hi : ∀ s, exec i s = issueOp 5 0x01 f braBody s) : BranchTransfers i f := by
  intro s c hs hu b htgt hcode hok
  obtain ⟨t, g, hnext, hg, hframe, hslices, hwhole⟩ := sends_of_jump (hi s) hs hu htgt rfl (targetWord_there hcode _ rfl)
    (bra_run fun q hq => ⟨(hok q hq).1, (hok q hq).2.1⟩) fun q hq => by
      obtain ⟨-, -, hstay⟩ := hok q hq
      by_cases h : q.2.active &&& c.exec = 0
      · rw [Ctx.branch_none (x := { q.2 with hold := .none }) h]
        exact (issued_ended_inside (x := { q.2 with point := q.2.point.skip c.words, hold := .none }) (hstay h)).1
      · exact (issued_ended_header (Ctx.branch_taken (x := { q.2 with hold := .none }) h).1).1
  refine ⟨⟨t, g, hnext, hg, hframe, fun q hq => ⟨_, hslices q hq, ?_⟩⟩, t, g, hnext, hg, hwhole⟩
  obtain ⟨-, -, hstay⟩ := hok q hq
  obtain ⟨hact, hdef, hcalls, -⟩ := issued_ended_keeps (c := c) (c.branch { q.2 with hold := .none }).1 c.g.live
  rw [hact, hdef, hcalls]
  by_cases h : q.2.active &&& c.exec = 0
  · rw [Ctx.branch_none (x := { q.2 with hold := .none }) h]
    obtain ⟨-, hpc, hloops⟩ := issued_ended_inside (c := c) (live := c.g.live)
      (x := { q.2 with point := q.2.point.skip c.words, hold := .none }) (hstay h)
    exact ⟨rfl, fun hn => absurd h hn, fun _ => ⟨hpc, rfl, rfl, hloops⟩⟩
  · obtain ⟨hpt, hcl, hall, hsome⟩ := Ctx.branch_taken (x := { q.2 with hold := .none }) h
    exact ⟨hcl, fun _ => ⟨(issued_ended_header hpt).2.1, hall, hsome⟩, fun h0 => absurd h0 h⟩

theorem Slice.produces_point (l : List (RFile × Nat)) (lat : Nat) (p : Point) (x : Slice) :
    l.foldl (fun x q => x.produce q.1 q.2 lat) { x with point := p } =
      { l.foldl (fun x q => x.produce q.1 q.2 lat) x with point := p } := by
  have hstep : ∀ (x : Slice) r i, ({ x with point := p } : Slice).produce r i lat = { x.produce r i lat with point := p } := fun x r i => by
    unfold Slice.produce
    rw [show ({ x with point := p } : Slice).budget r i = x.budget r i from rfl]
    cases x.budget r i with
    | none => rfl
    | some b => dsimp only; split <;> rfl
  induction l generalizing x with
  | nil => rfl
  | cons q l ih => rw [List.foldl_cons, List.foldl_cons, hstep, ih]

/-- A slice that its transfer leaves behind the instruction is as one of an instruction that transfers nothing. -/
theorem issued_of_skip {x : Slice} (hp : x.point = c.lead.point) (ha : x.active ≠ 0) :
    c.issued true { x with point := x.point.skip c.words } = c.issued false x := by
  have hy : (if c.e.lat = 0 then { x with point := x.point.skip c.words } else (c.e.written c.f).foldl
        (fun x p => x.produce p.1 p.2 c.e.lat) { x with point := x.point.skip c.words }) =
      { (if c.e.lat = 0 then x else (c.e.written c.f).foldl (fun x p => x.produce p.1 p.2 c.e.lat) x) with
        point := x.point.skip c.words } := by
    split
    · rfl
    · exact Slice.produces_point ..
  unfold Ctx.issued
  dsimp only
  rw [hy]
  simp only [Slice.spend, Bool.not_true, Bool.false_and, Bool.false_eq_true, if_false, Bool.not_false, Bool.true_and, hp, decide_true,
    decide_eq_true ha, if_true]

/-- A BRA that no lane takes changes nothing but the point (R226). -/
theorem bra_untaken (hi : ∀ s, exec i s = issueOp 5 0x01 f braBody s) (hs : Sees s 5 0x01 f c) (hu : c.Unhindered s false [])
    (htgt : c.braTarget (s.begun c.aid) = none) (hcode : c.codeThere (s.begun c.aid) [c.words18]) (h0 : c.exec = 0) :
    DoneFrom i s s c := by
  obtain ⟨-, hid, -⟩ := hs.spec
  have hno : ∀ x : Slice, x.active &&& c.exec = 0 := fun x => by rw [h0]; simp
  have hrun : braBody.run c (s.begun c.aid) = .jump (c.send (s.begun c.aid) (fun _ x => { x with point := x.point.skip c.words })) := by
    rw [bra_run fun q _ => ⟨by simp [Ctx.overflows, hno], by rw [Ctx.branch_none (hno _)]⟩]
    simp only [Ctx.branch_none (hno _)]
  obtain ⟨e, hnext⟩ := issueOp_jumps hs hu htgt rfl (targetWord_there hcode _ rfl) hrun
  obtain ⟨h, a, hframe⟩ := hs.sent hu.toUndisturbed (fun _ x => { x with point := x.point.skip c.words })
  refine ⟨_, (hi s).trans hnext, hframe.trans
    ((Frame.finish (T := (· = 0x07)) c _ true a.untwinned rfl).trans (.of_eq rfl rfl rfl)), fun hin => ?_⟩
  have hskip : ∀ q ∈ c.running, c.issued true { q.2 with hold := .none, point := q.2.point.skip c.words } =
      c.issued false { q.2 with hold := .none } := fun q hq =>
    issued_of_skip (x := { q.2 with hold := .none }) (hin q hq).1 fun e => (Ctx.mem_running.1 hq).2.2 (by
      show q.2.active &&& _ = _
      rw [show q.2.active = 0 from e]; simp)
  obtain ⟨w, hw, -, hslices, -, -⟩ := finish_slices (rst := false) (jumped := true) hid a.gang a.lanes
    (a.passEnds fun q hq => by rw [hskip q hq]; exact (Ctx.issued_ended hq rfl hin).1)
  refine ⟨w, hw, fun q hq => ⟨_, ?_, (Ctx.issued_ended hq rfl hin).2⟩⟩
  rw [hslices q.1 (Ctx.mem_running.1 hq).1, a.run q hq, Option.map_some, hskip q hq]

/-- Settles O21: a taken BRA sends each slice on by `Ctx.branch`; one that no lane takes leaves its slices behind it. -/
theorem branches : Obligations.Branches := fun _ =>
  ⟨branchTransfers_of_braBody (fun _ => rfl), branchTransfers_of_braBody (fun _ => rfl),
    fun _ _ hs hu htgt hcode h0 => bra_untaken (fun _ => rfl) hs hu htgt hcode h0⟩

end

end Sys2Proof.Machine
end

section
/-!
Transfers through a jump table (R227 to R230): BRX and CALLX.
-/

namespace Sys2Proof.Machine

/-- Members of a list whose images do not repeat are told apart by them. -/
theorem eq_of_nodup_map {α β : Type} {f : α → β} {l : List α} (h : (l.map f).Nodup) {x y : α} (hx : x ∈ l) (hy : y ∈ l)
    (hxy : f x = f y) : x = y := by
  induction l with
  | nil => cases hx
  | cons a l ih =>
    obtain ⟨hhead, htail⟩ := List.nodup_cons.1 h
    rcases List.mem_cons.1 hx with rfl | hx' <;> rcases List.mem_cons.1 hy with rfl | hy'
    · rfl
    · exact absurd (hxy ▸ List.mem_map_of_mem hy') hhead
    · exact absurd (hxy ▸ List.mem_map_of_mem hx') hhead
    · exact ih htail hx' hy'

section
variable {s t : State} {f : Fields} {c : Ctx} {i : Instr} {call : Bool} {e : Entry8}

theorem State.giveEntries_of_alone (h : s.shadowOf c.g.id = none) (l : List (Entry8 × (Nat × Bool))) : s.giveEntries c l = s := by
  unfold State.giveEntries; rw [h]

theorem Ctx.needCode_of_there {l : List Nat} (h : c.codeThere s l) (k : Res) : c.needCode s l k = k := by
  have hnone : l.find? (s.codeHeld c.blk.part) = none :=
    List.find?_eq_none.2 fun a ha hb => by rw [State.codeHeld_of_there (h a ha)] at hb; cases hb
  unfold Ctx.needCode
  rw [hnone]

/-- An entry of the agent's jump table is that of one of its running slices. -/
theorem Ctx.mem_entries : e ∈ c.entries → (e.slice, e.x) ∈ c.running := by
  intro he
  obtain ⟨q, hq, rfl⟩ := List.mem_map.1 he
  exact hq

/-- Each running slice has its own entry. -/
theorem Ctx.entries_find {q : Nat × Slice} (hq : q ∈ c.running) {g : Entry8 → Nat} :
    ∃ e ∈ c.entries, e.slice = q.1 ∧ e.x = q.2 ∧
      (c.entries.map (fun e => (e, g e))).find? (fun p => p.1.slice == q.1) = some (e, g e) := by
  have hnd := c.nodup_running
  obtain ⟨e, he, h1, h2⟩ : ∃ e ∈ c.entries, e.slice = q.1 ∧ e.x = q.2 := ⟨_, List.mem_map.2 ⟨q, hq, rfl⟩, rfl, rfl⟩
  cases hf : (c.entries.map (fun e => (e, g e))).find? (fun p => p.1.slice == q.1) with
  | none => exact absurd (by simp [h1]) (List.find?_eq_none.1 hf _ (List.mem_map_of_mem he))
  | some p =>
    obtain ⟨e', he', rfl⟩ := List.mem_map.1 (List.mem_of_find?_eq_some hf)
    have hs : e'.slice = q.1 := by simpa using List.find?_some hf
    obtain ⟨r, hr, rfl⟩ := List.mem_map.1 he'
    obtain ⟨r', hr', rfl⟩ := List.mem_map.1 he
    have : r = r' := eq_of_nodup_map hnd hr hr' (hs.trans h1.symm)
    subst this
    exact ⟨_, he, h1, h2, rfl⟩

theorem filter_eq_nil_of {α : Type} {p : α → Bool} {l : List α} (h : ∀ a ∈ l, p a = false) : l.filter p = [] :=
  List.filter_eq_nil_iff.2 fun a ha hp => by rw [h a ha] at hp; cases hp

/-- Where every entry is good, the checks behind the table's reading pass and the slices go through (R228). -/
theorem tableGo_of_good (hgood : ∀ e ∈ c.entries, c.entryGood s call e) :
    c.tableGo s call (c.entries.map (fun e => (e, (c.readEntry s e).1))) =
      .jump (c.send s (fun i x => match (c.entries.map (fun e => (e, (c.readEntry s e).1))).find? (fun p => p.1.slice == i) with
        | some p => (c.through call x (entryTarget p.1.addr p.2)).1
        | none => x)) := by
  have hall : ∀ p ∈ c.entries.map (fun e => (e, (c.readEntry s e).1)),
      s.badTarget c.blk.part c.hdr (entryTarget p.1.addr p.2) = false ∧
      c.codeThere s (entryTarget p.1.addr p.2 :: (entryTarget p.1.addr p.2 + 4) ::
        s.bodyWords c.blk.part c.hdr (entryTarget p.1.addr p.2)) ∧
      s.headerCause c.blk.part c.hdr (entryTarget p.1.addr p.2) = 0 ∧
      s.padAt c.blk.part (entryTarget p.1.addr p.2) = (true, entryLabel p.2) ∧
      (call = true → p.1.x.calls.length < 8) ∧ (c.through call p.1.x (entryTarget p.1.addr p.2)).2 = false := by
    intro p hp
    obtain ⟨e, he, rfl⟩ := List.mem_map.1 hp
    obtain ⟨-, -, -, -, -, -, -, -, hbad, hcode, hcause, hpad, hcalls, hloop⟩ := hgood e he
    exact ⟨hbad, hcode, hcause, hpad, hcalls, hloop⟩
  generalize c.entries.map (fun e => (e, (c.readEntry s e).1)) = l at hall
  have b3 : l.filter (fun p => s.badTarget c.blk.part c.hdr (entryTarget p.1.addr p.2)) = [] :=
    filter_eq_nil_of fun p hp => (hall p hp).1
  have b4 : l.filter (fun p => s.headerCause c.blk.part c.hdr (entryTarget p.1.addr p.2) != 0) = [] :=
    filter_eq_nil_of fun p hp => by rw [(hall p hp).2.2.1]; rfl
  have b5 : l.filter (fun p => (s.code c.blk.part (entryTarget p.1.addr p.2)).isSome &&
      (s.code c.blk.part (entryTarget p.1.addr p.2 + 4)).isSome &&
      s.padAt c.blk.part (entryTarget p.1.addr p.2) != (true, entryLabel p.2)) = [] :=
    filter_eq_nil_of fun p hp => by rw [(hall p hp).2.2.2.1]; simp
  have b6 : l.filter (fun p => call && decide (8 ≤ p.1.x.calls.length)) = [] :=
    filter_eq_nil_of fun p hp => by
      have := (hall p hp).2.2.2.2.1
      cases call <;> simp_all
  have b7 : l.filter (fun p => (c.through call p.1.x (entryTarget p.1.addr p.2)).2) = [] :=
    filter_eq_nil_of fun p hp => (hall p hp).2.2.2.2.2
  have hthere : c.codeThere s (l.flatMap (fun p => entryTarget p.1.addr p.2 ::
      s.bodyWords c.blk.part c.hdr (entryTarget p.1.addr p.2))) := fun a ha => by
    obtain ⟨p, hp, ha⟩ := List.mem_flatMap.1 ha
    refine (hall p hp).2.1 a ?_
    rcases List.mem_cons.1 ha with rfl | ha
    · exact List.mem_cons_self ..
    · exact List.mem_cons_of_mem _ (List.mem_cons_of_mem _ ha)
  unfold Ctx.tableGo
  simp only [b3, b4, b5, b6, b7, if_true, Ctx.needCode_of_there hthere, Ctx.loopTrap, List.map_nil, lanesAll, List.foldl_nil, ne_eq,
    not_true_eq_false, if_false] <;> rfl

/-- BRX and CALLX of good entries read them and go through (R227, R228). -/
theorem table_of_good (hpark : s.parkOf c.aid = none) (halone : s.shadowOf c.g.id = none)
    (hfence : s.fenced c.g.id c.aid.slice = false) (hgood : ∀ e ∈ c.entries, c.entryGood s call e) :
    c.table s call = c.tableGo s call (c.entries.map (fun e => (e, (c.readEntry s e).1))) := by
  have hout : c.entries.filter (fun e => decide (c.bound ≤ e.index)) = [] := filter_eq_nil_of fun e he => by
    have := (hgood e he).1
    simp; omega
  have hspan : ∀ step, step = 0 ∨ step = 1 ∨ step = 2 →
      (c.entries.map (fun e => (e, Span.mk e.slice false false 8 0 [(e.addr, 8)]))).filter (fun p => (p.2.fails c.hdr step).isSome) = [] :=
    fun step hstep => filter_eq_nil_of fun p hp => by
      obtain ⟨e, he, rfl⟩ := List.mem_map.1 hp
      obtain ⟨-, h0, h1, h2, -⟩ := hgood e he
      rcases hstep with rfl | rfl | rfl
      · rw [h0]; rfl
      · rw [h1]; rfl
      · rw [h2]; rfl
  have hxlat : (c.entries.map (fun e => (e, Span.mk e.slice false false 8 0 [(e.addr, 8)]))).filterMap
      (fun p => (c.spanXlat s p.2).map (fun t => (p.1, t))) = [] := List.filterMap_eq_nil_iff.2 fun p hp => by
    obtain ⟨e, he, rfl⟩ := List.mem_map.1 hp
    obtain ⟨-, -, -, -, h, -⟩ := hgood e he
    rw [h]; rfl
  have hwait : (c.entries.map (·.addr)).filter (s.entryWaits c.g c.aid.slice) = [] := filter_eq_nil_of fun a ha => by
    obtain ⟨e, he, rfl⟩ := List.mem_map.1 ha
    obtain ⟨-, -, -, -, -, h, -⟩ := hgood e he
    exact h
  have hgiven : ¬ (c.entries ≠ [] ∧ c.entries.all (fun e => (c.given e).isSome) = true) := fun h => by
    obtain ⟨e, he⟩ := List.exists_mem_of_ne_nil _ h.1
    obtain ⟨-, -, -, -, -, -, hg, -⟩ := hgood e he
    have := List.all_eq_true.1 h.2 e he
    rw [hg] at this; cases this
  have hbad : (c.entries.map (fun e => (e, c.readEntry s e))).any (fun p => p.2.2) = false := by
    rw [List.any_eq_false]
    intro p hp
    obtain ⟨e, he, rfl⟩ := List.mem_map.1 hp
    obtain ⟨-, -, -, -, -, -, -, h, -⟩ := hgood e he
    simp [h]
  have hread : c.tableRead s call (c.entries.map (fun e => (e, c.readEntry s e))) =
      c.tableGo s call (c.entries.map (fun e => (e, (c.readEntry s e).1))) := by
    unfold Ctx.tableRead
    rw [hbad, List.map_map]; rfl
  unfold Ctx.table
  simp only [hout, List.findSome?_cons, List.findSome?_nil, hspan 0 (.inl rfl), hspan 1 (.inr (.inl rfl)), hspan 2 (.inr (.inr rfl)),
    if_neg hgiven, Ctx.gated, hfence, Bool.false_eq_true, if_false, hpark, hxlat, List.filterMap_nil, ne_eq, not_true_eq_false, hwait,
    State.giveEntries_of_alone halone, hread]

/-- A slice through the table (R230). -/
theorem Ctx.through_spec (c : Ctx) (call : Bool) (x : Slice) (a : Nat) :
    (c.through call x a).1.point = .atHeader a ∧ (c.through call x a).1.active = x.active ∧
    (c.through call x a).1.deferred = x.deferred ∧ (c.through call x a).1.calls =
      if call then ⟨x.point.skip c.words, x.deferred.length, x.loops.length, 0⟩ :: x.calls else x.calls := by
  cases call <;> exact ⟨rfl, rfl, rfl, rfl⟩

theorem tableTransfers_of_issueOp {op : Nat} (hi : ∀ s, exec i s = issueOp 5 op f { run := fun (c : Ctx) s => c.table s call } s) :
    TableTransfers i op f call := by
  intro s c hs hu b hfence hgood
  have hrun : Body.run { run := fun (c : Ctx) s => c.table s call } c b = .jump (c.send b (fun i x =>
      match (c.entries.map (fun e => (e, (c.readEntry b e).1))).find? (fun p => p.1.slice == i) with
        | some p => (c.through call x (entryTarget p.1.addr p.2)).1
        | none => x)) := by
    show c.table b call = _
    rw [table_of_good (by exact hu.noPark) (State.shadowOf_begun hu.alone) hfence hgood, tableGo_of_good hgood]
  have hbecomes : ∀ q ∈ c.running, ∃ e ∈ c.entries, e.slice = q.1 ∧
      (match (c.entries.map (fun e => (e, (c.readEntry b e).1))).find? (fun p => p.1.slice == q.1) with
        | some p => (c.through call { q.2 with hold := .none } (entryTarget p.1.addr p.2)).1
        | none => { q.2 with hold := .none }) =
        (c.through call { q.2 with hold := .none } (entryTarget e.addr (c.readEntry b e).1)).1 := fun q hq => by
    obtain ⟨e, he, h1, -, hf⟩ := Ctx.entries_find hq (g := fun e => (c.readEntry b e).1)
    exact ⟨e, he, h1, by rw [hf]⟩
  obtain ⟨t, g, hnext, hg, hframe, hslices, -⟩ := sends_of_jump (hi s) hs hu rfl rfl (by intro a ha; cases ha) hrun fun q hq => by
    obtain ⟨e, -, -, h⟩ := hbecomes q hq
    rw [h]
    exact (issued_ended_header (c.through_spec ..).1).1
  refine ⟨t, g, hnext, hg, hframe, fun q hq => ⟨_, hslices q hq, fun e he hsl => ?_⟩⟩
  obtain ⟨e', he', hsl', h⟩ := hbecomes q hq
  have : e' = e := by
    obtain ⟨r, hr, rfl⟩ := List.mem_map.1 he
    obtain ⟨r', hr', rfl⟩ := List.mem_map.1 he'
    rw [eq_of_nodup_map c.nodup_running hr' hr (hsl'.trans hsl.symm)]
  subst this
  rw [h]
  obtain ⟨hpt, hact, hdef, hcalls⟩ := c.through_spec call { q.2 with hold := .none } (entryTarget e'.addr (c.readEntry b e').1)
  obtain ⟨k1, k2, k3, -⟩ := issued_ended_keeps (c := c) (c.through call { q.2 with hold := .none } (entryTarget e'.addr (c.readEntry b e').1)).1 c.g.live
  exact ⟨(issued_ended_header hpt).2.1, k1.trans hact, k2.trans hdef, k3.trans hcalls⟩

/-- Settles O22: a table whose entries pass every check of R228 is read and gone through. -/
theorem tableBranches : Obligations.TableBranches := fun _ =>
  ⟨tableTransfers_of_issueOp fun _ => rfl, tableTransfers_of_issueOp fun _ => rfl⟩

end

end Sys2Proof.Machine
end

section
/-!
Counterexamples: what the hypotheses of a statement ask of a state, decided on a concrete one.
-/

namespace Sys2Proof.Machine

/-- What the agent that holds the issue sees. -/
def State.seen (s : State) (cls op : Nat) (f : Fields) : Option Ctx :=
  s.issuing.bind (fun a => ({ s with issuing := none }).ctx? a cls op f)

/-- Nothing stands before the instruction, as a decision. -/
def Ctx.clear (c : Ctx) (s : State) (late : Bool) (more : List (RFile × Nat)) : Bool :=
  (match c.g.kind with
    | .shadow _ => false
    | _ => true) &&
  (s.shadowOf c.g.id).isNone && c.deferred.isNone && (s.parkOf c.aid).isNone && s.errs.poison.isEmpty &&
  (illegalCause (windowOfAgent c.hdr c.aid.slice) c.e c.f late).isNone && (c.score more).isNone && !c.tokenFull

theorem Ctx.unhindered_of_clear {c : Ctx} {s : State} {late : Bool} {more : List (RFile × Nat)} (h : c.clear s late more = true) :
    c.Unhindered s late more := by
  simp only [Ctx.clear, Bool.and_eq_true, Bool.not_eq_true', Option.isNone_iff_eq_none, List.isEmpty_iff] at h
  obtain ⟨⟨⟨⟨⟨⟨⟨hkind, halone⟩, htrap⟩, hpark⟩, hpoison⟩, hlegal⟩, hscore⟩, hroom⟩ := h
  exact ⟨⟨fun p hp => (by rw [hp] at hkind; cases hkind), halone, htrap, hpark, hpoison⟩, hlegal, hscore, hroom⟩

theorem sees_of_seen {s : State} {cls op : Nat} {f : Fields} {c : Ctx} (h : s.seen cls op f = some c) : Sees s cls op f c := by
  obtain ⟨a, ha, hc⟩ := Option.bind_eq_some_iff.1 h
  obtain rfl : c.aid = a := by
    unfold State.ctx? at hc
    split at hc
    · cases hc
    · split at hc
      · split at hc
        · cases hc
        · cases hc; rfl
      · cases hc
  exact ⟨ha, hc⟩

/-- A concrete state in which an agent sees an instruction that nothing stands before, and `p` holds of what it sees. -/
theorem exists_seen {s : State} {cls op : Nat} {f : Fields} {late : Bool} {more : List (RFile × Nat)} {p : Ctx → Bool}
    (h : (s.seen cls op f).any (fun c => c.clear s late more && p c) = true) :
    ∃ c, Sees s cls op f c ∧ c.Unhindered s late more ∧ p c = true := by
  obtain ⟨c, hc, hp⟩ := (Option.any_eq_true _ _).1 h
  rw [Bool.and_eq_true] at hp
  exact ⟨c, sees_of_seen hc, Ctx.unhindered_of_clear hp.1, hp.2⟩

/-- The next state of a step, when there is one, has a property. -/
def leadsTo (o : StepOut) (p : State → Bool) : Bool :=
  match o with
  | .next t => p t
  | _ => false

theorem of_leadsTo {o : StepOut} {p : State → Bool} {t : State} (h : leadsTo o p = true) (ho : o = .next t) : p t = true := by
  rw [ho] at h; exact h

end Sys2Proof.Machine
end

section
/-!
RET of a whole gang, one of whose slices has no active lane (R231, R233).
-/

namespace Sys2Proof.Machine

/-- A whole gang in a call at a RET, its handler at 0x100. Slice 7 has no active lane; its own call returns behind the last word
of the clause at 0, which ends the body of a loop that was entered at a lower deferred depth. -/
def besideBadBody : State :=
  ((State.reset.loadOne 5 0x20DC0000 0).modGang 3 (fun g =>
    ({ g with slices := g.slices.map (fun x => { x with calls := [⟨⟨4, true, 5, 0, 8⟩, 0, 0, 0⟩] }) } : Gang).modSlice 7 (fun x =>
      { x with
        active := 0
        deferred := [⟨0xF0000000, ⟨4, true, 5, 0, 8⟩, 0x20, 0, false⟩]
        loops := [⟨0, 0, 16, 2, 0⟩]
        calls := [⟨⟨8, true, 5, 0, 8⟩, 1, 1, 0xF0000000⟩] }))).modLaunch 1 (fun l => { l with hdr := { l.hdr with trapvec := 0x100 } })

/-- The other slices run in a call that all their lanes leave, outside loops, and slice 0 is one of them. -/
def Ctx.leavesCall (c : Ctx) : Bool :=
  c.g.id == 3 && c.running.any (fun q => q.1 == 0 && (q.2.calls.map (·.ret.pc)) == [4]) &&
  c.running.all (fun q => decide (q.1 < c.g.nslices) && decide (q.2.active &&& ~~~c.exec = 0) && q.2.loops.isEmpty &&
    q.2.deferred.isEmpty && !q.2.calls.isEmpty)

theorem besideBadBody_seen : (besideBadBody.seen 5 0x06 (unpack 0x20DC0000 0)).any (fun c =>
    c.clear besideBadBody false [] && c.leavesCall) = true := by decide +kernel

/-- The RET leaves slice 0 not at its return point but at the handler: LOOP_SHAPE, cause 6, of slice 7 is the whole gang's trap. -/
theorem besideBadBody_traps : leadsTo (exec (.ret (unpack 0x20DC0000 0)) besideBadBody) (fun t =>
    ((t.gang? 3).bind (·.slice? 0)).map (·.point.pc) == some 0x100) = true := by decide +kernel

/-- Refutes O23: RET's second clause says nothing of slices without an active lane; where one of them, returning in the same settling,
ends a loop body that R233 forbids, the whole gang goes to its handler. -/
theorem not_callReturnLoop : ¬ Obligations.CallReturnLoop := by
  intro h
  obtain ⟨-, hret, -⟩ := h (unpack 0x20DC0000 0)
  obtain ⟨c, hs, hu, hp⟩ := exists_seen besideBadBody_seen
  simp only [Ctx.leavesCall, Bool.and_eq_true, List.all_eq_true, List.any_eq_true, decide_eq_true_eq, beq_iff_eq, Bool.not_eq_true',
    List.isEmpty_iff, List.isEmpty_eq_false_iff] at hp
  obtain ⟨⟨hid, q, hq, hq0, hpc⟩, hall⟩ := hp
  obtain ⟨t, g, hnext, hg, -, hslices⟩ := hret besideBadBody c hs hu fun q hq => by
    obtain ⟨⟨⟨⟨hn, hact⟩, hloops⟩, hdef⟩, hcalls⟩ := hall q hq
    obtain ⟨e, l, he⟩ := List.exists_cons_of_ne_nil hcalls
    exact ⟨hn, e, l, he, hact, by rw [hdef]; exact Nat.zero_le _, hloops⟩
  obtain ⟨y, hy, hbecomes⟩ := hslices q hq
  obtain ⟨e, l, he⟩ : ∃ e l, q.2.calls = e :: l := List.exists_cons_of_ne_nil (hall q hq).2
  have hret4 : e.ret.pc = 4 := by rw [he] at hpc; simpa using congrArg List.head? hpc
  have hthere := of_leadsTo besideBadBody_traps hnext
  rw [← hid, hg, Option.bind_some, ← hq0, hy, Option.map_some, beq_iff_eq, Option.some.injEq, (hbecomes e l he).1, hret4] at hthere
  exact absurd hthere (by decide)

end Sys2Proof.Machine
end

section
/-!
BARARV of a slice whose shading gang is ended by the end check behind it (R233, R241, R291).
-/

namespace Sys2Proof.Machine

/-- A parted shading gang of which slice 7 is at a BARARV of the barrier at offset 32, the last word of a loop body that was entered
at a lower deferred depth. -/
def shadingArrives : State :=
  { ((State.reset.loadOne 5 0x223C0140 0).modGang 3 (fun g =>
      (({ g with kind := .shading 9 [] 0, whole := false }.setD 5 28 (BitVec.ofNat 64 (scratchBase + 32)) : Gang)).modSlice 7 (fun x =>
        { x with
          deferred := [⟨0, ⟨4, true, 5, 0, 8⟩, 0x20, 0, false⟩]
          loops := [⟨0, 0, 16, 2, 0⟩] }))).modBlock 2 (fun b => b.setBar 32 ⟨0, 0, 1, 0, false, 0, 5, 0⟩) with
    issuing := some ⟨3, some 7⟩ }

/-- Slice 7 arrives, the first of its gang, with nothing before it. -/
def Ctx.arrivesFirst (c : Ctx) : Bool :=
  c.g.id == 3 && c.aid.slice == some 7 && c.g.liveSlices.contains 7 && c.any && (c.A c.low).toNat == scratchBase + 32 &&
  decide (48 ≤ c.hdr.scratch) && decide (c.hdr.scratch ≤ 2 ^ 32) && c.g.arrivals.isEmpty && !c.g.allArrived ⟨32, 128⟩ &&
  (shadingArrives.begun c.aid).released c.g.id shadingArrives.fresh (some 7) c.g.block c.wing 1 &&
  (shadingArrives.block? c.g.block).isSome

theorem shadingArrives_seen : (shadingArrives.seen 5 0x11 (unpack 0x223C0140 0)).any (fun c =>
    c.clear shadingArrives false [] && c.arrivesFirst) = true := by decide +kernel

/-- LOOP_SHAPE, cause 6, ends the shading gang, and its records with it. -/
theorem shadingArrives_ends : leadsTo (exec (.bararv (unpack 0x223C0140 0)) shadingArrives) (fun t =>
    (t.gang? 3).any (fun g => g.arrivals.isEmpty)) = true := by decide +kernel

/-- Refutes O26: a slice's arrival does not stay in its gang's record where the end check behind the BARARV (R233) ends its shading
gang (R291). -/
theorem not_barriers : ¬ Obligations.Barriers := by
  intro h
  obtain ⟨c, hs, hu, hp⟩ := exists_seen shadingArrives_seen
  simp only [Ctx.arrivesFirst, Bool.and_eq_true, beq_iff_eq, decide_eq_true_eq, Bool.not_eq_true', List.isEmpty_iff,
    List.contains_iff_mem, Option.isSome_iff_exists] at hp
  obtain ⟨⟨⟨⟨⟨⟨⟨⟨⟨⟨hid, hsl⟩, hlive⟩, hany⟩, ha⟩, hlo⟩, hhi⟩, harr⟩, hnot⟩, hrel⟩, d, hd⟩ := hp
  have hnames : c.namesBar 32 := ⟨by simpa [Ctx.any] using hany, ha, rfl, hlo, hhi⟩
  obtain ⟨-, -, -, -, -, hslice⟩ := h (unpack 0x223C0140 0) shadingArrives c 32 d hd hnames
  obtain ⟨harrives, -⟩ := hslice 7 hsl hlive hu hrel (by rw [harr]; exact List.nodup_nil) (by rw [harr]; nofun)
  obtain ⟨-, hfree⟩ := harrives hs
  obtain ⟨-, hrest⟩ := hfree (by simp [Gang.recordDue, harr])
  obtain ⟨-, hnotAll, -⟩ := hrest (.inr (by rw [harr]; decide))
  obtain ⟨t, d', g, hnext, -, -, hg, -, hmem, -⟩ := hnotAll (by rw [harr]; exact hnot)
  have hnone := of_leadsTo shadingArrives_ends hnext
  rw [← hid, hg, Option.any_some, List.isEmpty_iff] at hnone
  rw [hnone] at hmem
  cases hmem

end Sys2Proof.Machine
end

section
/-!
The invariant of O60 is not inductive: it says nothing of the numbers of the matrix engine's jobs (R142, R152).
-/

namespace Sys2Proof.Machine

/-- The state after a step, when there is one. -/
def State.stepped (s : State) : State :=
  match step s with
  | .next t => t
  | _ => s

/-- The four jobs of an ACST have been handed over. The first has been given the number 10000, which is still to be given, and is
the next to complete. -/
def lateJob : State :=
  let s := (State.reset.loadOne 3 0x309C2103 0x11028001).stepped
  { s with
    issuing := none, inputs := [.matrixEntryComplete 10000]
    fl := { s.fl with jobs := (s.fl.jobs.take 1).map (fun j => { j with id := 10000 }) } }

theorem lateJob_keeps : (Memory.wf lateJob.mem && lateJob.fl.ops.all (fun o => decide (o.id < lateJob.fresh)) &&
    lateJob.blocks.all (fun b => decide (b.id < lateJob.fresh))) = true := by decide +kernel

theorem lateJob_inv : lateJob.Inv := by
  have h := lateJob_keeps
  simp only [Bool.and_eq_true, List.all_eq_true, decide_eq_true_eq] at h
  obtain ⟨⟨hmem, hops⟩, hblocks⟩ := h
  exact ⟨hmem, hops, hblocks⟩

/-- The rows of the ACST join the combiner as stores whose numbers follow the job's own. -/
theorem lateJob_stores : leadsTo (step lateJob) (fun t => t.fl.ops.any (fun o => decide (t.fresh ≤ o.id))) = true := by
  decide +kernel

/-- Refutes O60: a job whose number is still to be given meets the invariant, and the stores of its rows, numbered after it, do
not. -/
theorem not_everyStepKeeps : ¬ Obligations.EveryStepKeeps := by
  intro h
  have hbad := lateJob_stores
  cases hstep : step lateJob with
  | next t =>
    obtain ⟨o, ho, hlate⟩ := List.any_eq_true.1 (of_leadsTo hbad hstep)
    obtain ⟨-, hnumbered, -⟩ := h lateJob t lateJob_inv hstep
    exact absurd (hnumbered o ho) (Nat.not_lt.2 (of_decide_eq_true hlate))
  | _ => rw [hstep] at hbad; cases hbad

end Sys2Proof.Machine
end

section
/-!
ST on the lanes' stacks, of a gang whose arrival at a barrier is still to take effect (R179, R220, R241).
-/

namespace Sys2Proof.Machine

/-- A whole gang at an ST of 4 bytes at the base of each lane's stack. All its slices have arrived at the barrier at offset 32, whose
arrival has still to take effect. -/
def storesArrived : State :=
  ((State.reset.loadOne 2 0x305C0146 0x10007000).modGang 3 (fun g =>
    (List.range 32).foldl (fun g l => g.setD 5 l (BitVec.ofNat 64 0xFFF8000000000000)) { g with arrivals := [⟨32, 255⟩] })).modLaunch 1
      (fun l => { l with hdr := { l.hdr with stackb := 64 } })

/-- Each lane's element lies at the base of its stack, no operation is on its way and no fence is open. -/
def Ctx.storesAtBase (c : Ctx) (s : State) : Bool :=
  c.any && s.fl.ops.isEmpty && !(s.begun c.aid).fenced c.g.id c.aid.slice && c.hdr.stackb == 64 && (s.block? 2).isSome &&
  (List.range 32).all (fun l => wrap 64 ((c.A l).toNat + sext 8 (modF c.f 7 0) * (2 ^ c.f.w.toNat : Nat)) == 0xFFF8000000000000)

theorem storesArrived_seen : (storesArrived.seen 2 0x02 (unpack 0x305C0146 0x10007000)).any (fun c =>
    c.clear storesArrived false [] && (c.f == unpack 0x305C0146 0x10007000 && c.storesAtBase storesArrived)) = true := by decide +kernel

/-- With the operation's end the arrival takes effect: the barrier's bytes change. -/
theorem storesArrived_arrives : leadsTo (exec (.st (unpack 0x305C0146 0x10007000)) storesArrived) (fun t =>
    (t.block? 2).map (·.scratch) != (storesArrived.block? 2).map (·.scratch)) = true := by decide +kernel

/-- Refutes O29: the operation of an ST that is performed at its issue ends there, and with it an arrival of its gang that was due takes
effect in the scratchpad. -/
theorem not_accessesIssue : ¬ Obligations.AccessesIssue := by
  intro h
  obtain ⟨-, -, hstack, -, -⟩ := h (unpack 0x305C0146 0x10007000)
  obtain ⟨c, hs, hu, hp⟩ := exists_seen storesArrived_seen
  simp only [Ctx.storesAtBase, Bool.and_eq_true, Bool.not_eq_true', beq_iff_eq, List.isEmpty_iff, List.all_eq_true,
    List.mem_range, Option.isSome_iff_exists] at hp
  obtain ⟨hf, ⟨⟨⟨⟨hany, hops⟩, hfence⟩, hstackb⟩, b, hb⟩, haddr⟩ := hp
  rw [hf] at haddr
  obtain ⟨t, -, hnext, -, ⟨-, -, hkept⟩, -⟩ := hstack storesArrived c hs hu (by simpa [Ctx.any] using hany) (by rw [State.numbered, hops]; nofun)
    hfence fun l hl => by
      dsimp only
      rw [haddr l (mem_lanesOf.1 hl).1]
      exact ⟨by decide, 0, by decide, by rw [hstackb]; decide⟩
  obtain ⟨d, hd, hstore⟩ := hkept 2 b hb
  have hchanged := of_leadsTo storesArrived_arrives hnext
  rw [hd, hb, Option.map_some, Option.map_some, show d.scratch = b.scratch from congrArg Prod.fst hstore] at hchanged
  simp at hchanged

end Sys2Proof.Machine
end

section
/-!
A VIEW of a launch that has left the wing: its own view is what makes the launch's slots count again (R292, R295).
-/

namespace Sys2Proof.Machine

/-- A gang of a block that is not resident, whose launch had its reservation on the cluster and has no view on the wing, is at a
VIEW. -/
def viewReturns : State :=
  let s := (State.reset.loadOne 4 0x303C8083 0x16001020).modBlock 2 (fun b => { b with resident := false })
  { s with launches := s.launches.map (fun l =>
      { l with nests := [(0, false)], hdr := { l.hdr with nestlim := 1, levels := [(4, 8), (0, 0), (0, 0)] } }) }

/-- The view may nest, its addresses are in order, and no slot of its level is free. -/
def Ctx.findsNoSlot (c : Ctx) : Bool :=
  let b := viewReturns.begun c.aid
  c.any && !b.fenced c.g.id c.aid.slice && decide (c.g.nest < c.hdr.nestlim) &&
  ([((c.A c.low).toNat, 128), ((c.B c.low).toNat, 256)] : List (Nat × Nat)).all (fun x => decide (x.1 < 2 ^ 56) && x.1 % x.2 == 0) &&
  !b.slotFree (b.rootLaunch c.g) (c.g.nest + 1) c.wing

theorem viewReturns_seen : (viewReturns.seen 4 0x01 (unpack 0x303C8083 0x16001020)).any (fun c =>
    c.clear viewReturns false [] && c.findsNoSlot) = true := by decide +kernel

/-- It holds a slot all the same. -/
theorem viewReturns_admits : leadsTo (exec (.view (unpack 0x303C8083 0x16001020)) viewReturns) (fun t =>
    t.fl.views.all (fun v => v.admitted.isSome)) = true := by decide +kernel

/-- Refutes O36: the slots of a launch count while a view of it is on the wing (R292), so the first view after its blocks have gone is
admitted to a slot that was not free before it. -/
theorem not_viewsIssue : ¬ Obligations.ViewsIssue := by
  intro h
  obtain ⟨c, hs, hu, hp⟩ := exists_seen viewReturns_seen
  simp only [Ctx.findsNoSlot, Bool.and_eq_true, Bool.not_eq_true', decide_eq_true_eq, List.all_eq_true, beq_iff_eq] at hp
  obtain ⟨⟨⟨⟨hany, hfence⟩, -⟩, haddr⟩, hfull⟩ := hp
  obtain ⟨t, v, hnext, hv, hreq, -⟩ := (h (unpack 0x303C8083 0x16001020)).1 viewReturns c hs hu (by simpa [Ctx.any] using hany)
    hfence (fun l hl => by obtain rfl := List.mem_singleton.1 hl; exact haddr)
  obtain ⟨-, -, -, hwing, hlevel, -, -, -, -, -, -, hlaunch, -, -, hadmitted⟩ := hreq
  have hsome := List.all_eq_true.1 (of_leadsTo viewReturns_admits hnext) v hv
  have hfree := (hadmitted.1 hsome).2
  rw [hlaunch, hlevel, hwing, hfull] at hfree
  cases hfree

end Sys2Proof.Machine
end

section
/-!
An engine fails while an arrival waits for the work that is discarded with it (R159, R220, R241).
-/

namespace Sys2Proof.Machine

/-- The ACST of a gang is on the engine. Its slice 0 has exited since, and its other slices have arrived at the barrier at offset 32,
which waits for what slice 0 stores. -/
def arrivalBehindEngine : State :=
  let s := (State.reset.loadOne 3 0x309C2103 0x11028001).stepped
  { s.modGang 3 (fun g => { g with exited := sliceLanes 0, arrivals := [⟨32, 254⟩] }) with
    pkg := { s.pkg with powered := true, halted := false, boot := 5 }, issuing := none }

/-- The block as the failure finds it: it uses the engine, which serves, and the arrival has still to take effect. -/
def arrivalBehindEngine.before (b : Block) : Bool :=
  let s := arrivalBehindEngine
  b.id == 2 && (s.engineUsers 0).contains b && s.pkg.powered && !s.pkg.halted && decide (5 ≤ s.pkg.boot) &&
    !s.errs.badEngines.contains 0 && (s.gang? 3).any (fun g => !s.endedDone g)

theorem arrivalBehindEngine_stands : (arrivalBehindEngine.block? 2).any arrivalBehindEngine.before = true := by decide +kernel

/-- The failure discards the ACST, and the arrival is made: the barrier's bytes change. -/
theorem arrivalBehindEngine_arrives : leadsTo (exec (.matrixEngineFail 0) arrivalBehindEngine) (fun t =>
    (t.block? 2).all (fun d => (arrivalBehindEngine.block? 2).all (fun b => d.scratch != b.scratch))) = true := by decide +kernel

/-- Refutes O47: a block that loses its engine does not keep its scratchpad where the work that is discarded is what an arrival waited
for. -/
theorem not_engineEvents : ¬ Obligations.EngineEvents := by
  intro h
  obtain ⟨b, hb, hp⟩ := (Option.any_eq_true _ _).1 arrivalBehindEngine_stands
  simp only [arrivalBehindEngine.before, Bool.and_eq_true, beq_iff_eq, Bool.not_eq_true', decide_eq_true_eq,
    List.contains_iff_mem] at hp
  obtain ⟨⟨⟨⟨⟨⟨hid, huses⟩, hpower⟩, hgoes⟩, hboot⟩, hgood⟩, -⟩ := hp
  obtain ⟨-, -, -, -, hengine⟩ := h arrivalBehindEngine (by decide +kernel)
  have hnew : 0 ∉ arrivalBehindEngine.errs.badEngines := by simpa using hgood
  obtain ⟨⟨t, hnext, -, -, -, hblocks⟩, -⟩ := hengine 0 ⟨⟨hpower, hgoes⟩, hboot⟩ (by decide) hnew
  rw [← hid] at hb
  obtain ⟨d, hd, hscratch, -⟩ := hblocks b hb huses
  have hchanged := of_leadsTo arrivalBehindEngine_arrives hnext
  rw [← hid, hd, hb] at hchanged
  simp [hscratch] at hchanged

end Sys2Proof.Machine
end

section
/-!
A view whose camera lies on a package that has left the domain: its first turn tells its gang (R268, R357).
-/

namespace Sys2Proof.Machine

/-- A gang of a launch with view slots has issued a VIEW of the records at address 0. -/
def viewIssued : State :=
  let s := State.reset.loadOne 4 0x303C8083 0x16001020
  State.stepped { s with
    launches := s.launches.map (fun l => { l with hdr := { l.hdr with nestlim := 1, levels := [(4, 8), (0, 0), (0, 0)] } }) }

/-- The package on which the records lie has left the domain. -/
def viewAcross : State :=
  let away := viewIssued.pkg.pkgid + 1
  { viewIssued with
    issuing := none
    pkg := { viewIssued.pkg with departed := [away] }
    mem := { viewIssued.mem with pages := viewIssued.mem.pages.map (fun p =>
      { p with spec := { p.spec with pbase := away * 2 ^ 48 } }) } }

/-- A turn of a wing's unit that is in service has a slot to serve. -/
def State.turns (s : State) (wing : Nat) : Bool :=
  !s.errs.deadSketch.contains wing && !s.dieOff wing &&
    (s.slotsInTurn wing).head?.any (fun v => ((if v.prepared then s else s.acquire wing 3).viewTurn v).isSome)

theorem viewAcross_turns : viewAcross.turns 0 = true := by decide +kernel

theorem viewAcross_tells : leadsTo (exec (.sketchTurn 0) viewAcross) (fun t => decide (t.gangs ≠ viewAcross.gangs)) = true := by
  decide +kernel

/-- Refutes O48: a turn does not leave the gangs as they were where the package that it reads has left the domain; the view's gang is
to take FABRIC_LOST (R357). -/
theorem not_viewEvents : ¬ Obligations.ViewEvents := by
  intro h
  have hturns := viewAcross_turns
  simp only [State.turns, Bool.and_eq_true, Bool.not_eq_true'] at hturns
  obtain ⟨⟨hunit, hdie⟩, hslot⟩ := hturns
  obtain ⟨v, hv, hw⟩ := (Option.any_eq_true _ _).1 hslot
  obtain ⟨w, hw⟩ := Option.isSome_iff_exists.1 hw
  obtain ⟨l, hslots⟩ := List.head?_eq_some_iff.1 hv
  obtain ⟨hturn, -⟩ := h viewAcross
  obtain ⟨t, hnext, hgangs, -⟩ := hturn 0 v l w hunit hdie hslots hw
  exact of_decide_eq_true (of_leadsTo viewAcross_tells hnext) hgangs

end Sys2Proof.Machine
end

section
/-!
The supervisor OS ends a saved block of a graph's last node: the completion record is written at once (R258, R325).
-/

namespace Sys2Proof.Machine

/-- A graph of one launch node, whose completion record is to be written at address 4096. -/
def lastNode : Graph :=
  { id := 9, part := 0, tag := 7, prio := 0, irq := false, vector := 0, compl := 4096, nodes := [State.reset.newNode 0 ⟨[], []⟩]
    failure := none, reserve := none, done := false }

/-- The one block of that graph is saved: it stands on no cluster. -/
def savedBlock : State :=
  let s := (State.reset.loadOne 0 0x207C4146 0).modBlock 2 (fun b => { b with resident := false })
  { s with
    pkg := { s.pkg with powered := true, halted := false, boot := 5 }, issuing := none
    launches := s.launches.map (fun l => { l with node := some (9, 0) }), graphs := [lastNode] }

/-- The supervisor OS runs, and may end the block. -/
def savedBlock.before (b : Block) : Bool :=
  let s := savedBlock
  s.pkg.powered && !s.pkg.halted && decide (5 ≤ s.pkg.boot) && b.id == 2 && !b.ended && !b.stop.killed && s.isOwn b

theorem savedBlock_stands : (savedBlock.block? 2).any savedBlock.before = true := by decide +kernel

/-- The node fails, its graph is over with it, and the completion record is written. -/
theorem savedBlock_completes : leadsTo (exec (.supervisorEndBlock 2) savedBlock) (fun t => decide (t.mem ≠ savedBlock.mem)) = true := by
  decide +kernel

/-- Refutes O52: to end a saved block does not leave memory as it was where its graph is over with it (R258). -/
theorem not_supervisorEvents : ¬ Obligations.SupervisorEvents := by
  intro h
  obtain ⟨b, hb, hp⟩ := (Option.any_eq_true _ _).1 savedBlock_stands
  simp only [savedBlock.before, Bool.and_eq_true, beq_iff_eq, Bool.not_eq_true', decide_eq_true_eq] at hp
  obtain ⟨⟨⟨⟨⟨⟨hpower, hgoes⟩, hboot⟩, hid⟩, hended⟩, hkilled⟩, hown⟩ := hp
  obtain ⟨hend, -⟩ := h savedBlock ⟨⟨hpower, hgoes⟩, hboot⟩
  rw [← hid] at hb
  obtain ⟨t, hnext, hmem, -⟩ := hend b hb hended hkilled hown
  rw [hid] at hnext
  exact of_decide_eq_true (of_leadsTo savedBlock_completes hnext) hmem

end Sys2Proof.Machine
end

section
/-!
A record that a pool lists twice, as queued and as held (R262, R266).
-/

namespace Sys2Proof.Machine

/-- The lanes of block 2 name 32 records that it holds of node 0's pool. The first of them is listed in node 1's pool too: as queued,
and behind that as held. -/
def recordTwice : State :=
  let at_ := fun (l : Nat) => 0x8000 + 64 * l
  let node : Node := State.reset.newNode 0 ⟨[], []⟩
  let s := (State.reset.loadOne 4 0x225C0140 0).modGang 3 (fun g =>
    (List.range 32).foldl (fun g l => g.setD 5 l (BitVec.ofNat 64 (at_ l))) g)
  { s with
    launches := s.launches.map (fun l => { l with node := some (9, 0) })
    graphs := [{ id := 9, part := 0, tag := 0, prio := 0, irq := false, vector := 0, compl := 0
                 nodes := [{ node with recs := (List.range 32).map (fun l => (at_ l, .allocated 2)) },
                           { node with recs := [(at_ 0, .queued 1 0), (at_ 0, .allocated 2)] }]
                 failure := none, reserve := none, done := false }] }

/-- The block holds every record that its lanes name. -/
def Ctx.returns (c : Ctx) : Bool :=
  let s := recordTwice
  c.any && c.g.block == 2 && ((s.begun c.aid).nodeOf c.g == some (9, 0)) &&
    (c.badRecs (fun a => (s.begun c.aid).recIs 9 a (fun r => r == .allocated c.g.block || r == .delivered c.g.block))).isEmpty &&
    (s.graph? 9).any (fun g => g.nodes.all (fun n => n.grants.isEmpty) && (g.node? 0).isSome &&
      (g.node? 1).any (fun n => n.recAt 0x8000 == .queued 1 0))

theorem recordTwice_seen : (recordTwice.seen 4 0x12 (unpack 0x225C0140 0)).any (fun c =>
    c.clear recordTwice false [] && c.returns) = true := by decide +kernel

/-- Both of its listings leave the pool. -/
theorem recordTwice_frees : leadsTo (exec (.nddone (unpack 0x225C0140 0)) recordTwice) (fun t =>
    (t.node? (9, 1)).any (fun n => n.recAt 0x8000 == .free)) = true := by decide +kernel

/-- Refutes O38: NDDONE returns a record that its pool lists as held behind another listing of it, by which it stands as queued. -/
theorem not_recordsMoved : ¬ Obligations.RecordsMoved := by
  intro h
  obtain ⟨c, hs, hu, hp⟩ := exists_seen recordTwice_seen
  simp only [Ctx.returns, Bool.and_eq_true, beq_iff_eq, List.isEmpty_iff] at hp
  obtain ⟨⟨⟨⟨hany, hblock⟩, hnode⟩, hgood⟩, hgraph⟩ := hp
  obtain ⟨gr, hgr, hnodes⟩ := (Option.any_eq_true _ _).1 hgraph
  simp only [Bool.and_eq_true, List.all_eq_true, List.isEmpty_iff, Option.isSome_iff_exists] at hnodes
  obtain ⟨⟨hgrants, nd, hnd⟩, hqueued⟩ := hnodes
  obtain ⟨x, hx, hat⟩ := (Option.any_eq_true _ _).1 hqueued
  obtain ⟨-, hdone, -⟩ := h (unpack 0x225C0140 0) recordTwice c (9, 0) gr nd hu (by simpa [Ctx.any] using hany) hgr hnd
  obtain ⟨t, hnext, -, -, hback⟩ := hdone hs hnode hgrants hgood
  obtain ⟨y, hy, -, hrecs⟩ := hback 1 x hx
  have hkept : y.recAt 0x8000 = .queued 1 0 := by
    rw [hrecs, eq_of_beq hat, if_neg (by simp [RecState.heldBy])]
  have hfree := of_leadsTo recordTwice_frees hnext
  rw [hy, Option.any_some, hkept] at hfree
  cases hfree

end Sys2Proof.Machine
end

section
/-!
Proofs of the instructions that hand work on and leave registers and memory alone: fences and cache control (R191 to R193, R331),
copies and their batches (R194 to R198), stream contexts (R199 to R204).
-/

namespace Sys2Proof.Machine

section
variable {s t : State} {cls op : Nat} {f : Fields} {c : Ctx} {b : Body} {i : Instr}

/-! ### The end of an instruction whose own part stands beside registers and memory -/

/-- An instruction whose own part leaves gangs, blocks and memory as they were. -/
theorem completes_apart (hi : exec i s = issueOp cls op f b s) (hs : Sees s cls op f c)
    (hu : c.Unhindered s (b.late c (s.begun c.aid)) (b.more c)) (ht : b.target c (s.begun c.aid) = none) (hx : b.unassigned = none)
    (hw : c.targetsThere b (s.begun c.aid)) (hr : b.run c (s.begun c.aid) = .done t) (hg : t.gangs = (s.begun c.aid).gangs)
    (hb : t.blocks = s.blocks) (hm : t.mem = s.mem) :
    ∃ u v, exec i s = .next u ∧ u.fl = { t.fl with views := v } ∧ Frame nothing (· = 0x07) s u ∧ c.goesOn u := by
  obtain ⟨u, k, hnext, hc⟩ := completes_of_done hi hs hu ht hx hw hr ((hs.done_begun hu.toUndisturbed).of_gangs hg)
  obtain ⟨v, hv⟩ := hc.fl
  exact ⟨u, v, hnext, hv, ((Frame.begun s c.aid).trans (.of_eq hg hb hm)).trans hc.frame, hc.goes⟩

/-- The same beside an update of its gang. -/
theorem completes_beside {k : Gang → Gang} (hk : Aside k) (hst : ∀ g, (k g).standing = g.standing)
    (hi : exec i s = issueOp cls op f b s) (hs : Sees s cls op f c)
    (hu : c.Unhindered s (b.late c (s.begun c.aid)) (b.more c)) (ht : b.target c (s.begun c.aid) = none) (hx : b.unassigned = none)
    (hw : c.targetsThere b (s.begun c.aid)) (hr : b.run c (s.begun c.aid) = .done t)
    (hg : t.gangs = ((s.begun c.aid).modGang c.g.id k).gangs) (hb : t.blocks = s.blocks) (hm : t.mem = s.mem) :
    ∃ u v, exec i s = .next u ∧ u.fl = { t.fl with views := v } ∧ Frame nothing (· = 0x07) (s.modGang c.g.id k) u ∧ c.goesOn u := by
  obtain ⟨u, h, hnext, hc⟩ := completes_of_done hi hs hu ht hx hw hr (((hs.done_begun hu.toUndisturbed).modGang hst).of_gangs hg)
  obtain ⟨v, hv⟩ := hc.fl
  exact ⟨u, v, hnext, hv, ((Frame.aside hk (Frame.begun s c.aid)).trans (.of_eq hg hb hm)).trans hc.frame, hc.goes⟩

/-- Nothing waits for a fence (R191). -/
theorem Ctx.gated_of_free (h : s.fenced c.g.id c.aid.slice = false) (k : State → Res) : c.gated s k = k s := by
  unfold Ctx.gated; rw [h]; rfl

theorem Ctx.any_of_exec (h : c.exec ≠ 0) : c.any = true := decide_eq_true h

theorem aside_se : Aside (fun g => { g with se := true }) where
  id _ := rfl
  rest g h e := by simp only [Gang.rest, Prod.mk.injEq] at e ⊢; simp only [e, and_self]
  regs _ := rfl
  getR _ r _ _ := by cases r <;> rfl

theorem Ctx.markSe_of_any (h : c.any = true) (s : State) : c.markSe s = s.modGang c.g.id (fun g => { g with se := true }) := if_pos h

/-! ### Copies (R194, R195, R197) -/

/-- The copy that a request becomes (R194). -/
def Ctx.copied (c : Ctx) (id : Nat) (r : CopyReq) : Copy :=
  { id := id, gang := c.g.id, block := c.g.block, cluster := c.blk.cluster, batch := c.g.sealedN + 1
    dst := r.dst, src := r.src, bytes := r.bytes, rows := r.rows, rowBytes := r.rowBytes
    dpitch := r.dpitch, spitch := r.spitch, planed := r.planed
    barrier := (if immOf c.f then some (c.D 0).toNat else none).map (· - 0xFFF0000000000000), slice := c.aid.slice, declined := false }

/-- A request whose operands pass joins the queue where it has room. -/
theorem Ctx.copy_joins {r : CopyReq} (hany : c.any = true) (hfmt : ∀ x, r.planed = some x → x < 12)
    (hcheck : c.copyCheck s r (if immOf c.f then some (c.D 0).toNat else none) = none)
    (hroom : (s.fl.copies.filter (fun x => x.cluster == c.blk.cluster)).length < 128) :
    c.copy s r = .done { s with fresh := s.fresh + 1, fl := { s.fl with copies := s.fl.copies ++ [c.copied s.fresh r] } } := by
  have hplaned : decide (r.planed.any (fun x => decide (12 ≤ x)) = true) = false := by
    refine decide_eq_false fun h => ?_
    obtain ⟨x, hx, hle⟩ := (Option.any_eq_true _ _).1 h
    exact absurd (of_decide_eq_true hle) (Nat.not_le.2 (hfmt x hx))
  unfold Ctx.copy
  rw [hplaned]
  simp only [hany, hcheck, Bool.false_eq_true, if_false, Bool.not_true, Nat.not_le.2 hroom, State.newId]
  rfl

end

/-- Settles O32: both join the queue as the copy that they ask for. -/
theorem copiesIssue : Obligations.CopiesIssue := by
  intro f
  refine ⟨fun s c hs hu hex hfence hcheck hroom => ?cpa, fun s c hs hu hex hfence hfmt hcheck hroom => ?cpt⟩
  all_goals
    obtain ⟨-, -, -, -, -, hf, -⟩ := hs.spec
    have hany := Ctx.any_of_exec hex
  case cpa =>
    have hrun := Ctx.copy_joins (s := s.begun c.aid) (r := cpaReq c) hany nofun (hf ▸ hcheck) hroom
    obtain ⟨u, v, hnext, hfl, hframe, -⟩ := completes_apart (i := .cpa f) rfl hs hu rfl rfl (Ctx.targetsThere_nil rfl)
      ((Ctx.gated_of_free hfence fun s => c.copy s (cpaReq c)).trans hrun) rfl rfl rfl
    refine ⟨u, _, hnext, by rw [hfl]; rfl, rfl, rfl, rfl, rfl, rfl, ?_, hframe⟩
    rw [← hf]
    simp only [Ctx.copied]
    split <;> rfl
  case cpt =>
    have hplaned : ∀ x, (cptReq c).planed = some x → x < 12 := fun x hx => by
      unfold cptReq at hx
      dsimp only at hx
      rw [hf] at hx
      split at hx
      next hp => cases hx; exact hfmt hp
      next => cases hx
    have hrun := Ctx.copy_joins (s := s.begun c.aid) (r := cptReq c) hany hplaned (hf ▸ hcheck) hroom
    obtain ⟨u, v, hnext, hfl, hframe, -⟩ := completes_apart (i := .cpt f) rfl hs hu rfl rfl (Ctx.targetsThere_nil rfl)
      ((Ctx.gated_of_free hfence fun s => c.copy s (cptReq c)).trans hrun) rfl rfl rfl
    exact ⟨u, _, hnext, by rw [hfl]; rfl, rfl, rfl, rfl, rfl, rfl, hframe⟩

/-! ### Batches (R197, R198) -/

theorem aside_sealedN : Aside (fun g => { g with sealedN := g.sealedN + 1 }) where
  id _ := rfl
  rest g h e := by simp only [Gang.rest, Prod.mk.injEq] at e ⊢; simp only [e, and_self]
  regs _ := rfl
  getR _ r _ _ := by cases r <;> rfl

/-- Settles O33: BSEAL writes the number beside the count, and a BWAIT with nothing to wait for does nothing. -/
theorem batches : Obligations.Batches := by
  intro f
  refine ⟨fun s c hs hu hex hfence hfull hl => ?bseal, fun s c hs hu hfence hopen htold => ?bwait⟩
  case bseal =>
    have hany := Ctx.any_of_exec hex
    refine resultsFrom_of_aside_putQ aside_sealedN (fun _ => rfl) rfl hs hu rfl rfl (Ctx.targetsThere_nil rfl) (.inl rfl) ?_ hl
    have hfull' : (s.begun c.aid).sealFull c.g = false := hfull
    dsimp only
    rw [Ctx.gated_of_free hfence]
    simp only [hany, hfull', Bool.not_true, Bool.false_eq_true, if_false]
  case bwait =>
    have hnone : ∀ m, c.g.fails.filter (fun x => decide (x.batch ≤ m) && !x.told) = [] := fun m =>
      filter_eq_nil_of fun x hx => by rw [htold x hx]; simp
    refine doneFrom_of_done rfl hs hu rfl rfl (Ctx.targetsThere_nil rfl) ?_ (hs.done_begun hu.toUndisturbed) (Frame.begun s c.aid)
    dsimp only
    rw [Ctx.gated_of_free hfence]
    cases hkind : c.g.kind with
    | shadow p => exact absurd hkind (hu.kind p)
    | _ =>
      simp only [hnone]
      split
      next => rfl
      next => exact if_neg fun h => absurd (h.symm.trans hopen) (by decide)

/-! ### Stream contexts (R199, R200, R203, R204) -/

section
variable {s : State} {c : Ctx} {x : StreamCtx}

theorem Ctx.withCtx_of_granted (h : s.ctxOf c.wing (modF c.f 5 0) c.blk.part = some x) (k : StreamCtx → Res) :
    c.withCtx s k = k x := by
  unfold Ctx.withCtx; rw [h]

/-- A descriptor's address that passes its checks and has its page (R182, R200). -/
theorem Ctx.descriptor_passes {a : Nat} (hcheck : stepOne c.hdr true 64 64 [(0, a)] = none) (hpark : s.parkOf c.aid = none)
    (hpage : ∀ v, spaceOf a = .global v → ∃ p k, s.translate c.blk.part v 0 = .ok p k) (k : State → Res) :
    c.descriptor s a k = k s := by
  unfold Ctx.descriptor Ctx.agentCheck
  rw [hcheck, hpark]
  simp only [Option.map_none, Option.any_none, Bool.false_eq_true, if_false]
  cases hspace : spaceOf a with
  | global v =>
    obtain ⟨p, key, htr⟩ := hpage v hspace
    simp only [htr]
  | _ => rfl

/-- The operation that GATH and COLL submit (R200). -/
def Ctx.submitted (c : Ctx) (id : Nat) (x : StreamCtx) (coll : Bool) : StreamOp :=
  { id := id, num := x.sub + 1, gang := c.g.id, slice := c.aid.slice, block := c.g.block, coll := coll
    desc := (c.A c.low).toNat, done := false, declined := false, result := none }

theorem Ctx.submit_joins (hany : c.any = true) (hctx : s.ctxOf c.wing (modF c.f 5 0) c.blk.part = some x)
    (hcheck : stepOne c.hdr true 64 64 [(0, (c.A c.low).toNat)] = none) (hpark : s.parkOf c.aid = none)
    (hpage : ∀ v, spaceOf (c.A c.low).toNat = .global v → ∃ p k, s.translate c.blk.part v 0 = .ok p k)
    (hroom : (x.ops.filter (fun o => !o.done)).length < 64) (coll : Bool) :
    c.submit s coll = .done (({ s with fresh := s.fresh + 1 }.modGang c.g.id (fun g => { g with se := true })).modCtx x.wing x.ctx
      (fun y => { y with sub := y.sub + 1, ops := y.ops ++ [c.submitted s.fresh x coll] })) := by
  unfold Ctx.submit
  simp only [hany, Bool.not_true, Bool.false_eq_true, if_false, Ctx.withCtx_of_granted hctx,
    Ctx.descriptor_passes hcheck hpark hpage, Nat.not_le.2 hroom, State.newId, Ctx.markSe_of_any hany]
  rfl

/-- What TLRD reads of a context (R203, R204). -/
def StreamCtx.read (x : StreamCtx) (what : Nat) : Nat :=
  match what with
  | 0 => x.time
  | 1 => x.sub
  | _ => x.err

theorem Ctx.Done.putQ_keeps {g : Gang} (hd : c.Done t g) (r : RFile) (x : Nat) (v : Reg) : ∃ h, c.Done (c.putQ t r x v) h := by
  unfold Ctx.putQ
  split
  · exact ⟨_, hd.modGang fun g => g.standing_writeShared ..⟩
  · exact ⟨g, hd⟩

theorem Ctx.putQ_ctxs (c : Ctx) (s : State) (r : RFile) (x : Nat) (v : Reg) : (c.putQ s r x v).fl.ctxs = s.fl.ctxs := by
  unfold Ctx.putQ; split <;> rfl

theorem State.acquire_begun (s : State) (a : AgentId) (w sc : Nat) : (s.begun a).acquire w sc = (s.acquire w sc).begun a := by
  unfold State.acquire; split <;> rfl

theorem State.acquire_gangs (s : State) (w sc : Nat) : (s.acquire w sc).gangs = s.gangs := by
  unfold State.acquire; split <;> rfl

end

/-- Settles O34: each acts on its context once its operands pass. -/
theorem streams : Obligations.Streams := by
  intro f s c x hctx hfence hu hex
  have hany := Ctx.any_of_exec hex
  refine ⟨fun i hi hs hcheck hpage hroom => ?submits, fun hs hhold htime => ?waits, fun hs hl => ?reads, fun hs => ?clears⟩
  all_goals
    obtain ⟨-, -, -, -, -, hf, -⟩ := hs.spec
    have hctx' : (s.begun c.aid).ctxOf c.wing (modF c.f 5 0) c.blk.part = some x := hf ▸ hctx
  case submits =>
    have hpark : (s.begun c.aid).parkOf c.aid = none := hu.noPark
    have hjoins := Ctx.submit_joins hany hctx' hcheck hpark hpage hroom
    simp only [List.mem_cons, List.not_mem_nil, or_false] at hi
    rw [Ctx.markSe_of_any hany]
    rcases hi with rfl | rfl
    · obtain ⟨u, v, hnext, hfl, hframe, -⟩ := completes_beside (i := .gath f) aside_se (fun _ => rfl) rfl hs hu rfl rfl
        (Ctx.targetsThere_nil rfl) ((Ctx.gated_of_free hfence fun s => c.submit s false).trans (hjoins false)) rfl rfl rfl
      exact ⟨u, c.submitted s.fresh x false, hnext, rfl, rfl, rfl, rfl, by rw [hfl]; rfl, hframe⟩
    · obtain ⟨u, v, hnext, hfl, hframe, -⟩ := completes_beside (i := .coll f) aside_se (fun _ => rfl) rfl hs hu rfl rfl
        (Ctx.targetsThere_nil rfl) ((Ctx.gated_of_free hfence fun s => c.submit s true).trans (hjoins true)) rfl rfl rfl
      exact ⟨u, c.submitted s.fresh x true, hnext, rfl, rfl, rfl, rfl, by rw [hfl]; rfl, hframe⟩
  case waits =>
    refine doneFrom_of_done (t := (s.begun c.aid).acquire c.wing x.scope) rfl hs hu rfl rfl (Ctx.targetsThere_nil rfl) ?_
      ((hs.done_begun hu.toUndisturbed).of_gangs (State.acquire_gangs ..))
      (by rw [State.acquire_begun]; exact Frame.begun ..)
    dsimp only
    rw [Ctx.gated_of_free hfence]
    simp only [hany, Bool.not_true, Bool.false_and, Bool.false_eq_true, if_false, Ctx.withCtx_of_granted hctx']
    exact if_pos htime
  case reads =>
    cases hclr : modBit f 8 with
    | true =>
      refine results_of_putQ_beside (e := s.errs) (fl := ((s.begun c.aid).modCtx x.wing x.ctx (fun y =>
        { y with errNum := 0, errMore := 0, errCause := 0 })).fl) rfl hs hu rfl rfl (Ctx.targetsThere_nil rfl) (.inl rfl) ?_ hl
      dsimp only
      rw [Ctx.gated_of_free hfence]
      simp only [hany, hclr, Bool.not_true, Bool.false_eq_true, if_false, if_true, Ctx.withCtx_of_granted hctx', Ctx.putQ]
      rfl
    | false =>
      refine results_of_putQ rfl hs hu rfl rfl (Ctx.targetsThere_nil rfl) (.inl rfl) ?_ hl
      dsimp only
      rw [Ctx.gated_of_free hfence]
      simp only [hany, hclr, Bool.not_true, Bool.false_eq_true, if_false, Ctx.withCtx_of_granted hctx']
      rfl
  case clears =>
    obtain ⟨h, hh⟩ := (hs.done_begun hu.toUndisturbed).putQ_keeps .q f.d.toNat (BitVec.ofNat 64 (x.read (modF f 7 6)))
    cases hclr : modBit f 8 with
    | true =>
      obtain ⟨u, k, hnext, hc⟩ := completes_of_done (i := .tlrd f) (t := (c.putQ (s.begun c.aid) .q f.d.toNat
          (BitVec.ofNat 64 (x.read (modF f 7 6)))).modCtx x.wing x.ctx (fun y => { y with errNum := 0, errMore := 0, errCause := 0 }))
        rfl hs hu rfl rfl (Ctx.targetsThere_nil rfl) (by
          dsimp only
          rw [Ctx.gated_of_free hfence]
          simp only [hany, hclr, Bool.not_true, Bool.false_eq_true, if_false, if_true, Ctx.withCtx_of_granted hctx']
          rfl) (hh.of_gangs rfl)
      obtain ⟨v, hfl⟩ := hc.fl
      exact ⟨u, hnext, by rw [hfl, if_pos rfl]; exact congrArg _ (c.putQ_ctxs ..)⟩
    | false =>
      obtain ⟨u, k, hnext, hc⟩ := completes_of_done (i := .tlrd f) (t := c.putQ (s.begun c.aid) .q f.d.toNat
          (BitVec.ofNat 64 (x.read (modF f 7 6))))
        rfl hs hu rfl rfl (Ctx.targetsThere_nil rfl) (by
          dsimp only
          rw [Ctx.gated_of_free hfence]
          simp only [hany, hclr, Bool.not_true, Bool.false_eq_true, if_false, Ctx.withCtx_of_granted hctx']
          rfl) hh
      obtain ⟨v, hfl⟩ := hc.fl
      exact ⟨u, hnext, by rw [hfl, if_neg Bool.false_ne_true]; exact c.putQ_ctxs ..⟩

end Sys2Proof.Machine
end

section
/-!
Proofs of FENCE and CHKPT, PREF, and CCTL (R191 to R193, R331).
-/

namespace Sys2Proof.Machine

/-! ### PREF brings lines and changes no value (R192) -/

/-- From `s` to `t` no gang, no block and no byte of memory changes; copies in the wings may. -/
structure State.Brings (s t : State) : Prop where
  gangs : t.gangs = s.gangs
  blocks : t.blocks = s.blocks
  bytes : t.mem.bytes = s.mem.bytes
  units : t.mem.units = s.mem.units
  epochs : t.mem.epochs = s.mem.epochs

section
variable {s t u : State}

theorem State.Brings.refl (s : State) : s.Brings s := ⟨rfl, rfl, rfl, rfl, rfl⟩

theorem State.Brings.trans (a : s.Brings t) (b : t.Brings u) : s.Brings u :=
  ⟨b.gangs.trans a.gangs, b.blocks.trans a.blocks, b.bytes.trans a.bytes, b.units.trans a.units, b.epochs.trans a.epochs⟩

theorem State.brings_dropCopies (s : State) (p : L2Copy → Bool) : s.Brings (s.dropCopies p) := ⟨rfl, rfl, rfl, rfl, rfl⟩

theorem State.brings_choose (s : State) (n : Nat) : s.Brings (s.choose n).2 := ⟨rfl, rfl, rfl, rfl, rfl⟩

theorem State.brings_installCopy (s : State) (wing part key a : Nat) : s.Brings (s.installCopy wing part key a) := by
  unfold State.installCopy
  dsimp only
  split
  · exact s.brings_dropCopies _
  · exact ⟨rfl, rfl, rfl, rfl, rfl⟩

theorem State.brings_prefetch (c : Ctx) (s : State) (kind lane : Nat) : s.Brings (c.prefetch s kind lane) := by
  unfold Ctx.prefetch
  dsimp only
  split
  · exact .refl s
  · split
    · split
      · split
        · exact .refl s
        · split
          · exact s.brings_choose 2
          · split
            · exact (s.brings_choose 2).trans (State.brings_dropCopies _ _)
            · split
              · exact s.brings_choose 2
              · exact (s.brings_choose 2).trans (State.brings_installCopy ..)
      · exact .refl s
    · exact .refl s

theorem State.brings_prefetches (c : Ctx) (kind : Nat) (lanes : List Nat) (s : State) :
    s.Brings (lanes.foldl (fun s l => c.prefetch s kind l) s) := by
  induction lanes generalizing s with
  | nil => exact .refl s
  | cons l lanes ih => exact (s.brings_prefetch c kind l).trans (ih _)

end

/-! ### The registers of a gang whose instruction completes -/

theorem Gang.Ends.getR {g h : Gang} (a : g.Ends h) (r : RFile) (x l : Nat) : h.getR r x l = g.getR r x l := by
  obtain ⟨_, _, _, _, _, _, _, _, _, rfl⟩ := a
  cases r <;> rfl

theorem Ctx.getR_leaves (c : Ctx) (s : State) (rst jumped : Bool) (g : Gang) (r : RFile) (x l : Nat) :
    (c.leaves s rst jumped g).getR r x l = g.getR r x l := by
  have hfold := Gang.ends_foldl (fun h i => h.modSlice i (c.issued jumped)) (fun h i => h.ends_modSlice i _) (c.g.members c.aid.slice) g
  rw [← hfold.getR r x l]
  cases r <;> rfl

theorem Ctx.Completes.getR {c : Ctx} {t u : State} {h k : Gang} (hc : c.Completes t u h k) (r : RFile) (x l : Nat) :
    k.getR r x l = h.getR r x l := by
  obtain ⟨rst, -, hk⟩ := hc.ends
  exact (hk.getR r x l).trans (c.getR_leaves ..)

/-! ### CCTL takes whole lines (R193) -/

/-- The treatment that a CCTL asks for. -/
def Ctx.cctl (c : Ctx) (id : Nat) : CctlOp :=
  { id := id, gang := c.g.id, slice := c.aid.slice, tag := if decide (tokOf c.f < 6) then some c.tag else none, wing := c.wing
    inv := modF c.f 1 0 == 1, lo := (c.A c.low).toNat / 256
    hi := ((c.A c.low).toNat + elem 32 0 (c.B c.low) + 255) / 256, part := c.blk.part }

/-- Its gang counts it on the token that it names (R193). -/
def Ctx.countsCctl (c : Ctx) (s : State) : State :=
  if decide (tokOf c.f < 6) then s.modGang c.g.id (fun g => g.track c (tokOf c.f) 400 [] c.exec) else s

theorem Ctx.Done.countsCctl {c : Ctx} {t : State} {g : Gang} (hd : c.Done t g) : ∃ h, c.Done (c.countsCctl t) h := by
  unfold Ctx.countsCctl
  split
  · exact ⟨_, hd.modGang fun g => g.standing_track ..⟩
  · exact ⟨g, hd⟩

theorem Ctx.countsCctl_mem (c : Ctx) (s : State) : (c.countsCctl s).mem = s.mem := by unfold Ctx.countsCctl; split <;> rfl

theorem Ctx.countsCctl_cctls (c : Ctx) (s : State) : (c.countsCctl s).fl.cctls = s.fl.cctls := by
  unfold Ctx.countsCctl; split <;> rfl

theorem spaceOf_global {a : Nat} (h : a < 2 ^ 56) : spaceOf a = .global a := if_pos h

/-- Settles O31: each begins what it begins, and its agent goes on. -/
theorem fencesAndCache : Obligations.FencesAndCache := by
  intro f
  refine ⟨fun s c hs hu hex hfence => ?fence, fun s c hs hu hex hfence => ?chkpt, fun s c hs hu hfence => ?pref,
    fun s c hs hu hex hfence hend hlow => ?cctl⟩
  case fence =>
    obtain ⟨u, v, hnext, hfl, hframe, -⟩ := completes_apart (i := .fence f)
      (t := c.beginFence (s.begun c.aid) (modF f 1 0) (modF f 4 2) false) rfl hs hu rfl rfl (Ctx.targetsThere_nil rfl)
      (by dsimp only; rw [Ctx.gated_of_free hfence, if_pos (Ctx.any_of_exec hex)]) rfl rfl rfl
    exact ⟨u, hnext, hframe, by rw [hfl]; rfl⟩
  case chkpt =>
    obtain ⟨u, v, hnext, hfl, hframe, -⟩ := completes_apart (i := .chkpt f)
      (t := c.beginFence (s.begun c.aid) 1 4 true) rfl hs hu rfl rfl (Ctx.targetsThere_nil rfl)
      (by dsimp only; rw [Ctx.gated_of_free hfence, if_pos (Ctx.any_of_exec hex)]) rfl rfl rfl
    exact ⟨u, hnext, hframe, by rw [hfl]; rfl⟩
  case pref =>
    have hb := State.brings_prefetches c (modF f 9 8) (lanesOf c.exec) (s.begun c.aid)
    have hd := hs.done_begun hu.toUndisturbed
    obtain ⟨u, k, hnext, hc⟩ := completes_of_done (i := .pref f) rfl hs hu rfl rfl (Ctx.targetsThere_nil rfl)
      (by dsimp only; rw [Ctx.gated_of_free hfence]) (hd.of_gangs hb.gangs)
    refine ⟨u, k, hnext, ?_, ?_, ?_, hc.gang, fun r x l => ?_⟩
    · rw [hc.frame.mem, hb.bytes]; rfl
    · rw [hc.frame.mem, hb.units]; rfl
    · rw [hc.frame.mem, hb.epochs]; rfl
    · rw [hc.getR, Gang.getR_modAgent]
  case cctl =>
    obtain ⟨-, -, -, -, -, hf, -⟩ := hs.spec
    obtain ⟨h, hd⟩ := (hs.done_begun hu.toUndisturbed).of_gangs (u := { s.begun c.aid with fresh := s.fresh + 1 }) rfl |>.countsCctl
    have hspace := spaceOf_global hlow
    obtain ⟨u, k, hnext, hc⟩ := completes_of_done (i := .cctl f)
      (t := { c.countsCctl { s.begun c.aid with fresh := s.fresh + 1 } with
        fl := { (c.countsCctl { s.begun c.aid with fresh := s.fresh + 1 }).fl with
          cctls := (c.countsCctl { s.begun c.aid with fresh := s.fresh + 1 }).fl.cctls ++ [c.cctl s.fresh] } })
      rfl hs hu rfl rfl (Ctx.targetsThere_nil rfl) (by
        dsimp only
        rw [Ctx.gated_of_free hfence]
        simp only [Ctx.any_of_exec hex, Bool.not_true, Bool.false_eq_true, if_false, hspace, Nat.not_lt.2 hend]
        rw [← hf]
        rfl) (hd.of_gangs rfl)
    obtain ⟨v, hfl⟩ := hc.fl
    refine ⟨u, c.cctl s.fresh, hnext, ?_, rfl, rfl, by rw [← hf]; rfl, ?_⟩
    · rw [hfl]; exact congrArg (· ++ [c.cctl s.fresh]) (c.countsCctl_cctls _)
    · rw [hc.frame.mem]; exact c.countsCctl_mem _

end Sys2Proof.Machine
end

section
/-!
Proof of ULD (R137): one relaxed load of the agent, from its issue to its operation.
-/

namespace Sys2Proof.Machine

section
variable {s t : State} {c : Ctx} {x : Access} {h : Gang} {id : Nat} {o : MemOp}

/-! ### A new operation -/

/-- The operation that an access begins (R41, R184). -/
def Ctx.newOp (c : Ctx) (x : Access) (id : Nat) : MemOp :=
  { id := id, gang := c.g.id, slice := c.aid.slice, kind := x.kind, bytes := min 8 x.bytes, ord := x.ord
    token := c.e.tok != .no && decide (tokOf c.f < 6), file := x.file, dest := x.dest, elts := [], parked := true, at_ := c.tag
    issued := c.now, banks := 1 }

theorem State.op?_addOp (hn : ∀ p ∈ s.fl.ops, p.id < id) (ho : o.id = id) : (s.addOp o).op? id = some o := by
  have hnone : s.fl.ops.find? (fun o => o.id == id) = none :=
    List.find?_eq_none.2 fun o ho => by simpa using Nat.ne_of_lt (hn o ho)
  show (s.fl.ops ++ [o]).find? _ = _
  rw [List.find?_append, hnone, ← ho]
  simp

theorem State.op?_modOp {f : MemOp → MemOp} (hf : ∀ o, (f o).id = o.id) : (s.modOp id f).op? id = (s.op? id).map f := by
  show (mapWhere (fun o => o.id == id) f s.fl.ops).find? _ = _
  rw [find?_mapWhere _ _ _ _ fun o _ => by rw [hf]]
  unfold State.op?
  cases ho : s.fl.ops.find? (fun o => o.id == id) with
  | none => rfl
  | some o => rw [Option.map_some, Option.map_some, if_pos (List.find?_some ho)]

/-- An operation with elements to come is not done. -/
theorem State.opDone_of_pending (ho : s.op? id = some o) (he : o.elts ≠ []) (hk : (o.kind == .store) = false) : s.opDone id = s := by
  unfold State.opDone
  rw [ho]
  simp [he, hk]

theorem Ctx.opFor_new (c : Ctx) (s : State) (x : Access) (lanes : List Nat) :
    (c.opFor s x lanes none).1 = s.fresh ∧
      (c.opFor s x lanes none).2.fl = ({ s with fresh := s.fresh + 1 }.addOp (c.newOp x s.fresh)).fl ∧
      (c.opFor s x lanes none).2.mem = s.mem := by
  unfold Ctx.opFor
  dsimp only [Option.bind_none]
  refine ⟨rfl, ?_, ?_⟩
  · split <;> rfl
  · split <;> rfl

theorem Ctx.Done.opFor (hd : c.Done s h) (lanes : List Nat) : ∃ k, c.Done (c.opFor s x lanes none).2 k := by
  unfold Ctx.opFor
  dsimp only [Option.bind_none]
  split
  · exact ⟨_, (hd.of_gangs (u := { s with fresh := s.fresh + 1 }.addOp (c.newOp x s.fresh)) rfl).modGang
      fun g => g.standing_track ..⟩
  · exact ⟨_, hd.of_gangs rfl⟩

/-! ### A load at a good place -/

theorem Access.cleanStack_load {sx : Bool} (hk : x.kind = .load sx) (s : State) (gid : Nat) (l : List (Nat × Place)) :
    x.cleanStack s gid l = s := by
  unfold Access.cleanStack
  rw [hk]
  induction l with
  | nil => rfl
  | cons p l ih => exact ih

theorem Access.stackStores_load {sx : Bool} (hk : x.kind = .load sx) (g : Gang) (l : List (Nat × Place)) : x.stackStores g l = g := by
  unfold Access.stackStores
  rw [hk]
  induction l with
  | nil => rfl
  | cons p l ih => exact ih

/-- The first element of a lane's access stands at the lane's address. -/
theorem Access.exists_elt (x : Access) (g : Gang) (bad : Nat → Nat → Bool) (lane : Nat) (p : Place) :
    ∃ e ∈ x.elts g bad lane p, e.addr = x.addr lane := by
  unfold Access.elts
  dsimp only
  split
  · exact ⟨_, List.mem_cons_self, rfl⟩
  · exact ⟨_, List.mem_cons_self, rfl⟩

/-- The elements that a load of the agent has on its way. -/
def Access.agentElts (x : Access) (c : Ctx) (s : State) (p : Place) : List Elt :=
  x.pending c.g (fun l o => s.backingBad c.g.id l o (min 8 x.bytes)) [(0, p)]

theorem Access.exists_agentElt {sx : Bool} (hk : x.kind = .load sx) (c : Ctx) (s : State) (p : Place) :
    ∃ e ∈ x.agentElts c s p, e.addr = x.addr 0 := by
  unfold Access.agentElts Access.pending
  rw [hk, List.flatMap_cons, List.flatMap_nil, List.append_nil]
  exact x.exists_elt ..

def MemOp.filled (o : MemOp) (now : Nat) (new : List Elt) : MemOp :=
  { o with elts := o.elts ++ new, issued := now, banks := bankCycles o.bytes new }

def MemOp.unparked (o : MemOp) : MemOp := { o with parked := false }

/-- What a load of the agent leaves, its element at a place. -/
def Ctx.loads (c : Ctx) (s : State) (x : Access) (p : Place) : State :=
  (((c.opFor s x [0] none).2.modGang c.g.id (fun g => x.stackStores g [(0, p)])).modOp s.fresh
    (·.filled c.now (x.agentElts c s p))).modOp s.fresh (·.unparked)

theorem Ctx.loads_op? (hn : s.numbered) (p : Place) : (c.loads s x p).op? s.fresh =
    some ((c.newOp x s.fresh).filled c.now (x.agentElts c s p)).unparked := by
  obtain ⟨hid, hfl, hmem⟩ := c.opFor_new s x [0]
  have hnew : (c.opFor s x [0] none).2.op? s.fresh = some (c.newOp x s.fresh) := by
    show (c.opFor s x [0] none).2.fl.ops.find? _ = _
    rw [hfl]
    exact State.op?_addOp (s := { s with fresh := s.fresh + 1 }) hn rfl
  unfold Ctx.loads
  rw [State.op?_modOp (f := (·.unparked)) fun _ => rfl, State.op?_modOp (f := (·.filled c.now (x.agentElts c s p))) fun _ => rfl]
  exact congrArg (fun o => Option.map _ (Option.map _ o)) hnew

theorem Ctx.Done.loads {sx : Bool} (hk : x.kind = .load sx) (hd : c.Done s h) (p : Place) : ∃ k, c.Done (c.loads s x p) k := by
  obtain ⟨k, hk'⟩ := hd.opFor (x := x) [0]
  have hstore := hk'.modGang (f := fun g => x.stackStores g [(0, p)]) fun g => by rw [Access.stackStores_load hk]
  exact ⟨_, hstore.of_gangs rfl⟩

/-- A load of the agent at a good place is on its way. -/
theorem Ctx.access_agent {sx : Bool} {p : Place} (hany : c.any = true) (hpark : s.parkOf c.aid = none) (hagent : x.agent = true)
    (hk : x.kind = .load sx) (hperm : x.perm = 0) (hn : s.numbered)
    (hcheck : stepOne c.hdr true x.bytes x.bytes [(0, x.addr 0)] = none) (hp : c.locate s x 0 = .at_ p) :
    c.access x s = .done (c.loads s x p) := by
  have hdone : (c.loads s x p).opDone s.fresh = c.loads s x p := by
    obtain ⟨e, he, -⟩ := x.exists_agentElt hk c s p
    exact State.opDone_of_pending (Ctx.loads_op? hn p) (List.ne_nil_of_mem (a := e) he)
      (show (x.kind == .store) = false by rw [hk]; rfl)
  have hid := (c.opFor_new s x [0]).1
  unfold Ctx.access
  simp [hagent, hany, hpark, Access.again, hcheck, hperm, hp, Access.cleanStack_load hk, hid]
  exact hdone

end

/-- The load of a ULD (R137). -/
def Ctx.uniLoad (c : Ctx) (f : Fields) : Access :=
  { kind := .load (modBit f 11), bytes := bytesOf f, ord := 0, perm := 0, agent := true, file := .q
    dest := f.d.toNat, addr := fun _ => c.addrOf (sext 11 (modF f 10 0)) 0, data := fun _ => 0, cmp := fun _ => 0 }

/-- An address that passes the checks of an agent's load lies in a mapped page or in the scratchpad. -/
theorem Ctx.exists_place {c : Ctx} {s : State} {x : Access} {n : Nat} (hperm : x.perm = 0)
    (hcheck : stepOne c.hdr true n n [(0, x.addr 0)] = none)
    (hpage : ∀ v, spaceOf (x.addr 0) = .global v → ∃ p k, s.translate c.blk.part v 0 = .ok p k) : ∃ p, c.locate s x 0 = .at_ p := by
  unfold Ctx.locate
  cases hspace : spaceOf (x.addr 0) with
  | global v =>
    obtain ⟨p, k, htr⟩ := hpage v hspace
    exact ⟨.phys p k, by simp only [hperm, htr]⟩
  | scratch o => exact ⟨.scratch o, rfl⟩
  | stack o => exact absurd hcheck (by simp [stepOne, addrCause, hspace])
  | nowhere => exact absurd hcheck (by simp [stepOne, addrCause, hspace])

/-- Settles O30: the load is the operation that `Ctx.loads` opens. -/
theorem uniformLoadIssues : Obligations.UniformLoadIssues := by
  intro f s c hs hu hex hn b a hfence hcheck hpage
  have hany := Ctx.any_of_exec hex
  obtain ⟨p, hp⟩ := Ctx.exists_place (s := b) (x := c.uniLoad f) rfl hcheck hpage
  have hrun := Ctx.access_agent (s := b) (x := c.uniLoad f) hany hu.noPark rfl rfl rfl hn hcheck hp
  obtain ⟨h, hd⟩ := (hs.done_begun hu.toUndisturbed).loads (x := c.uniLoad f) rfl p
  obtain ⟨u, k, hnext, hc⟩ := completes_of_done (i := .uld f) rfl hs hu rfl rfl (Ctx.targetsThere_nil rfl)
    ((Ctx.gated_of_free hfence _).trans hrun) hd
  obtain ⟨v, hfl⟩ := hc.fl
  obtain ⟨e, he, haddr⟩ := (c.uniLoad f).exists_agentElt rfl c b p
  refine ⟨u, ((c.newOp (c.uniLoad f) s.fresh).filled c.now ((c.uniLoad f).agentElts c b p)).unparked, e, hnext, ?_, rfl, rfl, rfl, rfl, rfl, he, haddr, ?_⟩
  · rw [hfl]; exact List.mem_of_find?_eq_some (Ctx.loads_op? (s := b) hn p)
  · rw [hc.frame.mem]; exact (c.opFor_new b (c.uniLoad f) [0]).2.2

end Sys2Proof.Machine
end

section
/-!
Proofs of the MTX instructions that hand work to the matrix engine (R142 to R146, R151 to R157, R162 to R166).
-/

namespace Sys2Proof.Machine

section
variable {s t : State} {c : Ctx} {f : Fields} {b : Body} {i : Instr} {op : Nat}

/-! ### The engine's queue (R142) -/

theorem Ctx.queued_cons (c : Ctx) (s : State) (x : Nat × List (Nat × Nat) × MxOp) (l : List (Nat × List (Nat × Nat) × MxOp)) :
    c.queued s (x :: l) = c.job s.fresh x.1 x.2.1 x.2.2 :: c.queued { s with fresh := s.fresh + jobIds } l := by
  unfold Ctx.queued
  rw [List.length_cons, List.range_succ_eq_map, List.zip_cons_cons, List.map_cons, List.zip_map_left, List.map_map]
  refine congrArg (_ :: ·) (List.map_congr_left fun p _ => ?_)
  have hid : s.fresh + jobIds * (p.1 + 1) = s.fresh + jobIds + jobIds * p.1 := by rw [Nat.mul_succ]; omega
  exact congrArg (fun n => c.job n p.2.1 p.2.2.1 p.2.2.2) hid

/-- The state in which the engine has taken an instruction's jobs. -/
def Ctx.hands (c : Ctx) (s : State) (l : List (Nat × List (Nat × Nat) × MxOp)) : State :=
  { s with fresh := s.fresh + jobIds * l.length, fl := { s.fl with jobs := s.fl.jobs ++ c.queued s l } }

theorem Ctx.hands_fold (c : Ctx) (l : List (Nat × List (Nat × Nat) × MxOp)) (s : State) :
    l.foldl (fun s x => { s.newId.2 with fresh := s.newId.1 + jobIds, fl := { s.newId.2.fl with
      jobs := s.newId.2.fl.jobs ++ [c.job s.newId.1 x.1 x.2.1 x.2.2] } }) s = c.hands s l := by
  induction l generalizing s with
  | nil => simp [Ctx.hands, Ctx.queued]
  | cons x l ih =>
    rw [List.foldl_cons, ih]
    simp only [Ctx.hands, Ctx.queued_cons, State.newId, List.append_assoc, List.singleton_append, List.length_cons, Nat.mul_succ,
      Nat.add_assoc, Nat.add_comm jobIds]
    rfl

/-- All entries are taken together where there is room. -/
theorem Ctx.accept_of_room (l : List (Nat × List (Nat × Nat) × MxOp)) (k : State → Res)
    (h : s.mxRoom c.blk.cluster (l.foldl (fun m x => m + max 1 x.2.1.length) 0) = true) : c.accept s l k = k (c.hands s l) := by
  unfold Ctx.accept
  dsimp only
  rw [h]
  exact congrArg k (c.hands_fold l s)

/-! ### Operands that pass (R144, R145, R160) -/

/-- Nothing of an MTX instruction's operands is refused. -/
structure Ctx.OperandsPass (c : Ctx) (s : State) (spans : List Span) : Prop where
  any : c.any = true
  noPark : s.parkOf c.aid = none
  check : c.spanCheck s spans = none
  pages : ∀ x ∈ spans, c.spanXlat s x = none

theorem Ctx.OperandsPass.notNone {spans : List Span} (h : c.OperandsPass s spans) : ¬ (!c.any) = true := by
  rw [h.any]; decide

theorem Ctx.OperandsPass.quarters {spans : List Span} (h : c.OperandsPass s spans) (l : List (Nat × List (Nat × Nat) × MxOp)) :
    c.quarters s spans l = c.accept s l .done := by
  have hbad : spans.filterMap (fun x => (c.spanXlat s x).map (fun t => (x, t))) = [] :=
    List.filterMap_eq_nil_iff.2 fun x hx => by rw [h.pages x hx]; rfl
  unfold Ctx.quarters Ctx.pages Ctx.translated
  simp only [h.any, h.noPark, h.check, hbad]
  rfl

theorem Ctx.mtx_of_format {cause : Nat} (h : c.engineThere) (hcause : cause = 0) (s : State) (k : State → Res) :
    c.mtx s cause k = k s := by
  rw [hcause]; exact Ctx.mtx_of_there h s k

/-! ### What an MTX instruction hands over -/

/-- An MTX instruction that comes to its entries hands them to the engine. -/
theorem engineTakes_of_accepts {cause : Ctx → Nat} {late : Ctx → Bool} {fence : Bool} {spans : Ctx → List Span}
    {jobs : Ctx → List (Nat × List (Nat × Nat) × MxOp)} (hi : ∀ s, exec i s = issueOp 3 op f b s)
    (hlate : ∀ c s, c.f = f → b.late c s = late c) (hmore : ∀ c, b.more c = []) (ht : ∀ c s, b.target c s = none) (hx : b.unassigned = none)
    (hw : ∀ (c : Ctx) s, c.targetsThere b s)
    (hrun : ∀ c s, c.f = f → c.engineThere → cause c = 0 → (fence = true → s.fenced c.g.id c.aid.slice = false) →
      c.OperandsPass s (spans c) → b.run c s = c.accept s (jobs c) .done) :
    EngineTakes i op f cause late fence spans jobs (fun s _ => s) := by
  intro s c hs hu hthere hcause hex b' hfence hcheck hpages hroom
  obtain ⟨-, -, -, -, -, hf, -⟩ := hs.spec
  have hacc := hrun c b' hf hthere hcause hfence ⟨Ctx.any_of_exec hex, hu.noPark, hcheck, hpages⟩
  obtain ⟨u, v, hnext, hfl, hframe, hgo⟩ := completes_apart (hi s) hs (by rw [hlate _ _ hf, hmore]; exact hu) (ht c _) hx (hw c _)
    (hacc.trans (Ctx.accept_of_room _ _ hroom)) rfl rfl rfl
  exact ⟨u, hnext, by rw [hfl]; rfl, hframe, hgo⟩

end

/-- The entry of an ACRD (R155). -/
def Ctx.acrdJobs (c : Ctx) : List (Nat × List (Nat × Nat) × MxOp) :=
  [(c.f.a.toNat, [(c.f.a.toNat, modF c.f 7 3 / 8)], .acrd c.f.d.toNat c.f.b.toNat (modF c.f 7 3) (modF c.f 11 8) c.f.sat (tokOf c.f))]

/-- Settles O35: each MTX instruction comes to the queue with its entries. -/
theorem engineWork : Obligations.EngineWork := by
  intro f
  refine ⟨?mma, ?mzero, ?acld, ?acst, ?acrd, ?acwr, ?plane, ?mpoly, ?miter⟩
  case mma =>
    refine engineTakes_of_accepts (fun s => rfl) (fun _ _ _ => rfl) (fun _ => rfl) (fun _ _ => rfl) rfl
      (fun _ _ => Ctx.targetsThere_nil rfl) fun c s hf hthere hcause _ hpass => ?_
    subst hf
    dsimp only
    rw [Ctx.mtx_of_format hthere hcause, hpass.quarters]
    rfl
  case mzero =>
    refine engineTakes_of_accepts (fun s => rfl) (fun _ _ _ => rfl) (fun _ => rfl) (fun _ _ => rfl) rfl
      (fun _ _ => Ctx.targetsThere_nil rfl) fun c s hf hthere hcause _ hpass => ?_
    subst hf
    dsimp only
    rw [Ctx.mtx_of_format hthere hcause, hpass.quarters]
  case acld =>
    refine engineTakes_of_accepts (fun s => rfl) (fun _ _ _ => rfl) (fun _ => rfl) (fun _ _ => rfl) rfl
      (fun _ _ => Ctx.targetsThere_nil rfl) fun c s hf hthere hcause _ hpass => ?_
    subst hf
    dsimp only
    rw [Ctx.mtx_of_format hthere hcause, hpass.quarters]
    rfl
  case acst =>
    refine engineTakes_of_accepts (fun s => rfl) (fun _ _ _ => rfl) (fun _ => rfl) (fun _ _ => rfl) rfl
      (fun _ _ => Ctx.targetsThere_nil rfl) fun c s hf hthere hcause hfence hpass => ?_
    subst hf
    dsimp only
    rw [Ctx.mtx_of_format hthere hcause, Ctx.gated_of_free (hfence rfl), hpass.quarters]
    rfl
  case acrd =>
    intro s c hs hu hthere hcause hex b _ hcheck hpages hroom
    obtain ⟨-, -, -, -, -, hf, -⟩ := hs.spec
    subst hf
    have hrun : c.mtx b (c.fmtCause (modF c.f 11 8)) (fun s => if !c.any then .done s else c.accept s c.acrdJobs
        fun s => .done (s.modGang c.g.id (fun g => g.track c (tokOf c.f) 32 (acrdRegs c.f) c.exec))) =
        .done ((c.hands b c.acrdJobs).modGang c.g.id (fun g => g.track c (tokOf c.f) 32 (acrdRegs c.f) c.exec)) := by
      rw [Ctx.mtx_of_format hthere hcause b, if_neg (by rw [Ctx.any_of_exec hex]; decide)]
      exact Ctx.accept_of_room c.acrdJobs _ hroom
    obtain ⟨u, v, hnext, hfl, hframe, hgo⟩ := completes_beside (i := .acrd c.f) (aside_track c (tokOf c.f) 32 (acrdRegs c.f) c.exec)
      (fun g => g.standing_track ..) rfl hs hu rfl rfl (Ctx.targetsThere_nil rfl) hrun rfl rfl rfl
    exact ⟨u, hnext, by rw [hfl]; rfl, hframe, hgo⟩
  case acwr =>
    refine engineTakes_of_accepts (fun s => rfl) (fun _ _ _ => rfl) (fun _ => rfl) (fun _ _ => rfl) rfl
      (fun _ _ => Ctx.targetsThere_nil rfl) fun c s hf hthere hcause _ hpass => ?_
    subst hf
    dsimp only
    rw [Ctx.mtx_of_format hthere hcause, if_neg hpass.notNone]
  case plane =>
    refine engineTakes_of_accepts (fun s => rfl) (fun _ _ _ => rfl) (fun _ => rfl) (fun _ _ => rfl) rfl
      (fun _ _ => Ctx.targetsThere_nil rfl) fun c s hf hthere hcause hfence hpass => ?_
    subst hf
    dsimp only
    rw [Ctx.mtx_of_format hthere hcause, Ctx.gated_of_free (hfence rfl), hpass.quarters]
    rw [Ctx.planeJobs, List.map_map]
    rfl
  case mpoly =>
    refine engineTakes_of_accepts (fun s => rfl) (fun _ _ _ => rfl) (fun _ => rfl) (fun _ _ => rfl) rfl
      (fun _ _ => Ctx.targetsThere_nil rfl) fun c s hf hthere hcause _ hpass => ?_
    subst hf
    dsimp only
    rw [Ctx.mtx_of_format hthere hcause, if_neg hpass.notNone]
    rfl
  case miter =>
    refine engineTakes_of_accepts (fun s => rfl) (fun _ _ hf => by subst hf; rfl) (fun _ => rfl) (fun _ _ => rfl) rfl
      (fun _ _ => Ctx.targetsThere_nil rfl) fun c s hf hthere hcause _ hpass => ?_
    subst hf
    dsimp only
    rw [Ctx.mtx_of_format hthere hcause, if_neg hpass.notNone]
    rfl

end Sys2Proof.Machine
end

section
/-!
Proofs of TRAP, which parks its agent for the supervisor (R327), and of what traps at its issue with nothing done (R158, R159, R181, R182,
R247, R316, R324, R328).
-/

namespace Sys2Proof.Machine

section
variable {s t u : State} {cls op : Nat} {f : Fields} {c : Ctx} {b : Body} {g h : Gang} {i : Instr}
variable {W : Nat → RFile → Nat → Nat → Prop} {T : Nat → Prop}

/-! ### An issue whose end checks all pass writes no trap register -/

/-- A gang replaced by one with the same registers. -/
theorem Frame.putGang {n : Nat} (hg : s.gang? n = some g) (hs : Gang.Same T g h) : Frame W T s (s.modGang n (fun _ => h)) where
  gangs j k hk := by
    have hid := State.gang?_id hg
    have hlook : (s.modGang n (fun _ => h)).gang? j = some (if k.id = n then h else k) := by
      show (mapWhere _ _ s.gangs).find? _ = _
      rw [find?_mapWhere _ _ _ _ fun x hx => by rw [hs.id, hid, beq_iff_eq.1 hx]]
      rw [show s.gangs.find? (fun g => g.id == j) = some k from hk]
      simp
    refine ⟨_, hlook, ?_⟩
    split
    next hn =>
      obtain rfl : k = g := by
        have hj : j = n := (State.gang?_id hk).symm.trans hn
        rw [hj, hg] at hk
        exact (Option.some.inj hk).symm
      exact ⟨hs.rest, hs.regs, fun r x l _ _ => hs.getR r x l⟩
    next => exact ⟨rfl, .inl rfl, fun _ _ _ _ _ => rfl⟩
  blocks j b hb := ⟨b, hb, rfl⟩
  mem := rfl

theorem Frame.finish_passing {rst jumped : Bool} (hid : c.g.id = c.aid.gang) (hg : u.gang? c.g.id = some h) (ha : h.LanesAs c)
    (hok : ∀ i ∈ c.g.members c.aid.slice, ∀ x, h.slice? i = some x → (c.issued jumped x).passesEnd c.g.live) :
    Frame W T u (u.finish c rst jumped) := by
  obtain ⟨-, hn, he, hd, hs⟩ := c.leaves_spec u rst jumped h
  have hka : (c.leaves u rst jumped h).LanesAs c := ⟨hn.trans ha.nslices, he.trans ha.exited, hd.trans ha.dead⟩
  have hok' : ∀ i ∈ (c.leaves u rst jumped h).members c.aid.slice, ∀ x, (c.leaves u rst jumped h).slice? i = some x →
      x.active &&& (c.leaves u rst jumped h).live ≠ 0 → x.atEnd = true → x.endClause.isSome = true := by
    rw [hka.members, hka.live]
    intro i hi x hx
    rw [hs, if_pos hi] at hx
    obtain ⟨y, hy, rfl⟩ := Option.map_eq_some_iff.1 hx
    exact hok i hi y hy
  obtain ⟨m, hm, -, -⟩ := Gang.endClauses_some _ c.aid.slice hok'
  have hleaves : ∀ g, Gang.Same T g (c.leaves u rst jumped g) := fun g =>
    (Gang.same_foldl _ (fun h i => h.same_modSlice i (c.issued jumped)) _ g).trans ⟨rfl, rfl, .inl rfl, rfl, rfl, rfl, rfl, rfl⟩
  unfold State.finish
  extract_lets s1 s2
  have h1 : s1.gang? c.g.id = some (c.leaves u rst jumped h) := by
    show (State.modGang _ _ _).gang? _ = _
    rw [State.gang?_modGang_same fun g => (hleaves g).id]
    split <;> exact congrArg (Option.map _) hg
  have hb : Frame W T u s2 := by
    refine Frame.trans (t := s1) ?_ (Frame.trans (t := { s1 with choice := s1.choice + 1 }) (.of_eq rfl rfl rfl) ?_)
    · refine Frame.trans (t := if u.errs.poison = [] then u else u.clearPoison c.cleans) ?_ (Frame.modGang hleaves)
      split
      · exact .refl u
      · exact Frame.clearPoison _
    · show Frame W T _ (State.endBodies _ _)
      unfold State.endBodies
      rw [← hid, show State.gang? { s1 with choice := s1.choice + 1 } c.g.id = some _ from h1]
      dsimp only
      rw [hm]
      have hn : (c.leaves u rst jumped h).id = c.g.id := State.gang?_id h1
      dsimp only
      rw [hn]
      exact Frame.putGang (s := { s1 with choice := s1.choice + 1 }) h1 ((Gang.same_endClauses hm).trans (Gang.same_repart m))
  split
  · exact hb
  · exact hb.trans (Frame.endTurn _ _)

/-- A slice without an open loop passes its end check. -/
theorem passesEnd_of_no_loops {jumped : Bool} {x : Slice} {live : Mask} (h : x.loops = []) : (c.issued jumped x).passesEnd live := by
  obtain ⟨-, -, hl, -⟩ := c.issued_spec jumped x
  intro _ _
  unfold Slice.endClause
  rw [hl, h]
  rfl

theorem issued_ended_hold {jumped : Bool} (x : Slice) (live : Mask) : ((c.issued jumped x).ended live).hold = x.hold := by
  obtain ⟨-, -, -, -, h5, -⟩ := c.issued_spec jumped x
  rw [← h5]
  unfold Slice.ended
  split
  · unfold Slice.endClause
    split <;> rfl
  · rfl

/-- The agent's slices held for something that has issued. -/
theorem Ctx.Done.holds (hd : c.Done t g) (w : Hold) :
    ∃ h, (t.modGang c.g.id (fun g => g.modAgent c.aid.slice (fun x => { x with hold := w }))).gang? c.g.id = some h ∧ h.LanesAs c ∧
      ∀ i ∈ c.g.members c.aid.slice, h.slice? i = (c.g.slice? i).map (fun x => { x with hold := w }) := by
  obtain ⟨hn, he, hdead⟩ := g.lanes_foldl (fun x => { x with hold := w }) (g.members c.aid.slice)
  have hg : g.LanesAs c := ⟨hd.stands.nslices, hd.stands.exited, hd.stands.dead⟩
  refine ⟨g.modAgent c.aid.slice (fun x => { x with hold := w }), ?_, ⟨hn.trans hg.nslices, he.trans hg.exited, hdead.trans hg.dead⟩,
    fun i hi => ?_⟩
  · rw [State.gang?_modGang_same fun g => (g.same_modAgent (T := fun _ => False) _ _).id, hd.gang]; rfl
  · rw [Gang.slice?_modAgent, hg.members, if_pos hi, hd.stands.slices i hi, Option.map_map]; rfl

end

/-- Settles O39: the agent's slices hold the call's number past their end checks, which slices without loops pass. -/
theorem supervisorCalls : Obligations.SupervisorCalls := by
  intro f s c hs hu hex hloops
  obtain ⟨-, hid, -⟩ := hs.spec
  have hany := Ctx.any_of_exec hex
  have hd := (hs.done_begun hu.toUndisturbed).modGang (f := fun g => { g with se := true }) fun _ => rfl
  obtain ⟨e, hnext⟩ : ∃ e, exec (.trap f) s = .next { State.finish (((s.begun c.aid).modGang c.g.id (fun g => { g with se := true })).modGang
      c.g.id (fun g => g.modAgent c.aid.slice (fun x => { x with hold := .call f.mod.toNat c.pc }))) c false false with errs := e } :=
    issueOp_completes hs hu rfl rfl (Ctx.targetsThere_nil rfl) (by
      simp only [hany, Ctx.markSe_of_any hany, Bool.not_true, Bool.false_eq_true, if_false])
  obtain ⟨h, hh, hlanes, hslice⟩ := hd.holds (.call f.mod.toNat c.pc)
  have hok : ∀ i ∈ c.g.members c.aid.slice, ∀ x, h.slice? i = some x → (c.issued false x).passesEnd c.g.live := by
    intro i hi x hx
    rw [hslice i hi] at hx
    obtain ⟨y, hy, rfl⟩ := Option.map_eq_some_iff.1 hx
    by_cases hr : i ∈ c.running.map (·.1)
    · obtain ⟨q, hq, rfl⟩ := List.mem_map.1 hr
      obtain rfl : q.2 = y := Option.some.inj ((Ctx.mem_running.1 hq).2.1.symm.trans hy)
      exact passesEnd_of_no_loops (hloops q hq)
    · exact Ctx.passesEnd_of_not_running false hi hy hr rfl
  obtain ⟨w, hw, -, hin, -⟩ := finish_slices (rst := false) (jumped := false) hid hh hlanes hok
  refine ⟨_, w, hnext, hw, fun q hq => ?_, ?_⟩
  · obtain ⟨hm, hy, -⟩ := Ctx.mem_running.1 hq
    exact ⟨_, by rw [hin q.1 hm, hslice q.1 hm, hy]; rfl, issued_ended_hold _ _⟩
  · rw [Ctx.markSe_of_any hany]
    exact (((Frame.begun s c.aid).aside aside_se).trans (Frame.modGang fun g => g.same_modAgent ..)).trans
      ((Frame.finish_passing hid hh hlanes hok).trans (.of_eq rfl rfl rfl))

/-! ### What traps at its issue with nothing done (R158, R247, R316, R328) -/

section
variable {s : State} {cls op : Nat} {f : Fields} {c : Ctx} {b : Body} {i : Instr}

theorem traps_of_run {tr : Trap} (hi : exec i s = issueOp cls op f b s) (hs : Sees s cls op f c) (hu : c.Unhindered s false [])
    (hbar : c.barred = false) (hlate : b.late c (s.begun c.aid) = false) (hmore : b.more c = [])
    (ht : b.target c (s.begun c.aid) = none) (hx : b.unassigned = none) (hw : c.targetsThere b (s.begun c.aid))
    (hr : b.run c (s.begun c.aid) = .trap (s.begun c.aid) tr c.lim) : exec i s = .next ((s.begun c.aid).takeTrap c.aid tr c.lim) :=
  hi.trans (issueOp_trap hs (by rw [hlate, hmore]; exact hu) ht hx hw hbar hr hu.clean)

/-- In another agent's handler the agent of an instruction that would trap is held at it (R324). -/
theorem held_of_barred {tr : Trap} (hi : exec i s = issueOp cls op f b s) (hs : Sees s cls op f c) (hu : c.Unhindered s false [])
    (hbar : c.barred = true) (hlate : b.late c (s.begun c.aid) = false) (hmore : b.more c = [])
    (ht : b.target c (s.begun c.aid) = none) (hx : b.unassigned = none) (hw : c.targetsThere b (s.begun c.aid))
    (hr : b.run c (s.begun c.aid) = .trap (s.begun c.aid) tr c.lim) :
    ∃ t g, exec i s = .next t ∧ t.gang? c.g.id = some g ∧ Frame nothing (fun _ => False) s t ∧
      c.g.become g c.aid.slice (fun _ x y => y.hold = .handler ∧ y.point = x.point ∧ y.active = x.active) := by
  have hu' : c.Unhindered s (b.late c (s.begun c.aid)) (b.more c) := by rw [hlate, hmore]; exact hu
  have hres : c.result b (s.begun c.aid) = .hold (s.begun c.aid) .handler :=
    (congrArg (c.barring (s.begun c.aid)) ((hu'.outcome ht hx hw).trans hr)).trans (by unfold Ctx.barring; rw [hbar]; rfl)
  have hcon : c.conclude b (c.result b (s.begun c.aid)) = State.held c (s.begun c.aid) .handler := by rw [hres]; rfl
  obtain ⟨k, hk, hframe, hall⟩ := held_spec (w := .handler) rfl hs.begun_gang (Gang.members_modAgent ..)
  refine ⟨State.held c (s.begun c.aid) .handler, k, ?_, hk, (Frame.begun s c.aid).trans hframe, fun j hj x hx => ?_⟩
  · rw [hi, issueOp_plain hs hu.kind hu.alone (by rw [hcon]; exact hu.clean), hcon]
  · obtain ⟨y, hy, hhold, hpt, hact⟩ := hall j hj _ ((Gang.slice?_modAgent ..).trans (by rw [if_pos hj, hx]; rfl))
    exact ⟨y, hy, hhold, hpt, hact⟩

/-- Without an engine an MTX instruction comes no further (R158). -/
theorem Ctx.mtx_absent {aux : Nat} (h : c.absent = some aux) (s : State) (cause : Nat) (k : State → Res) :
    c.mtx s cause k = c.raise s 0x17 aux := by
  unfold Ctx.mtx; rw [h]

/-- An MTX instruction without an engine traps whatever its own part is (R158, R159). -/
theorem traps_of_absent {aux : Nat} (hi : exec i s = issueOp 3 op f b s) (hs : Sees s 3 op f c)
    (hu : c.Unhindered s false []) (hbar : c.barred = false)
    (hlate : b.late c (s.begun c.aid) = false) (hmore : b.more c = []) (ht : b.target c (s.begun c.aid) = none)
    (hx : b.unassigned = none) (hw : c.targetsThere b (s.begun c.aid)) (hr : b.run c (s.begun c.aid) = c.raise (s.begun c.aid) 0x17 aux) :
    exec i s = .next ((s.begun c.aid).takeTrap c.aid ⟨0x17, c.pc, c.act, 0, aux⟩ c.lim) :=
  traps_of_run hi hs hu hbar hlate hmore ht hx hw hr

theorem absentTraps {aux : Nat} {p : Instr × Nat} (hp : p ∈ ([(.mma f, 0x01), (.mzero f, 0x02), (.acld f, 0x03), (.acst f, 0x04),
      (.acrd f, 0x05), (.acwr f, 0x06), (.plane f, 0x07), (.mcoef f, 0x10), (.mpoly f, 0x11), (.miter f, 0x12), (.mnorm f, 0x13),
      (.mistat f, 0x14)] : List (Instr × Nat))) (hs : Sees s 3 p.2 f c) (hcap : p.2 = 0x12 → f.bq = true → (c.B 0).toNat < 2 ^ 16)
    (hu : c.Unhindered s false []) (hbar : c.barred = false) (habs : c.absent = some aux) :
    exec p.1 s = .next ((s.begun c.aid).takeTrap c.aid ⟨0x17, c.pc, c.act, 0, aux⟩ c.lim) := by
  have hlate : (f.bq && decide (2 ^ 16 ≤ (c.B 0).toNat)) = false ∨ p.2 ≠ 0x12 := by
    by_cases h : p.2 = 0x12
    · left
      cases hq : f.bq with
      | false => rfl
      | true => exact decide_eq_false (Nat.not_le.2 (hcap h hq))
    · exact .inr h
  simp only [List.mem_cons, List.not_mem_nil, or_false] at hp
  rcases hp with rfl | rfl | rfl | rfl | rfl | rfl | rfl | rfl | rfl | rfl | rfl | rfl
  case inr.inr.inr.inr.inr.inr.inr.inr.inr.inl =>
    exact traps_of_absent rfl hs hu hbar (hlate.resolve_right (Classical.not_not.2 rfl)) rfl rfl rfl (Ctx.targetsThere_nil rfl)
      (by dsimp only; exact Ctx.mtx_absent habs ..)
  all_goals
    dsimp only at hs ⊢
    refine traps_of_absent rfl hs hu hbar rfl rfl rfl rfl (Ctx.targetsThere_nil rfl) ?_
    dsimp only
    exact Ctx.mtx_absent habs ..

end

/-- Settles O43: each comes to its own trap; in another agent's handler the agent of a BRK is held. -/
theorem instructionTraps : Obligations.InstructionTraps := by
  intro f s c hu
  refine ⟨fun hbar hs hex => ?_, fun hbar => ⟨fun hs hex => ?brk, fun hs hex hsel => ?swrite, fun hs hex hwhole hsig => ?sigchk,
    fun p hp hs hcap => ⟨fun hno => ?_, fun hno hlost => ?_⟩⟩⟩
  · exact held_of_barred (i := .brk f) rfl hs hu hbar rfl rfl rfl rfl (Ctx.targetsThere_nil rfl) (if_pos (Ctx.any_of_exec hex))
  case brk =>
    exact traps_of_run (i := .brk f) rfl hs hu hbar rfl rfl rfl rfl (Ctx.targetsThere_nil rfl) (if_pos (Ctx.any_of_exec hex))
  case swrite =>
    refine traps_of_run (i := .swrite f) rfl hs hu hbar rfl rfl rfl rfl (Ctx.targetsThere_nil rfl) ?_
    dsimp only
    rw [hsel, if_neg (by decide), if_pos (Ctx.any_of_exec hex)]
    rfl
  case sigchk =>
    refine traps_of_run (i := .sigchk f) rfl hs hu hbar rfl rfl rfl rfl (Ctx.targetsThere_nil rfl) ?_
    dsimp only
    rw [Ctx.any_of_exec hex, hwhole]
    exact if_neg (by simpa using hsig)
  · exact absentTraps hp hs hcap hu hbar (by unfold Ctx.absent; rw [hno]; rfl)
  · exact absentTraps hp hs hcap hu hbar (by unfold Ctx.absent; rw [hno, hlost]; rfl)

end Sys2Proof.Machine
end

section
/-!
Proof of the traps that an LD meets before anything is done (R181, R182).
-/

namespace Sys2Proof.Machine

section
variable {h : LaunchHdr} {noStack : Bool} {align n : Nat} {addr : Nat → Nat} {lanes : List Nat} {l : Nat} {t : List Nat}

/-- Lanes outside every aperture come first, the lowest one's address with them (R182). -/
theorem stepOne_address (hbad : lanes.filter (fun l => addrCause h noStack (addr l) n != 0) = l :: t) :
    stepOne h noStack align n (lanes.map (fun l => (l, addr l))) = some (0x0B, l :: t, addr l, addrCause h noStack (addr l) n) := by
  have hmap : (lanes.map (fun l => (l, addr l))).filter (fun p => addrCause h noStack p.2 n != 0) = (l :: t).map (fun l => (l, addr l)) := by
    rw [List.filter_map, ← hbad]; rfl
  unfold stepOne
  rw [hmap]
  simp only [List.map_cons, List.map_map]
  exact congrArg (fun t => some (0x0B, l :: t, addr l, addrCause h noStack (addr l) n)) (List.map_id t)

/-- Then misaligned ones. -/
theorem stepOne_align (hbad : lanes.filter (fun l => addrCause h noStack (addr l) n != 0) = [])
    (hoff : lanes.filter (fun l => addr l % align != 0) = l :: t) :
    stepOne h noStack align n (lanes.map (fun l => (l, addr l))) = some (0x0E, l :: t, addr l, 0) := by
  have hmap : (lanes.map (fun l => (l, addr l))).filter (fun p => addrCause h noStack p.2 n != 0) = [] := by
    rw [List.filter_map, List.map_eq_nil_iff]; exact hbad
  have hmap' : (lanes.map (fun l => (l, addr l))).filter (fun p => p.2 % align != 0) = (l :: t).map (fun l => (l, addr l)) := by
    rw [List.filter_map, ← hoff]; rfl
  unfold stepOne
  rw [hmap, hmap']
  simp only [List.map_cons, List.map_map]
  exact congrArg (fun t => some (0x0E, l :: t, addr l, 0)) (List.map_id t)

end

/-- A per-lane access of which the first step of the checks fails traps (R182). -/
theorem Ctx.access_refused {c : Ctx} {s : State} {x : Access} {code addr aux : Nat} {lanes : List Nat} (hpark : s.parkOf c.aid = none)
    (hagent : x.agent = false) (hperm : (x.perm == 2) = false)
    (hstep : stepOne c.hdr false x.bytes x.bytes ((lanesOf c.exec).map (fun l => (l, x.addr l))) = some (code, lanes, addr, aux)) :
    c.access x s = c.raiseAt s code (maskOf lanes) addr aux := by
  unfold Ctx.access
  simp [hpark, hagent, hperm, Access.again, hstep]

theorem Ctx.addrOf_ldOff (c : Ctx) (l : Nat) :
    c.addrOf (ldOff c.f) l = wrap 64 ((c.A l).toNat + sext 8 (modF c.f 7 0) * 2 ^ c.f.w.toNat) := by
  unfold Ctx.addrOf ldOff bytesOf
  push_cast
  rfl

/-- Settles O44: ADDRESS and then MISALIGNED are the first steps of the access's checks. -/
theorem accessTraps : Obligations.AccessTraps := by
  intro f s c hs hu hbar hfence
  obtain ⟨-, -, -, -, -, hf, -⟩ := hs.spec
  subst hf
  have htrap : ∀ code lanes addr aux, stepOne c.hdr false (bytesOf c.f) (bytesOf c.f) ((lanesOf c.exec).map (fun l => (l, (ldAccess c).addr l))) =
      some (code, lanes, addr, aux) → exec (.ld c.f) s = .next ((s.begun c.aid).takeTrap c.aid ⟨code, c.pc, maskOf lanes, addr, aux⟩ c.lim) := by
    intro code lanes addr aux hstep
    refine traps_of_run rfl hs hu hbar rfl rfl rfl rfl (Ctx.targetsThere_nil rfl) ?_
    dsimp only
    rw [Ctx.gated_of_free hfence]
    exact Ctx.access_refused hu.noPark rfl rfl hstep
  simp only [← c.addrOf_ldOff]
  refine ⟨fun l t hbad => ?_, fun l t hbad hoff => ?_⟩
  · rw [hbad]; exact htrap _ _ _ _ (stepOne_address hbad)
  · rw [hoff]; exact htrap _ _ _ _ (stepOne_align hbad hoff)

end Sys2Proof.Machine
end

section
/-!
Proofs of what a trap leaves: the handler entered (R320, R323), or the agent parked (R321, R324, R325).
-/

namespace Sys2Proof.Machine

section
variable {s : State} {aid : AgentId} {t : Trap} {replay : Mask} {g : Gang}

theorem Gang.modAgent_shape (g : Gang) (sl : Option Nat) (f : Slice → Slice) : ∃ l, g.modAgent sl f = { g with slices := l } := by
  unfold Gang.modAgent
  generalize g.members sl = l
  induction l generalizing g with
  | nil => exact ⟨g.slices, rfl⟩
  | cons i l ih =>
    obtain ⟨sl, h⟩ := ih (g.modSlice i f)
    exact ⟨sl, h⟩

/-- Slices changed one by one, each as `k` says of it. -/
theorem Gang.slice?_each (k : Nat → Slice → Slice) (l : List Nat) (hl : l.Nodup) (g : Gang) (j : Nat) :
    (l.foldl (fun h i => h.modSlice i (k i)) g).slice? j = if j ∈ l then (g.slice? j).map (k j) else g.slice? j := by
  induction l generalizing g with
  | nil => simp
  | cons i l ih =>
    rw [List.nodup_cons] at hl
    rw [List.foldl_cons, ih hl.2, Gang.slice?_modSlice]
    by_cases e : i = j
    · subst e; simp [hl.1]
    · rw [if_neg e]
      simp only [List.mem_cons, Ne.symm e, false_or]

/-- The slice at the handler's first word (R323, R86). -/
def Gang.startsHandler (g : Gang) (vec now i : Nat) (x : Slice) : Slice :=
  { x with point := .atHeader vec, active := g.live &&& sliceLanes i, deferred := [], loops := [], calls := [], budgets := []
           replay := none, hold := .none, earliest := max x.earliest (now + landing g.olds now) }

theorem Gang.slice?_enterHandler (g : Gang) (sl : Option Nat) (t : Trap) (m : Mask) (vec now j : Nat) :
    (g.enterHandler sl t m vec now).slice? j =
      if j ∈ g.members sl then (g.slice? j).map (g.startsHandler vec now j) else g.slice? j :=
  Gang.slice?_each (g.startsHandler vec now) (g.members sl) (g.nodup_members sl) g j

/-- What a trap does to its gang, by where the handler is and whose (R323 to R325). -/
theorem State.takeTrap_of (hg : s.gang? aid.gang = some g) : s.takeTrap aid t replay = match g.trapState with
    | some ts => if ts.has aid.slice then s.escalates g aid.slice t replay
      else s.modGang g.id (fun g => g.modAgent aid.slice (fun x => { x with hold := .handler }))
    | none => if s.vector g = 0 ∨ alwaysEscalates t.code then s.escalates g aid.slice t replay
      else (s.modGang g.id (fun k => k.enterHandler aid.slice t replay (s.vector g) s.pkg.clock)).cleanTrapState g.id := by
  unfold State.takeTrap State.vector
  rw [hg]
  dsimp only
  cases (s.block? g.block).bind s.hdrOf <;> rfl

/-- An escalated trap of a gang that shades nothing parks its agent (R325). -/
theorem State.escalates_of (hkind : ∀ v px i, g.kind ≠ .shading v px i) (sl : Option Nat) :
    s.escalates g sl t replay = s.modGang g.id (fun g => g.escalate sl t replay s.pkg.clock) := by
  unfold State.escalates
  split
  next v px i h => exact absurd h (hkind v px i)
  next => rfl

theorem State.gang?_replaced {f : Gang → Gang} (hg : s.gang? aid.gang = some g) (hf : ∀ g, (f g).id = g.id) :
    (s.modGang g.id f).gang? aid.gang = some (f g) := by
  have hid := State.gang?_id hg
  rw [hid, State.gang?_modGang_same hf, hg]
  rfl

theorem State.cleanTrapState_eq (s : State) (n : Nat) : (s.cleanTrapState n).gangs = s.gangs ∧ (s.cleanTrapState n).mem = s.mem := by
  unfold State.cleanTrapState
  split <;> exact ⟨rfl, rfl⟩

end

/-- Settles O40: the gang is as `Gang.enterHandler` leaves it. -/
theorem trapEntersHandler : Obligations.TrapEntersHandler := by
  intro s aid t replay g hg hout hvec hsoft htwin
  have hesc : ¬ (s.vector g = 0 ∨ alwaysEscalates t.code = true) := by
    simp only [alwaysEscalates, Bool.or_eq_true, beq_iff_eq]
    exact fun h => h.elim hvec fun h => h.elim hsoft htwin
  have htake : s.takeTrap aid t replay =
      (s.modGang g.id (fun k => k.enterHandler aid.slice t replay (s.vector g) s.pkg.clock)).cleanTrapState g.id := by
    rw [State.takeTrap_of hg, hout]
    exact if_neg hesc
  have hsame : ∀ v (g : Gang), Gang.Same (fun _ => True) g (g.enterHandler aid.slice t replay v s.pkg.clock) :=
    fun v g => g.same_enterHandler aid.slice trivial ..
  obtain ⟨hgangs, hmem⟩ := (s.modGang g.id (fun k => k.enterHandler aid.slice t replay (s.vector g) s.pkg.clock)).cleanTrapState_eq g.id
  refine ⟨g.enterHandler aid.slice t replay (s.vector g) s.pkg.clock, _, ?_, rfl, rfl, rfl, rfl, rfl, rfl, rfl, rfl, fun i hi x hx => ?_,
    fun i hi x hx => ?_, fun i hi => ?_, fun r x l => (hsame _ g).getR r x l, ?_⟩
  · rw [htake, State.gang?, hgangs]
    exact State.gang?_replaced hg fun g => (hsame _ g).id
  · exact List.mem_filterMap.2 ⟨i, hi, by rw [hx]; rfl⟩
  · exact ⟨g.startsHandler (s.vector g) s.pkg.clock i x, by rw [Gang.slice?_enterHandler, if_pos hi, hx]; rfl, rfl, rfl, rfl, rfl, rfl,
      rfl, rfl⟩
  · rw [Gang.slice?_enterHandler, if_neg hi]
  · rw [htake, hmem]; rfl

/-- Settles O41: the agent is parked with the trap, or held until the handler of the other agent has returned. -/
theorem trapEscalates : Obligations.TrapEscalates := by
  intro s aid t replay g hg hkind
  refine ⟨fun hesc => ?_, fun ⟨ts, hts, hhas⟩ => ?_⟩
  · have htake : s.takeTrap aid t replay = s.modGang g.id (fun g => g.escalate aid.slice t replay s.pkg.clock) := by
      rw [State.takeTrap_of hg, ← State.escalates_of hkind]
      rcases hesc with ⟨hout, hwhy⟩ | ⟨ts, hts, hhas⟩
      · rw [hout]
        refine if_pos ?_
        simpa [alwaysEscalates] using hwhy
      · rw [hts]
        exact if_pos hhas
    obtain ⟨l, hl⟩ := g.modAgent_shape aid.slice (fun x => { x with
      hold := .escalated t.code (wordless t.code t.pc t.aux ((g.members aid.slice).filterMap g.slice?)), replay := some replay })
    have hsame := g.same_escalate (T := fun _ => True) aid.slice (t := t) trivial replay s.pkg.clock
    refine ⟨g.escalate aid.slice t replay s.pkg.clock, ?_, rfl, rfl, rfl, rfl, rfl, ?_, fun r x l => hsame.getR r x l, fun i hi x hx => ?_⟩
    · rw [htake]
      exact State.gang?_replaced hg fun g => (g.same_escalate (T := fun _ => True) _ trivial _ _).id
    · show (g.modAgent _ _).trapState = _
      rw [hl]
    · exact ⟨_, (Gang.slice?_modAgent ..).trans ((if_pos hi).trans (congrArg (Option.map _) hx)), rfl, rfl, rfl, rfl, rfl, rfl, rfl⟩
  · have htake : s.takeTrap aid t replay = s.modGang g.id (fun g => g.modAgent aid.slice (fun x => { x with hold := .handler })) := by
      rw [State.takeTrap_of hg, hts]
      exact if_neg (by rw [hhas]; decide)
    obtain ⟨l, hl⟩ := g.modAgent_shape aid.slice (fun x => { x with hold := .handler })
    have hsame := g.same_modAgent (T := fun _ => True) aid.slice (fun x => { x with hold := .handler })
    refine ⟨g.modAgent aid.slice (fun x => { x with hold := .handler }), ?_, by rw [hl], by rw [hl], fun r x l => hsame.getR r x l,
      fun i hi x hx => ⟨_, (Gang.slice?_modAgent ..).trans ((if_pos hi).trans (congrArg (Option.map _) hx)), rfl, rfl, rfl⟩⟩
    rw [htake]
    exact State.gang?_replaced hg fun g => (g.same_modAgent (T := fun _ => True) _ _).id

end Sys2Proof.Machine
end

section
/-!
A handler's return while a live slice of its gang has no record (R330).
-/

namespace Sys2Proof.Machine

/-- The trap state of a whole gang of which the record of slice 0 alone is kept. -/
def Gang.trappedAlone (g : Gang) : TrapState :=
  ⟨true, 255, (g.slices.take 1).map (fun x => (0, x)), 0xFFFFFFFF, ⟨0x16, 0, 0xFFFFFFFF, 0, 0⟩⟩

/-- A gang of eight live slices, of which slice 0 alone has a record, at a TRET of its handler. -/
def returnApart : State :=
  (State.reset.loadOne 6 0x00BC0000 0).modGang 3 (fun g => { g with slices := g.slices.take 1, trapState := some g.trappedAlone })

/-- The handler is the whole agent's, and the slice that it saved is there. -/
def Ctx.handles (c : Ctx) : Bool :=
  c.aid.slice.isNone && c.g.id == 3 && !c.badTret false && c.g.trapState.any (fun ts =>
    c.g.liveSlices.all (bitAt ts.members) && decide (ts.slices.map (·.1)).Nodup && ts.slices.all (fun p => (c.g.slice? p.1).isSome))

theorem returnApart_seen : (returnApart.seen 6 0x05 (unpack 0x00BC0000 0)).any (fun c =>
    c.clear returnApart false [] && c.handles) = true := by decide +kernel

/-- The TRET waits for slices 1 to 7, which never come: the trap state stays. -/
theorem returnApart_stays : leadsTo (exec (.tret (unpack 0x00BC0000 0)) returnApart) (fun t =>
    ((t.gang? 3).bind (·.trapState)).isSome) = true := by decide +kernel

/-- Refutes O42: its hypotheses ask a record of the slices that the trap saved, and of no other live slice of the gang; the TRET of a
gang of which one is missing holds for ever, and the handler does not return. -/
theorem not_handlerReturns : ¬ Obligations.HandlerReturns := by
  intro h
  obtain ⟨c, hs, hu, hp⟩ := exists_seen returnApart_seen
  simp only [Ctx.handles, Bool.and_eq_true, Bool.not_eq_true', beq_iff_eq, Option.isNone_iff_eq_none] at hp
  obtain ⟨⟨⟨hwhole, hid⟩, hbad⟩, hstate⟩ := hp
  obtain ⟨ts, hts, hall⟩ := (Option.any_eq_true _ _).1 hstate
  simp only [Bool.and_eq_true, List.all_eq_true, decide_eq_true_eq] at hall
  obtain ⟨⟨hmembers, hnodup⟩, hthere⟩ := hall
  obtain ⟨t, g, hnext, hg, hnone, -⟩ := h (unpack 0x00BC0000 0) false returnApart c ts hs (by rw [hbad]; exact hu) hwhole hts hmembers
    nofun hnodup hthere
  have hstays := of_leadsTo returnApart_stays hnext
  rw [← hid, hg] at hstays
  simp [hnone] at hstays

end Sys2Proof.Machine
end

section
/-!
Proofs of PACE and PACERD (R245, R246).
-/

namespace Sys2Proof.Machine

section
variable {s t : State} {f : Fields} {c : Ctx} {d : Block}

/-- What PACE makes of its block's counter (R245). -/
def LaunchHdr.counts (h : LaunchHdr) (b : Block) : Block := if h.paced then { b with pacer := (b.pacer + 1) % 2 ^ 32 } else b

theorem LaunchHdr.counts_keeps (h : LaunchHdr) (b : Block) : (h.counts b).id = b.id ∧ (h.counts b).store = b.store := by
  unfold LaunchHdr.counts; split <;> exact ⟨rfl, rfl⟩

theorem State.block?_modBlock_same {n : Nat} {k : Block → Block} (hk : ∀ b, (k b).id = b.id) (hd : s.block? n = some d) :
    (s.modBlock n k).block? n = some (k d) := by
  have hid : d.id = n := by simpa using List.find?_some (p := fun b : Block => b.id == n) hd
  rw [State.block?_modBlock hk, hd, Option.map_some, if_pos hid]

theorem State.modBlock_id (s : State) (n : Nat) : s.modBlock n (fun b => b) = s := by
  unfold State.modBlock mapWhere
  simp

/-- A PACE that may go on counts and completes. -/
theorem pace_completes (hs : Sees s 5 0x18 f c) (hu : c.Unhindered s false []) (hex : c.exec ≠ 0) (hd : s.block? c.g.block = some d)
    (hover : s.paceOver c.blk c.hdr = true) :
    DoneFrom (.pace f) s (c.markSe s) c ∧ ∃ t e, exec (.pace f) s = .next t ∧ t.block? c.g.block = some e ∧ e.store = d.store ∧
      e.pacer = (c.hdr.counts d).pacer ∧ c.goesOn t := by
  have hany := Ctx.any_of_exec hex
  let t1 := ((s.begun c.aid).modGang c.g.id (fun g => { g with se := true })).modBlock c.g.block c.hdr.counts
  have hrun : (if !c.any && !c.resumed then Res.done (s.begun c.aid)
      else if !(s.begun c.aid).paceOver c.blk c.hdr then .hold (s.begun c.aid) .pace
      else .done (if c.hdr.paced then (c.markSe (s.begun c.aid)).modBlock c.g.block (fun b => { b with pacer := (b.pacer + 1) % 2 ^ 32 })
        else c.markSe (s.begun c.aid))) = .done t1 := by
    have hover' : (s.begun c.aid).paceOver c.blk c.hdr = true := hover
    rw [hany, hover', Ctx.markSe_of_any hany]
    simp only [Bool.not_true, Bool.false_and, Bool.false_eq_true, if_false]
    show _ = Res.done (State.modBlock _ _ _)
    refine congrArg Res.done ?_
    split
    next hp => exact congrArg _ (funext fun b => (if_pos hp).symm)
    next hp => exact (State.modBlock_id _ c.g.block).symm.trans (congrArg _ (funext fun b => (if_neg hp).symm))
  have hd1 := (hs.done_begun hu.toUndisturbed).modGang (f := fun g => { g with se := true }) fun _ => rfl
  obtain ⟨u, k, hnext, hc⟩ := completes_of_done (i := .pace f) (t := t1) rfl hs hu rfl rfl (Ctx.targetsThere_nil rfl) hrun
    (hd1.of_gangs rfl)
  have hframe : Frame nothing (· = 0x07) (c.markSe s) u := by
    rw [Ctx.markSe_of_any hany]
    exact (((Frame.begun s c.aid).aside aside_se).trans (Frame.modBlock c.hdr.counts_keeps)).trans hc.frame
  have hblk : t1.block? c.g.block = some (c.hdr.counts d) := State.block?_modBlock_same (fun b => (c.hdr.counts_keeps b).1) hd
  obtain ⟨rst, hends, -⟩ := hc.ends
  obtain ⟨e, he⟩ := hends.blocks c.g.block (c.hdr.counts d) hblk
  exact ⟨⟨u, hnext, hframe, hc.goes⟩, u, _, hnext, he, (c.hdr.counts_keeps d).2, rfl, hc.goes⟩

/-- The slice that stands for an agent, after an update of its slices. -/
theorem Gang.lead_modAgent (g : Gang) (sl : Option Nat) (k : Slice → Slice) : (g.modAgent sl k).lead sl = (g.lead sl).map k := by
  cases sl with
  | some i => exact (Gang.slice?_modAgent ..).trans (if_pos List.mem_cons_self)
  | none =>
    have hlive : (g.modAgent none k).liveSlices = g.liveSlices := Gang.members_modAgent g none k none
    show (g.modAgent none k).liveSlices.head?.bind (g.modAgent none k).slice? = (g.liveSlices.head?.bind g.slice?).map k
    rw [hlive]
    cases hl : g.liveSlices with
    | nil => rfl
    | cons i l =>
      refine (Gang.slice?_modAgent ..).trans (if_pos ?_)
      show i ∈ g.liveSlices
      rw [hl]; exact List.mem_cons_self

theorem Sees.lead {cls op : Nat} (hs : Sees s cls op f c) : c.g.lead c.aid.slice = some c.lead := by
  have h := hs.2
  unfold State.ctx? at h
  split at h
  · cases h
  · split at h
    next x b hx hb =>
      split at h
      · cases h
      · injection h with h
        rw [← h]; exact hx
    · cases h

/-- A slice whose agent is held for `w` (R73, R81). -/
def Ctx.heldSlice (c : Ctx) (w : Hold) (x : Slice) : Slice :=
  { x with hold := w, earliest := max x.earliest (c.now + (if w.issued && !c.resumed then c.f.stall.toNat else 0) + 1), readySince := none }

/-- The gang of an agent that is held for `w`, from a state in which its clause cedes or not. -/
def Ctx.heldGang (c : Ctx) (w : Hold) (cedes : Bool) (g : Gang) : Gang :=
  { (g.modAgent c.aid.slice (c.heldSlice w)) with
    lastIssue := if w.issued && !c.resumed then c.now else g.lastIssue
    readySince := if w.issued && !c.resumed then none else g.readySince
    cede := g.cede || (w.issued && !c.resumed && cedes) }

theorem Ctx.same_heldGang {T : Nat → Prop} (c : Ctx) (w : Hold) (cedes : Bool) (g : Gang) : Gang.Same T g (c.heldGang w cedes g) :=
  (g.same_modAgent c.aid.slice _).trans ⟨rfl, rfl, .inl rfl, rfl, rfl, rfl, rfl, rfl⟩

theorem State.held_eq (w : Hold) : State.held c t w = if w.issued && !c.resumed then
    (t.modGang c.g.id (c.heldGang w (c.cedes t))).endTurn c.g.easel 0 else t.modGang c.g.id (c.heldGang w (c.cedes t)) := rfl

theorem State.held_gang {w : Hold} {g : Gang} (hg : t.gang? c.g.id = some g) :
    (State.held c t w).gang? c.g.id = some (c.heldGang w (c.cedes t) g) := by
  have hmod : (t.modGang c.g.id (c.heldGang w (c.cedes t))).gang? c.g.id = some (c.heldGang w (c.cedes t) g) := by
    rw [State.gang?_modGang_same fun g => (c.same_heldGang (T := fun _ => False) w _ g).id, hg]; rfl
  rw [State.held_eq]
  split
  · rw [State.gang?_endTurn]; exact hmod
  · exact hmod

theorem State.held_blocks (w : Hold) : (State.held c t w).blocks = t.blocks := by
  rw [State.held_eq]
  unfold State.endTurn
  dsimp only
  split
  · split <;> rfl
  · rfl

theorem State.held_clean {w : Hold} (h : t.errs.poison = []) : (State.held c t w).errs.poison = [] := by
  rw [State.held_eq]
  split
  · exact State.endTurn_clean h
  · exact h

/-- The issue of an instruction that is held. -/
theorem issueOp_held {cls op : Nat} {b : Body} {w : Hold} (hs : Sees s cls op f c)
    (hu : c.Unhindered s (b.late c (s.begun c.aid)) (b.more c)) (ht : b.target c (s.begun c.aid) = none) (hx : b.unassigned = none)
    (hw : c.targetsThere b (s.begun c.aid)) (hr : b.run c (s.begun c.aid) = .hold t w) (hc : t.errs.poison = []) :
    issueOp cls op f b s = .next (State.held c t w) := by
  have ho : c.conclude b (c.result b (s.begun c.aid)) = State.held c t w := by
    rw [hu.result ht hx hw (by rw [hr]; nofun), hr]; rfl
  rw [issueOp_plain hs hu.kind hu.alone (by rw [ho]; exact State.held_clean hc), ho]

/-- One that may not is held with its counter as it was. -/
theorem pace_held (hs : Sees s 5 0x18 f c) (hu : c.Unhindered s false []) (hex : c.exec ≠ 0) (hd : s.block? c.g.block = some d)
    (hover : s.paceOver c.blk c.hdr = false) :
    ∃ t e g y, exec (.pace f) s = .next t ∧ t.block? c.g.block = some e ∧ e.pacer = d.pacer ∧ e.store = d.store ∧
      t.gang? c.g.id = some g ∧ c.g.sameRegs g ∧ g.lead c.aid.slice = some y ∧ y.hold = .pace := by
  have hover' : (s.begun c.aid).paceOver c.blk c.hdr = false := hover
  have hnext : exec (.pace f) s = .next (State.held c (s.begun c.aid) .pace) :=
    issueOp_held hs hu rfl rfl (Ctx.targetsThere_nil rfl) (by
      dsimp only
      rw [Ctx.any_of_exec hex, hover']
      rfl) hu.clean
  have hlead : ∀ v, (c.heldGang .pace v (c.g.modAgent c.aid.slice (fun x => { x with hold := .none }))).lead c.aid.slice =
      some (c.heldSlice .pace { c.lead with hold := .none }) := fun v => by
    refine (Gang.lead_modAgent ..).trans ?_
    rw [Gang.lead_modAgent, hs.lead]; rfl
  refine ⟨_, d, _, _, hnext, ?_, rfl, rfl, State.held_gang hs.begun_gang, fun r x l => ?_, hlead _, rfl⟩
  · rw [State.block?, State.held_blocks]
    exact hd
  · exact ((c.same_heldGang (T := fun _ => False) .pace _ _).getR r x l).trans (Gang.getR_modAgent ..)

/-- Whether PACE may go on, by its block's neighbours (R245). -/
theorem State.paceOver_iff {p q : Nat} (hn : neighbours c.hdr c.blk.number = some (p, q)) : s.paceOver c.blk c.hdr = true ↔
    ∀ n, s.pacerOf c.blk.launch p = some n ∨ s.pacerOf c.blk.launch q = some n → c.blk.pacer + 1 ≤ n + c.hdr.paceallow := by
  unfold State.paceOver
  rw [hn]
  simp only [List.all_eq_true, List.mem_filterMap, List.mem_cons, List.not_mem_nil, or_false, decide_eq_true_eq]
  constructor
  · rintro h n (hp | hq)
    · exact h n ⟨p, .inl rfl, hp⟩
    · exact h n ⟨q, .inr rfl, hq⟩
  · rintro h n ⟨a, rfl | rfl, ha⟩
    · exact h n (.inl ha)
    · exact h n (.inr ha)

theorem paced_of_neighbours {h : LaunchHdr} {number p q : Nat} (hn : neighbours h number = some (p, q)) : h.paced = true := by
  unfold neighbours at hn
  dsimp only at hn
  refine Classical.byContradiction fun hp => ?_
  rw [if_pos (.inl (by simpa using hp))] at hn
  cases hn

end

/-- Settles O28: PACE goes on or is held as its neighbours' counters say, and PACERD reads them. -/
theorem pacing : Obligations.Pacing := by
  intro f
  refine ⟨fun s c d hs hu hex hd p q hn => ?neighbours, fun s c d hs hu hex hd hn => ?alone, fun s c hs hu hl => ?reads⟩
  case neighbours =>
    obtain rfl : c.blk = d := Option.some.inj (hs.spec.2.2.2.2.1.symm.trans hd)
    refine ⟨fun hw => ?_, fun hw => ?_⟩
    · obtain ⟨-, t, e, hnext, he, hstore, hpacer, hgo⟩ := pace_completes hs hu hex hd ((State.paceOver_iff hn).2 hw)
      rw [LaunchHdr.counts, if_pos (paced_of_neighbours hn)] at hpacer
      exact ⟨t, e, hnext, he, hpacer, hstore, hgo⟩
    · exact pace_held hs hu hex hd (Bool.eq_false_iff.2 fun h => hw ((State.paceOver_iff hn).1 h))
  case alone =>
    have hover : s.paceOver c.blk c.hdr = true := by unfold State.paceOver; rw [hn]
    obtain ⟨hdone, t, e, hnext, he, hstore, hpacer, -⟩ := pace_completes hs hu hex hd hover
    refine ⟨hdone, t, e, hnext, he, hstore, hpacer.trans ?_⟩
    have hiff : c.hdr.paced = true ↔ ¬ (c.hdr.paceallow = 0 ∨ c.hdr.wingco = 0) := by
      simp only [LaunchHdr.paced, Bool.and_eq_true, decide_eq_true_eq]; omega
    unfold LaunchHdr.counts
    by_cases hp : c.hdr.paceallow = 0 ∨ c.hdr.wingco = 0
    · rw [if_pos hp, if_neg fun h => hiff.1 h hp]
    · rw [if_neg hp, if_pos (hiff.2 hp)]
  case reads =>
    refine results_of_putQ rfl hs hu rfl rfl (Ctx.targetsThere_nil rfl) (.inl rfl) ?_ hl
    dsimp only
    unfold State.pacerd
    rfl

end Sys2Proof.Machine
end

section
/-!
Proof of REGANG (R31, R217).
-/

namespace Sys2Proof.Machine

section
variable {g : Gang} {i j p q : Nat}

/-! ### Slices that wait at a REGANG -/

/-- Slice `j` waits at a REGANG at `p`. -/
def Gang.waitsAt (g : Gang) (j p : Nat) : Prop := ∃ x st xt, g.slice? j = some x ∧ x.hold = .regang p st xt

/-- The address of the REGANG at which a slice waits. -/
def Gang.regangPc (g : Gang) (j : Nat) : Option Nat :=
  match g.slice? j with
  | some x => match x.hold with
    | .regang pc _ _ => some pc
    | _ => none
  | none => none

theorem Gang.regangPcs_eq (g : Gang) : g.regangPcs = g.liveSlices.map g.regangPc := rfl

theorem Gang.regangPc_of_waitsAt (h : g.waitsAt j p) : g.regangPc j = some p := by
  obtain ⟨x, st, xt, hx, hhold⟩ := h
  unfold Gang.regangPc
  simp only [hx, hhold]

/-- The gang with every live slice past its REGANG. -/
def Gang.allPast (g : Gang) : Gang := g.liveSlices.foldl (fun h i => h.modSlice i Slice.pastRegang) g

theorem Gang.slice?_allPast (g : Gang) (j : Nat) :
    g.allPast.slice? j = if j ∈ g.liveSlices then (g.slice? j).map Slice.pastRegang else g.slice? j :=
  Gang.slice?_foldl _ _ (g.nodup_members none) g j

theorem Slice.pastRegang_goesPast {x : Slice} {st : Nat} {xt : Bool} (h : x.hold = .regang p st xt) : x.goesPast xt x.pastRegang := by
  unfold Slice.pastRegang
  rw [h]
  exact ⟨rfl, rfl, rfl, rfl, rfl, rfl⟩

/-- Slices that wait at one address make the gang whole. -/
theorem Gang.regang_same (hw : g.whole = false) (hi : i ∈ g.liveSlices) (hall : ∀ j ∈ g.liveSlices, g.waitsAt j p) :
    g.regang = g.allPast.regangWhole.fold [3, g.allPast.regangWhole.activeOf none ||| g.allPast.regangWhole.dead] := by
  have hpcs : ∀ a ∈ g.regangPcs, a = some p := fun a ha => by
    obtain ⟨j, hj, rfl⟩ := List.mem_map.1 (g.regangPcs_eq ▸ ha)
    exact Gang.regangPc_of_waitsAt (hall j hj)
  have hsome : g.regangPcs.any (·.isNone) = false :=
    List.any_eq_false.2 fun a ha => by rw [hpcs a ha]; exact Bool.false_ne_true
  unfold Gang.regang
  cases hp : g.regangPcs with
  | nil => exact absurd (List.mem_map_of_mem (f := g.regangPc) hi) (by rw [← Gang.regangPcs_eq, hp]; exact List.not_mem_nil)
  | cons a t =>
    have hsame : t.all (· == a) = true := List.all_eq_true.2 fun b hb => by
      rw [hpcs b (by rw [hp]; exact List.mem_cons_of_mem _ hb), hpcs a (by rw [hp]; exact List.mem_cons_self)]
      exact beq_self_eq_true _
    dsimp only
    rw [← hp, hw, hsome, hsame]
    rfl

/-- Slices that wait at several addresses go on parted. -/
theorem Gang.regang_apart (hw : g.whole = false) (hall : ∀ j ∈ g.liveSlices, ∃ p, g.waitsAt j p) (hi : i ∈ g.liveSlices)
    (hj : j ∈ g.liveSlices) (hp : g.waitsAt i p) (hq : g.waitsAt j q) (hne : p ≠ q) : g.regang = g.allPast := by
  have hsome : g.regangPcs.any (·.isNone) = false := List.any_eq_false.2 fun a ha => by
    obtain ⟨k, hk, rfl⟩ := List.mem_map.1 (g.regangPcs_eq ▸ ha)
    obtain ⟨r, hr⟩ := hall k hk
    rw [Gang.regangPc_of_waitsAt hr]; exact Bool.false_ne_true
  have hin : ∀ k r, k ∈ g.liveSlices → g.waitsAt k r → some r ∈ g.regangPcs := fun k r hk hr => by
    rw [Gang.regangPcs_eq, ← Gang.regangPc_of_waitsAt hr]; exact List.mem_map_of_mem hk
  unfold Gang.regang
  cases hpcs : g.regangPcs with
  | nil => exact absurd (hin i p hi hp) (by rw [hpcs]; exact List.not_mem_nil)
  | cons a t =>
    have hdiff : t.all (· == a) = false := by
      refine Bool.eq_false_iff.2 fun h => hne ?_
      have heq : ∀ b ∈ g.regangPcs, b = a := fun b hb => by
        rcases List.mem_cons.1 (hpcs ▸ hb) with rfl | hb
        · rfl
        · exact beq_iff_eq.1 (List.all_eq_true.1 h b hb)
      exact Option.some.inj ((heq _ (hin i p hi hp)).trans (heq _ (hin j q hj hq)).symm)
    dsimp only
    rw [← hpcs, hw, hsome, hdiff]
    rfl

theorem Gang.fold_whole (g : Gang) (ws : List Word) : (g.fold ws).whole = g.whole ∧ (g.fold ws).slices = g.slices := by
  unfold Gang.fold; split <;> exact ⟨rfl, rfl⟩

theorem Gang.allPast_whole (g : Gang) : g.allPast.whole = g.whole := by
  unfold Gang.allPast
  generalize g.liveSlices = l
  induction l generalizing g with
  | nil => rfl
  | cons i l ih => exact ih (g.modSlice i Slice.pastRegang)

/-- A slice that rejoins its gang holds nothing. -/
theorem Gang.slice?_regangWhole (g : Gang) (j : Nat) : ∃ k : Slice → Slice, (∀ x, (k x).hold = x.hold) ∧
    g.regangWhole.slice? j = (g.slice? j).map k := by
  unfold Gang.regangWhole
  extract_lets live m early
  refine ⟨fun x => if j ∈ live then { x with budgets := m, earliest := early } else x, fun x => by dsimp only; split <;> rfl, ?_⟩
  show (live.foldl _ g).slice? j = _
  rw [Gang.slice?_foldl (fun x => { x with budgets := m, earliest := early }) live (g.nodup_members none)]
  split
  · rfl
  · exact Option.map_id'.symm

end

/-! ### A slice's REGANG -/

section
variable {s t : State} {c : Ctx} {f : Fields} {i : Nat}

/-- The slice at its REGANG. -/
def Ctx.regangSlice (c : Ctx) (f : Fields) (x : Slice) : Slice :=
  { x with hold := .regang c.pc f.stall.toNat f.x, earliest := c.now + f.stall.toNat + 1 }

/-- The gang with the agent's slice at its REGANG. -/
def Ctx.atRegang (c : Ctx) (f : Fields) : Gang :=
  (c.g.modAgent c.aid.slice (fun x => { x with hold := .none })).modAgent c.aid.slice (c.regangSlice f)

theorem Ctx.atRegang_live (c : Ctx) (f : Fields) : (c.atRegang f).liveSlices = c.g.liveSlices :=
  (Gang.members_modAgent _ c.aid.slice (c.regangSlice f) none).trans (Gang.members_modAgent _ c.aid.slice _ none)

theorem Ctx.atRegang_whole (c : Ctx) (f : Fields) : (c.atRegang f).whole = c.g.whole :=
  (Gang.whole_modAgent ..).trans (Gang.whole_modAgent ..)

theorem Ctx.atRegang_slice (hi : c.aid.slice = some i) (j : Nat) : (c.atRegang f).slice? j =
    if j = i then (c.g.slice? j).map (fun x => c.regangSlice f { x with hold := .none }) else c.g.slice? j := by
  unfold Ctx.atRegang
  rw [Gang.slice?_modAgent, Gang.members_modAgent, Gang.slice?_modAgent, hi]
  by_cases e : j = i
  · subst e
    simp only [Gang.members, List.mem_cons, List.not_mem_nil, or_false, if_true, Option.map_map]
    rfl
  · simp [Gang.members, e]

theorem Ctx.atRegang_waits (hs : Sees s 5 0x09 f c) (hi : c.aid.slice = some i) : (c.atRegang f).waitsAt i c.pc := by
  have hlead : c.g.slice? i = some c.lead := by
    have h := hs.lead
    rw [hi] at h; exact h
  exact ⟨_, _, _, by rw [Ctx.atRegang_slice hi, if_pos rfl, hlead]; rfl, rfl⟩

theorem Ctx.atRegang_others {j p : Nat} (hi : c.aid.slice = some i) (hj : j ≠ i) (h : c.g.waitsAt j p) : (c.atRegang f).waitsAt j p := by
  obtain ⟨x, st, xt, hx, hhold⟩ := h
  exact ⟨x, st, xt, by rw [Ctx.atRegang_slice hi, if_neg hj]; exact hx, hhold⟩

/-- REGANGs of a gang are over once every live slice waits at one. -/
theorem State.regangs_of_all {g : Gang} {n : Nat} (hg : t.gang? n = some g) (hw : g.whole = false) (hi : i ∈ g.liveSlices)
    (hall : ∀ j ∈ g.liveSlices, ∃ p, g.waitsAt j p) : t.regangs n = (t.modGang n Gang.regang).newFence n none 2 0 false := by
  have hsome : g.regangPcs.any (·.isNone) = false := List.any_eq_false.2 fun a ha => by
    obtain ⟨k, hk, rfl⟩ := List.mem_map.1 (g.regangPcs_eq ▸ ha)
    obtain ⟨r, hr⟩ := hall k hk
    rw [Gang.regangPc_of_waitsAt hr]; exact Bool.false_ne_true
  have hne : g.regangPcs ≠ [] := by
    rw [Gang.regangPcs_eq]
    exact fun h => List.not_mem_nil (List.map_eq_nil_iff.1 h ▸ hi)
  unfold State.regangs
  rw [hg]
  dsimp only
  rw [hw, hsome, decide_eq_false hne]
  rfl

/-- What a REGANG that is over leaves of its issue beside the slices (R66, R81). -/
def Ctx.tookTurn (c : Ctx) (cedes : Bool) (g : Gang) : Gang := { g with lastIssue := c.now, readySince := none, cede := g.cede || cedes }

theorem State.fl_endTurn (s : State) (e k : Nat) : (s.endTurn e k).fl = s.fl := by
  unfold State.endTurn
  dsimp only
  split <;> rfl

/-- The agent's slice rejoins its gang, or goes on beside it, with the last REGANG. -/
theorem regang_completes {k : Slice → Slice} (hs : Sees s 5 0x09 f c) (hu : c.Unhindered s false []) (hi : c.aid.slice = some i)
    (hw : c.g.whole = false) (hin : i ∈ c.g.liveSlices) (hall : ∀ j ∈ c.g.liveSlices, ∃ p, (c.atRegang f).waitsAt j p)
    (hover : (c.atRegang f).regang.slice? i = ((c.atRegang f).allPast.slice? i).map k) (hk : ∀ x, (k x).hold = x.hold) :
    ∃ t g, exec (.regang f) s = .next t ∧ t.gang? c.g.id = some g ∧ g.whole = (c.atRegang f).regang.whole ∧
      g.slices = (c.atRegang f).regang.slices ∧ Frame nothing (· = 0x07) s t ∧
      t.fl.fences = s.fl.fences ++ [⟨s.fresh, c.g.id, none, 2, 0, false⟩] := by
  let t1 := (s.begun c.aid).modGang c.g.id (fun g => g.modAgent c.aid.slice (c.regangSlice f))
  let t2 := (t1.modGang c.g.id Gang.regang).newFence c.g.id none 2 0 false
  have hg1 : t1.gang? c.g.id = some (c.atRegang f) := by
    show (State.modGang _ _ _).gang? _ = _
    rw [State.gang?_modGang_same fun g => (g.same_modAgent (T := fun _ => False) _ _).id, hs.begun_gang]; rfl
  have hlive := c.atRegang_live f
  have h2 : t1.regangs c.g.id = t2 := State.regangs_of_all hg1 ((c.atRegang_whole f).trans hw) (hlive ▸ hin) (by rw [hlive]; exact hall)
  have hg2 : t2.gang? c.g.id = some (c.atRegang f).regang := by
    show (t1.modGang _ _).gang? _ = _
    rw [State.gang?_modGang_same fun g => (g.same_regang (T := fun _ => False)).id, hg1]; rfl
  have hpast : ∃ y, (c.atRegang f).regang.slice? i = some y ∧ y.hold = .none := by
    obtain ⟨x, st, xt, hx, hhold⟩ := Ctx.atRegang_waits hs hi
    refine ⟨k x.pastRegang, by rw [hover, Gang.slice?_allPast, hlive, if_pos hin, hx]; rfl, ?_⟩
    rw [hk]
    exact (Slice.pastRegang_goesPast hhold).1
  obtain ⟨y, hy, hnone⟩ := hpast
  let t3 := t2.modGang c.g.id (c.tookTurn (c.cedes (s.begun c.aid)))
  have hnext : exec (.regang f) s = .next (t3.endTurn c.g.easel 0) := by
    refine issueOp_own hs hu rfl rfl (Ctx.targetsThere_nil rfl) ?_ hu.clean
    have hlead : ((t1.regangs c.g.id).gang? c.g.id).bind (fun g => g.lead c.aid.slice) = some y := by
      rw [h2, hg2, hi]; exact hy
    dsimp only
    rw [if_neg (by rw [hi]; exact Bool.false_ne_true)]
    show (match ((t1.regangs c.g.id).gang? c.g.id).bind (fun g => g.lead c.aid.slice) with
      | some x => if x.hold = Hold.regang c.pc f.stall.toNat f.x then Res.hold (t1.regangs c.g.id) (.regang c.pc f.stall.toNat f.x)
        else .own ((t1.regangs c.g.id).modGang c.g.id (fun g => { g with lastIssue := c.now, readySince := none
                                                                         cede := g.cede || c.cedes (s.begun c.aid) }))
      | none => .hold (t1.regangs c.g.id) (.regang c.pc f.stall.toNat f.x)) = _
    rw [hlead]
    dsimp only
    rw [if_neg (by rw [hnone]; nofun), h2]
    rfl
  refine ⟨t3.endTurn c.g.easel 0, c.tookTurn (c.cedes (s.begun c.aid)) (c.atRegang f).regang,
    hnext, ?_, rfl, rfl, ?_, ?_⟩
  · rw [State.gang?_endTurn]
    show (t2.modGang _ _).gang? _ = _
    rw [State.gang?_modGang_same (f := c.tookTurn (c.cedes (s.begun c.aid))) fun _ => rfl, hg2]; rfl
  · have h1 : Frame nothing (· = 0x07) s t1 := (Frame.begun s c.aid).trans (Frame.modGang fun g => g.same_modAgent ..)
    have h3 : Frame nothing (· = 0x07) s t2 := h1.trans ((Frame.modGang fun g => g.same_regang).trans (.of_eq rfl rfl rfl))
    exact h3.trans ((Frame.modGang (f := c.tookTurn _) fun g => ⟨rfl, rfl, .inl rfl, rfl, rfl, rfl, rfl, rfl⟩).trans (Frame.endTurn ..))
  · rw [State.fl_endTurn]; rfl

end

/-- Settles O25: the last REGANG of a gang's slices makes it whole, or lets them go on. -/
theorem rejoining : Obligations.Rejoining := by
  intro f s c hs hu
  refine ⟨fun hn => ?whole, fun i hi hw hin hothers => ?same, fun i hi hw hin hothers hapart => ?apart⟩
  case whole =>
    obtain ⟨u, v, hnext, hfl, hframe, -⟩ := completes_apart (i := .regang f)
      (t := (s.begun c.aid).newFence c.g.id none 2 0 false) rfl hs hu rfl rfl (Ctx.targetsThere_nil rfl)
      (if_pos (by rw [hn]; rfl)) rfl rfl rfl
    exact ⟨u, hnext, hframe, by rw [hfl]; rfl⟩
  case same =>
    have hall : ∀ j ∈ (c.atRegang f).liveSlices, (c.atRegang f).waitsAt j c.pc := by
      rw [c.atRegang_live]
      intro j hj
      by_cases e : j = i
      · rw [e]; exact Ctx.atRegang_waits hs hi
      · exact Ctx.atRegang_others hi e (hothers j hj e)
    have hre := Gang.regang_same ((c.atRegang_whole f).trans hw) (c.atRegang_live f ▸ hin) hall
    obtain ⟨k, hk, hslice⟩ := (c.atRegang f).allPast.slice?_regangWhole i
    obtain ⟨t, g, hnext, hg, hwhole, -, hframe, -⟩ := regang_completes (k := k) hs hu hi hw hin
      (fun j hj => ⟨c.pc, hall j (c.atRegang_live f ▸ hj)⟩) (by
        rw [hre, Gang.slice?, (Gang.fold_whole ..).2]; exact hslice) hk
    exact ⟨t, g, hnext, hg, by rw [hwhole, hre, (Gang.fold_whole ..).1]; rfl, hframe⟩
  case apart =>
    obtain ⟨j, hj, hji, x, pc, st, xt, hx, hhold, hne⟩ := hapart
    have hall : ∀ j ∈ c.g.liveSlices, ∃ p, (c.atRegang f).waitsAt j p := by
      intro j hj
      by_cases e : j = i
      · exact ⟨c.pc, e ▸ Ctx.atRegang_waits hs hi⟩
      · obtain ⟨x, p, st, xt, hx, hhold⟩ := hothers j hj e
        exact ⟨p, Ctx.atRegang_others hi e ⟨x, st, xt, hx, hhold⟩⟩
    have hre := Gang.regang_apart ((c.atRegang_whole f).trans hw) (by rw [c.atRegang_live]; exact hall) (c.atRegang_live f ▸ hj)
      (c.atRegang_live f ▸ hin) (Ctx.atRegang_others hi hji ⟨x, st, xt, hx, hhold⟩) (Ctx.atRegang_waits hs hi) hne
    obtain ⟨t, g, hnext, hg, hwhole, hslices, hframe, hfences⟩ := regang_completes (k := id) hs hu hi hw hin hall
      (by rw [hre]; exact (Option.map_id ▸ rfl)) fun _ => rfl
    refine ⟨t, g, hnext, hg, by rw [hwhole, hre, Gang.allPast_whole, c.atRegang_whole, hw], hframe, ⟨_, hfences⟩, fun n hn z hz => ?_⟩
    have hslice : g.slice? n = ((c.atRegang f).slice? n).map Slice.pastRegang := by
      rw [Gang.slice?, hslices, hre]
      exact (Gang.slice?_allPast ..).trans (if_pos (c.atRegang_live f ▸ hn))
    by_cases e : n = i
    · subst e
      rw [Ctx.atRegang_slice hi, if_pos rfl, hz] at hslice
      exact ⟨_, hslice, fun _ => Slice.pastRegang_goesPast (x := c.regangSlice f { z with hold := .none }) rfl,
        fun _ _ _ h => absurd rfl h⟩
    · rw [Ctx.atRegang_slice hi, if_neg e, hz] at hslice
      exact ⟨_, hslice, fun h => absurd h e, fun _ _ _ _ hh => Slice.pastRegang_goesPast hh⟩

end Sys2Proof.Machine
end

section
/-!
What the ends of operations, of lanes and of gangs leave of every gang: its registers, its dead lanes, and the lanes that have exited
(R41, R46, R220, R235, R241).
-/

namespace Sys2Proof.Machine

/-- What ends leave of a gang, beside the lanes that have exited. -/
def Gang.kept (g : Gang) : Nat × GangKind × Nat × Nat × Mask × SMap 64 × SMap 64 × SMap 64 × SMap 32 × SMap 32 :=
  (g.id, g.kind, g.block, g.nslices, g.dead, g.d, g.q, g.c, g.p, g.amax)

/-- A gang keeps what ends leave it; lanes may exit, none comes back. -/
structure Gang.Keeps (g h : Gang) : Prop where
  kept : h.kept = g.kept
  exited : g.exited &&& h.exited = g.exited

section
variable {g h k : Gang} {s t u : State}

theorem Gang.Keeps.of_eq (hk : h.kept = g.kept) (he : h.exited = g.exited) : g.Keeps h := ⟨hk, by rw [he, BitVec.and_self]⟩

theorem Gang.Keeps.refl (g : Gang) : g.Keeps g := .of_eq rfl rfl

theorem Gang.Keeps.trans (a : g.Keeps h) (b : h.Keeps k) : g.Keeps k where
  kept := b.kept.trans a.kept
  exited := by rw [← a.exited, BitVec.and_assoc, b.exited, a.exited]

theorem Gang.Keeps.fields (a : g.Keeps h) : h.id = g.id ∧ h.kind = g.kind ∧ h.block = g.block ∧ h.nslices = g.nslices ∧ h.dead = g.dead := by
  have hk := a.kept
  simp only [Gang.kept, Prod.mk.injEq] at hk
  exact ⟨hk.1, hk.2.1, hk.2.2.1, hk.2.2.2.1, hk.2.2.2.2.1⟩

theorem Gang.Keeps.sameRegs (a : g.Keeps h) : g.sameRegs h := by
  have hk := a.kept
  simp only [Gang.kept, Prod.mk.injEq] at hk
  obtain ⟨-, -, -, hn, -, hd, hq, hc, hp, ha⟩ := hk
  intro r x l
  cases r
  case d => show mapGet h.d _ = mapGet g.d _; rw [hd]
  case q => show (if x = 31 then _ else mapGet h.q x) = if x = 31 then _ else mapGet g.q x; rw [hq]
  case c => show mapGet h.c x = mapGet g.c x; rw [hc]
  case p =>
    have hget : h.getP x = g.getP x := by unfold Gang.getP Gang.lanes; rw [hp, hn]
    show (if hasLane (h.getP x) l then _ else _) = if hasLane (g.getP x) l then _ else _
    rw [hget]
  case amax => show BitVec.setWidth 64 (mapGet h.amax l) = BitVec.setWidth 64 (mapGet g.amax l); rw [ha]

theorem Gang.keeps_modSlice (g : Gang) (i : Nat) (f : Slice → Slice) : g.Keeps (g.modSlice i f) := .of_eq rfl rfl

theorem Gang.keeps_foldl {α : Type} (f : Gang → α → Gang) (hf : ∀ (g : Gang) a, g.Keeps (f g a)) (l : List α) (g : Gang) :
    g.Keeps (l.foldl f g) := by
  induction l generalizing g with
  | nil => exact .refl g
  | cons a l ih => exact (hf g a).trans (ih _)

theorem Gang.keeps_modAgent (g : Gang) (sl : Option Nat) (f : Slice → Slice) : g.Keeps (g.modAgent sl f) :=
  Gang.keeps_foldl _ (fun g i => g.keeps_modSlice i f) _ g

theorem Gang.keeps_repart (g : Gang) : g.Keeps g.repart := by
  unfold Gang.repart
  split
  · exact .refl g
  · split
    · exact .of_eq rfl rfl
    · exact .refl g

theorem Gang.keeps_fold (g : Gang) (ws : List Word) : g.Keeps (g.fold ws) := by
  unfold Gang.fold
  split
  · exact .of_eq rfl rfl
  · exact .refl g

/-! ### States -/

/-- From `s` to `t` gangs keep what ends leave them; some may come, none goes. -/
structure State.KeepsGangs (s t : State) : Prop where
  gang : ∀ i g, s.gang? i = some g → ∃ h, t.gang? i = some h ∧ g.Keeps h

theorem State.KeepsGangs.refl (s : State) : s.KeepsGangs s := ⟨fun _ g h => ⟨g, h, .refl g⟩⟩

theorem State.KeepsGangs.trans (a : s.KeepsGangs t) (b : t.KeepsGangs u) : s.KeepsGangs u where
  gang i g hg := by
    obtain ⟨h, hh, h1⟩ := a.gang i g hg
    obtain ⟨k, hk, h2⟩ := b.gang i h hh
    exact ⟨k, hk, h1.trans h2⟩

theorem State.KeepsGangs.of_gangs (h : t.gangs = s.gangs) : s.KeepsGangs t :=
  ⟨fun i g hg => ⟨g, by rw [State.gang?, h]; exact hg, .refl g⟩⟩

/-- Gangs changed where they stand. -/
theorem State.KeepsGangs.map (p : Gang → Bool) {f : Gang → Gang} (hf : ∀ g : Gang, g.Keeps (f g)) (ht : t.gangs = mapWhere p f s.gangs) :
    s.KeepsGangs t where
  gang i g hg := by
    refine ⟨if p g then f g else g, ?_, ?_⟩
    · rw [State.gang?, ht, find?_mapWhere _ _ _ _ fun x _ => by rw [(hf x).fields.1]]
      rw [show s.gangs.find? (fun g => g.id == i) = some g from hg]; rfl
    · split
      · exact hf g
      · exact .refl g

theorem State.KeepsGangs.modGang {n : Nat} {f : Gang → Gang} (hf : ∀ g : Gang, g.Keeps (f g)) : s.KeepsGangs (s.modGang n f) := .map _ hf rfl

/-- A gang replaced by what it has become. -/
theorem State.KeepsGangs.put {n : Nat} (hg : s.gang? n = some g) (hk : g.Keeps h) : s.KeepsGangs (s.modGang n (fun _ => h)) where
  gang i k hi := by
    have hid := State.gang?_id hg
    have hlook : (s.modGang n (fun _ => h)).gang? i = some (if k.id = n then h else k) := by
      show (mapWhere _ _ s.gangs).find? _ = _
      rw [find?_mapWhere _ _ _ _ fun x hx => by rw [hk.fields.1, hid, beq_iff_eq.1 hx]]
      rw [show s.gangs.find? (fun g => g.id == i) = some k from hi]
      simp
    refine ⟨_, hlook, ?_⟩
    split
    next hn =>
      obtain rfl : k = g := by
        have hin : i = n := (State.gang?_id hi).symm.trans hn
        rw [hin, hg] at hi
        exact (Option.some.inj hi).symm
      exact hk
    next => exact .refl k

theorem State.KeepsGangs.append {l : List Gang} (ht : t.gangs = s.gangs ++ l) : s.KeepsGangs t where
  gang i g hg := by
    refine ⟨g, ?_, .refl g⟩
    rw [State.gang?, ht, List.find?_append, show s.gangs.find? (fun g => g.id == i) = some g from hg]; rfl

theorem State.KeepsGangs.foldl {α : Type} (f : State → α → State) (hf : ∀ (s : State) a, s.KeepsGangs (f s a)) (l : List α) (s : State) :
    s.KeepsGangs (l.foldl f s) := by
  induction l generalizing s with
  | nil => exact .refl s
  | cons a l ih => exact (hf s a).trans (ih _)

/-! ### Ends of gangs and of operations -/

theorem State.KeepsGangs.startNext {l lv w : Nat} (h : s.startNext l lv w = some t) : s.KeepsGangs t := by
  unfold State.startNext at h
  split at h
  · cases h
  · split at h
    · cases h; exact .append rfl
    · cases h

theorem State.KeepsGangs.getD {o : Option State} (h : s.KeepsGangs u) (ho : ∀ t, o = some t → u.KeepsGangs t) :
    s.KeepsGangs (o.getD u) := by
  cases o with
  | none => exact h
  | some t => exact h.trans (ho t rfl)

theorem State.keepsGangs_dropIf (s : State) (p : Bool) (v : Nat) : s.KeepsGangs (if p then s.dropView v else s) := by
  split <;> exact .of_gangs rfl

theorem State.keepsGangs_shadeEnded (s : State) (b v : Nat) : s.KeepsGangs (s.shadeEnded b v) := by
  unfold State.shadeEnded
  dsimp only
  split
  · exact .of_gangs rfl
  · refine State.KeepsGangs.trans ?_ (State.keepsGangs_dropIf ..)
    exact .getD (.of_gangs rfl) fun t ht => .startNext ht

theorem State.keepsGangs_endGang (s : State) (n : Nat) : s.KeepsGangs (s.endGang n) := by
  unfold State.endGang
  split
  · exact .refl s
  · split
    · exact .refl s
    · have h1 : s.KeepsGangs (s.modGang n (fun g => { g with life := .ended, pendTraps := [], arrivals := [] })) :=
        .modGang fun g => .of_eq rfl rfl
      dsimp only
      split
      · exact h1.trans (State.keepsGangs_shadeEnded ..)
      · exact h1

/-- What a token's counting off leaves of a gang (R41, R85). -/
theorem Gang.keeps_countOff (g : Gang) (tag token now : Nat) (tracked : List Tracked) :
    g.Keeps { ((g.settleR tag).decK token now) with tracked := tracked } := .of_eq rfl rfl

theorem State.keepsGangs_endToken (s : State) (n tag : Nat) : s.KeepsGangs (s.endToken n tag) := by
  unfold State.endToken
  split
  · exact .refl s
  next g _ =>
    dsimp only
    refine State.KeepsGangs.trans (.map (twinOf n g) (fun h => ?_) rfl) (State.KeepsGangs.foldl _ (fun s i => s.keepsGangs_endGang i) _ _)
    split
    · exact .refl h
    · exact h.keeps_countOff ..

theorem State.keepsGangs_barEvent (s : State) (b o : Nat) (f : Bar → Bar) : s.KeepsGangs (s.barEvent b o f) := .of_gangs rfl

theorem State.keepsGangs_gangArrives (s : State) (n o : Nat) : s.KeepsGangs (s.gangArrives n o) := by
  unfold State.gangArrives
  split
  · exact .refl s
  · refine State.KeepsGangs.trans ?_ (State.keepsGangs_barEvent ..)
    exact .modGang fun g => .of_eq rfl rfl

theorem State.keepsGangs_exitEffect (s : State) (b i : Nat) : s.KeepsGangs (s.exitEffect b i) := by
  unfold State.exitEffect
  split
  · exact .refl s
  · refine State.KeepsGangs.foldl _ (fun s o => ?_) _ s
    split
    · exact .of_gangs rfl
    · exact .refl s

theorem State.keepsGangs_settleReleases (s : State) (n : Nat) : s.KeepsGangs (s.settleReleases n) := by
  unfold State.settleReleases
  refine State.KeepsGangs.trans (t := s.settleArrivals n) ?_ ?_
  · unfold State.settleArrivals
    split
    · exact .refl s
    · exact State.KeepsGangs.foldl _ (fun s _ => s.keepsGangs_gangArrives ..) _ s
  · unfold State.settleExit
    split
    · exact .refl _
    · split
      · refine State.KeepsGangs.trans ?_ (State.keepsGangs_exitEffect ..)
        exact .modGang fun g => .of_eq rfl rfl
      · exact .refl _

theorem State.keepsGangs_opDone (s : State) (id : Nat) : s.KeepsGangs (s.opDone id) := by
  unfold State.opDone
  split
  · exact .refl s
  next o _ =>
    split
    · exact .refl s
    · dsimp only
      have h1 : s.KeepsGangs (if o.token && (o.elts == [] || (o.kind == .store && decide (o.ord ≤ 1))) then
          (s.endToken o.gang o.at_).modOp id (fun o => { o with token := false }) else s) := by
        split
        · exact (s.keepsGangs_endToken ..).trans (.of_gangs rfl)
        · exact .refl s
      split
      · exact h1.trans (State.KeepsGangs.trans (t := State.dropOp _ id) (.of_gangs rfl) (State.keepsGangs_settleReleases ..))
      · exact h1

/-! ### What a trap leaves of a gang -/

theorem Gang.keeps_escalate (g : Gang) (sl : Option Nat) (tr : Trap) (m : Mask) (now : Nat) : g.Keeps (g.escalate sl tr m now) :=
  (g.keeps_modAgent sl _).trans (.of_eq rfl rfl)

theorem Gang.keeps_enterHandler (g : Gang) (sl : Option Nat) (tr : Trap) (m : Mask) (vec now : Nat) :
    g.Keeps (g.enterHandler sl tr m vec now) := by
  unfold Gang.enterHandler
  extract_lets ts wait start g1
  have h1 : g.Keeps g1 := Gang.keeps_foldl _ (fun g i => g.keeps_modSlice i _) _ g
  exact h1.trans (.of_eq rfl rfl)

theorem Gang.keeps_leaveHandler (g : Gang) (ts : TrapState) (skip : Option Nat) (now : Nat) : g.Keeps (g.leaveHandler ts skip now) :=
  (Gang.keeps_foldl _ (fun g (p : Nat × Slice) => g.keeps_modSlice p.1 _) _ g).trans (.of_eq rfl rfl)

theorem Gang.keeps_exit (g : Gang) (x : Gang) (m : Mask) (hk : x.kept = g.kept) (he : x.exited = g.exited ||| m) : g.Keeps x where
  kept := hk
  exited := by
    rw [he]
    ext i
    simp only [BitVec.getElem_and, BitVec.getElem_or]
    cases g.exited[i] <;> rfl

theorem State.keepsGangs_endShading (s : State) (g : Gang) (v : Nat) (px : List (Nat × Nat)) : s.KeepsGangs (s.endShading g v px) := by
  unfold State.endShading
  refine State.KeepsGangs.trans ?_ (State.keepsGangs_endGang ..)
  exact State.KeepsGangs.trans (t := State.modGang s g.id fun g => { (g.without g.live) with
    exited := g.exited ||| g.live, pendTraps := [], arrivals := [] }) (.modGang fun g => g.keeps_exit _ g.live rfl rfl) (.of_gangs rfl)

theorem State.keepsGangs_escalates (s : State) (g : Gang) (sl : Option Nat) (tr : Trap) (m : Mask) : s.KeepsGangs (s.escalates g sl tr m) := by
  have h1 : s.KeepsGangs (s.modGang g.id (fun g => g.escalate sl tr m s.pkg.clock)) := .modGang fun g => g.keeps_escalate ..
  unfold State.escalates
  dsimp only
  split
  · exact h1.trans (State.keepsGangs_endShading ..)
  · exact h1

theorem State.keepsGangs_takeTrap (s : State) (aid : AgentId) (tr : Trap) (m : Mask) : s.KeepsGangs (s.takeTrap aid tr m) := by
  cases hg : s.gang? aid.gang with
  | none => unfold State.takeTrap; rw [hg]; exact .refl s
  | some g =>
    rw [State.takeTrap_of hg]
    split
    · split
      · exact State.keepsGangs_escalates ..
      · exact .modGang fun g => g.keeps_modAgent ..
    · split
      · exact State.keepsGangs_escalates ..
      · refine State.KeepsGangs.trans ?_ (.of_gangs (State.cleanTrapState_eq ..).1)
        exact .modGang fun k => k.keeps_enterHandler ..

theorem Gang.keeps_backTo (g : Gang) (sl : Option Nat) (h : Gang) : g.Keeps (g.backTo sl h) := by
  unfold Gang.backTo
  refine Gang.keeps_foldl _ (fun g i => ?_) _ g
  split
  · exact g.keeps_modSlice ..
  · exact .refl g

theorem State.keepsGangs_twinMismatch (s : State) (a b : AgentId) (pc : Nat) (m : Mask) (x : Nat) :
    s.KeepsGangs (s.twinMismatch a b pc m x) := (s.keepsGangs_takeTrap ..).trans (State.keepsGangs_takeTrap ..)

theorem State.keepsGangs_trapAtNext (s : State) (aid : AgentId) (tr : Trap) (same : Gang → Bool) :
    s.KeepsGangs (s.trapAtNext aid tr same) := by
  unfold State.trapAtNext
  split
  · exact .refl s
  · split
    · exact s.keepsGangs_takeTrap ..
    · dsimp only
      split
      · exact (s.keepsGangs_takeTrap ..).trans (State.keepsGangs_takeTrap ..)
      · split
        · refine State.KeepsGangs.trans ?_ (State.keepsGangs_twinMismatch ..)
          exact .modGang fun k => k.keeps_backTo ..
        · exact s.keepsGangs_twinMismatch ..

/-! ### What follows a loss of lanes (R31, R33, R46, R330) -/

theorem State.keepsGangs_newFence (s : State) (n : Nat) (sl : Option Nat) (k sc : Nat) (c : Bool) : s.KeepsGangs (s.newFence n sl k sc c) :=
  .of_gangs rfl

theorem Gang.keeps_switched (g : Gang) (moves : List (Nat × Slice × Nat)) : g.Keeps (g.switched moves) :=
  (Gang.keeps_foldl _ (fun g (m : Nat × Slice × Nat) => g.keeps_modSlice m.1 _) moves g).trans
    (Gang.keeps_foldl _ (fun g _ => g.keeps_fold _) _ _)

theorem Gang.keeps_settleAll (n : Nat) (g : Gang) : g.Keeps (g.settleAll n).1 := by
  induction n generalizing g with
  | zero => exact .refl g
  | succ n ih =>
    unfold Gang.settleAll
    split
    · exact .refl g
    next r hr =>
      have h1 : g.Keeps r.1 := by
        unfold Gang.settleRound at hr
        dsimp only at hr
        split at hr
        · cases hr
        · cases hr; exact g.keeps_switched _
      exact h1.trans (ih r.1)

theorem State.keepsGangs_settleSlices (s : State) (n : Nat) : s.KeepsGangs (s.settleSlices n) := by
  unfold State.settleSlices
  split
  · exact .refl s
  next g hg =>
    exact State.KeepsGangs.trans (.put hg ((g.keeps_settleAll settleFuel).trans (Gang.keeps_repart _)))
      (State.KeepsGangs.foldl _ (fun s i => s.keepsGangs_newFence ..) _ _)

theorem Gang.keeps_regang (g : Gang) : g.Keeps g.regang := by
  have h1 : g.Keeps g.allPast := Gang.keeps_foldl _ (fun g i => g.keeps_modSlice i _) _ g
  have h2 : ∀ g : Gang, g.Keeps g.regangWhole := fun g =>
    (Gang.keeps_foldl _ (fun g i => g.keeps_modSlice i _) _ g).trans (.of_eq rfl rfl)
  unfold Gang.regang
  dsimp only
  split
  · exact .refl g
  · split
    · exact .refl g
    · split
      · exact h1.trans ((h2 _).trans (Gang.keeps_fold ..))
      · exact h1

theorem State.keepsGangs_regangs (s : State) (n : Nat) : s.KeepsGangs (s.regangs n) := by
  unfold State.regangs
  split
  · exact .refl s
  · split
    · exact .refl s
    · exact State.KeepsGangs.trans (.modGang Gang.keeps_regang) (State.keepsGangs_newFence ..)

theorem State.keepsGangs_badTrets (s : State) (g : Gang) (ts : TrapState) : s.KeepsGangs (State.trets.badTrets s g ts) := by
  unfold State.trets.badTrets
  refine State.KeepsGangs.foldl _ (fun s i => ?_) _ s
  split
  · exact s.keepsGangs_trapAtNext ..
  · exact .refl s

theorem State.keepsGangs_trets (s : State) (n : Nat) : s.KeepsGangs (s.trets n) := by
  unfold State.trets
  split
  · exact .refl s
  · split
    · exact .refl s
    · dsimp only
      split
      · exact .refl s
      · split
        · exact .refl s
        · split
          · split
            · exact s.keepsGangs_badTrets ..
            · refine State.KeepsGangs.trans ?_ (State.keepsGangs_settleSlices ..)
              exact .modGang fun k => k.keeps_leaveHandler ..
          · exact s.keepsGangs_badTrets ..
      · exact .refl s

theorem State.keepsGangs_dropParks (s : State) (n : Nat) : s.KeepsGangs (s.dropParks n) := by
  unfold State.dropParks
  split
  · exact .refl s
  · refine State.KeepsGangs.foldl _ (fun s p => ?_) _ s
    dsimp only
    split
    · refine State.KeepsGangs.trans ?_ (State.keepsGangs_opDone ..)
      exact .of_gangs rfl
    · exact .of_gangs rfl

theorem State.keepsGangs_consumed (s o : State) (n : Nat) : s.KeepsGangs (s.consumed o n) := by
  obtain ⟨e, he⟩ := s.consumed_eq o n
  rw [he]
  exact .of_gangs rfl

theorem State.keepsGangs_afterLoss (s : State) (n : Nat) : s.KeepsGangs (s.afterLoss n) := by
  unfold State.afterLoss
  split
  · exact .refl s
  next g _ =>
    dsimp only
    refine .trans ?_ (State.keepsGangs_endGang ..)
    refine .trans ?_ (State.keepsGangs_trets ..)
    refine .trans ?_ (State.keepsGangs_settleReleases ..)
    refine .trans ?_ (State.keepsGangs_regangs ..)
    refine .trans ?_ (State.keepsGangs_consumed ..)
    refine .trans ?_ (State.keepsGangs_settleSlices ..)
    exact (s.keepsGangs_dropParks n).trans (.modGang fun g => .of_eq rfl rfl)

end

end Sys2Proof.Machine
end

section
/-!
Lanes that exit: by EXIT, and by a RET outside any call (R46, R231, R235).
-/

namespace Sys2Proof.Machine

section
variable {s t u : State} {cls op : Nat} {f : Fields} {c : Ctx} {b : Body} {g h : Gang} {i : Instr}

/-! ### Masks, lane by lane -/

theorem hasLane_of_and {a b : Mask} {l : Nat} (h : hasLane (a &&& b) l = true) : hasLane a l = true ∧ hasLane b l = true := by
  rwa [hasLane_and, Bool.and_eq_true] at h

/-- A mask that holds every lane of another meets it in all of it. -/
theorem and_eq_of_hasLane {a b : Mask} (h : ∀ l, hasLane b l = true → hasLane a l = true) : a &&& b = b := by
  refine BitVec.eq_of_getLsbD_eq fun l _ => ?_
  rw [BitVec.getLsbD_and]
  cases hb : b.getLsbD l with
  | false => rw [Bool.and_false]
  | true => rw [show a.getLsbD l = true from h l hb]; rfl

/-- A lane of a union over a list is in what one of its members gives, or was there before. -/
theorem hasLane_foldl {α : Type} (f : Mask → α → Mask) (k : α → Mask) (hf : ∀ m a, f m a = m ||| k a) (l : List α) (m : Mask) (i : Nat) :
    hasLane (l.foldl f m) i = true ↔ hasLane m i = true ∨ ∃ a ∈ l, hasLane (k a) i = true := by
  induction l generalizing m with
  | nil => simp
  | cons a l ih =>
    rw [List.foldl_cons, ih, hf, hasLane_or, Bool.or_eq_true, or_assoc]
    simp only [List.mem_cons, exists_eq_or_imp]

theorem hasLane_live {l : Nat} : hasLane g.live l = true ↔ hasLane g.lanes l = true ∧ hasLane g.exited l = false ∧ hasLane g.dead l = false := by
  unfold Gang.live
  rw [hasLane_and, Bool.and_eq_true]
  refine and_congr_right fun hl => ?_
  have hlt : l < 32 := by
    refine Classical.byContradiction fun h => ?_
    exact absurd hl (by unfold hasLane; rw [BitVec.getLsbD_of_ge _ _ (Nat.le_of_not_lt h)]; decide)
  unfold hasLane
  rw [BitVec.getLsbD_not, BitVec.getLsbD_or]
  simp [hlt]

/-! ### Executing lanes -/

/-- An executing lane is a live active lane of one of the agent's running slices. -/
theorem Sees.exec_active (hs : Sees s cls op f c) {l : Nat} (hl : hasLane c.exec l = true) :
    ∃ q ∈ c.running, hasLane (q.2.active &&& c.g.live) l = true := by
  have hact : hasLane (c.g.activeOf c.aid.slice) l = true := by
    have h2 := hs.2
    unfold State.ctx? at h2
    dsimp only at h2
    split at h2
    · cases h2
    · split at h2
      · split at h2
        · cases h2
        · injection h2 with h2
          rw [← h2] at hl ⊢
          have hlim := (hasLane_of_and hl).1
          split at hlim
          · exact (hasLane_of_and hlim).1
          · exact hlim
      · cases h2
  unfold Gang.activeOf at hact
  rw [hasLane_foldl _ (fun i => (c.g.slice? i).elim 0 (fun x => x.active &&& c.g.live)) fun m i => by
    cases c.g.slice? i <;> simp] at hact
  obtain h0 | ⟨i, hi, hx⟩ := hact
  · exact absurd h0 (by simp [hasLane])
  cases hx' : c.g.slice? i with
  | none => rw [hx'] at hx; exact absurd hx (by simp [hasLane])
  | some x =>
    rw [hx'] at hx
    refine ⟨(i, x), Ctx.mem_running.2 ⟨hi, hx', fun h0 => ?_⟩, hx⟩
    rw [Option.elim_some, h0] at hx
    exact absurd hx (by simp [hasLane])

theorem Sees.exec_live (hs : Sees s cls op f c) {l : Nat} (hl : hasLane c.exec l = true) : hasLane c.g.live l = true := by
  obtain ⟨q, -, hq⟩ := hs.exec_active hl
  exact (hasLane_of_and hq).2

/-- Where every running slice is in no call, a RET ends all its lanes (R231). -/
theorem Sees.exiting_eq (hs : Sees s cls op f c) (hn : ∀ q ∈ c.running, q.2.calls = []) : c.exiting = c.exec := by
  unfold Ctx.exiting
  rw [BitVec.and_comm]
  refine and_eq_of_hasLane fun l hl => ?_
  obtain ⟨q, hq, hx⟩ := hs.exec_active hl
  unfold Ctx.lanesWhere
  rw [hasLane_foldl _ (fun q => if q.2.calls = [] then q.2.active &&& c.g.live else 0) fun m q => by
    by_cases e : q.2.calls = [] <;> simp [e]]
  exact .inr ⟨q, hq, by rw [if_pos (hn q hq)]; exact hx⟩

/-! ### Lanes exit -/

/-- A gang without lanes that exit. -/
def Gang.gone (g : Gang) (m : Mask) : Gang := { (g.without m) with exited := g.exited ||| m }

/-- Lanes that exit are among the exited ones after it; those that the gang no longer has alive were before. -/
theorem State.exitLanes_exits {n : Nat} {m : Mask} (hg : s.gang? n = some h) (hk : g.Keeps h) (hm : ∀ l, hasLane m l = true → hasLane g.live l = true) :
    ∃ k, (s.exitLanes n m).gang? n = some k ∧ g.Keeps k ∧ k.exited &&& (g.exited ||| m) = g.exited ||| m := by
  obtain ⟨-, -, -, hn, hd⟩ := hk.fields
  have hlanes : h.lanes = g.lanes := by unfold Gang.lanes; rw [hn]
  have hold : ∀ l, hasLane g.exited l = true → hasLane h.exited l = true := fun l hl => by
    rw [← hk.exited] at hl; exact (hasLane_of_and hl).2
  have hin : ∀ l, hasLane m l = true → hasLane h.exited l = true ∨ hasLane (m &&& h.live) l = true := fun l hl => by
    obtain ⟨h1, -, h3⟩ := hasLane_live.1 (hm l hl)
    cases he : hasLane h.exited l with
    | true => exact .inl rfl
    | false =>
      refine .inr ?_
      rw [hasLane_and, hl, hasLane_live.2 ⟨by rw [hlanes]; exact h1, he, by rw [hd]; exact h3⟩]; rfl
  have hall : ∀ e : Mask, (∀ l, hasLane h.exited l = true ∨ hasLane (m &&& h.live) l = true → hasLane e l = true) →
      e &&& (g.exited ||| m) = g.exited ||| m := fun e he => and_eq_of_hasLane fun l hl => by
    rw [hasLane_or, Bool.or_eq_true] at hl
    exact he l (hl.elim (fun h => .inl (hold l h)) (hin l))
  unfold State.exitLanes
  rw [hg]
  dsimp only
  by_cases h0 : m &&& h.live = 0
  · rw [if_pos h0]
    exact ⟨h, hg, hk, hall _ fun l hl => hl.elim id fun h => absurd h (by rw [h0]; simp [hasLane])⟩
  rw [if_neg h0]
  let w := h.gone (m &&& h.live)
  have hw : h.Keeps w := h.keeps_exit w _ rfl rfl
  have h1 : (s.modGang n (·.gone (m &&& h.live))).gang? n = some w :=
    (State.gang?_modGang_same (f := (·.gone (m &&& h.live))) fun g => rfl).trans (by rw [hg]; rfl)
  have h2 : ∀ v : State, v.gangs = (s.modGang n (·.gone (m &&& h.live))).gangs →
      ∃ k, (v.afterLoss n).gang? n = some k ∧ g.Keeps k ∧ k.exited &&& (g.exited ||| m) = g.exited ||| m := fun v hv => by
    obtain ⟨k, hk1, hk2⟩ := (v.keepsGangs_afterLoss n).gang n w (by rw [State.gang?, hv]; exact h1)
    refine ⟨k, hk1, hk.trans (hw.trans hk2), hall _ fun l hl => ?_⟩
    have : hasLane w.exited l = true := by rw [show w.exited = h.exited ||| m &&& h.live from rfl, hasLane_or, Bool.or_eq_true]; exact hl
    rw [← hk2.exited] at this
    exact (hasLane_of_and this).2
  split
  · exact h2 _ rfl
  · exact h2 _ rfl

/-! ### The end of an issue -/

theorem Ctx.keeps_leaves (c : Ctx) (s : State) (rst jumped : Bool) (g : Gang) : g.Keeps (c.leaves s rst jumped g) :=
  (Gang.keeps_foldl _ (fun g i => g.keeps_modSlice i _) _ g).trans (.of_eq rfl rfl)

theorem State.keepsGangs_endTurn (s : State) (e k : Nat) : s.KeepsGangs (s.endTurn e k) := by
  unfold State.endTurn
  dsimp only
  split <;> exact .of_gangs rfl

theorem State.keepsGangs_endBodies (s : State) (aid : AgentId) : s.KeepsGangs (s.endBodies aid) := by
  unfold State.endBodies
  split
  · exact .refl s
  next g hg =>
    split
    next h hh =>
      obtain ⟨l, rfl⟩ := Gang.endClauses_shape hh
      have hid : s.gang? g.id = some g := by rw [State.gang?_id hg]; exact hg
      exact .put hid (Gang.Keeps.trans (h := { g with slices := l }) (.of_eq rfl rfl) (Gang.keeps_repart _))
    next =>
      split
      · split
        · exact s.keepsGangs_trapAtNext ..
        · exact .refl s
      · exact .refl s

theorem State.keepsGangs_finish (s : State) (c : Ctx) (rst jumped : Bool) : s.KeepsGangs (s.finish c rst jumped) := by
  have h1 : s.KeepsGangs ((if s.errs.poison = [] then s else s.clearPoison c.cleans).modGang c.g.id (c.leaves s rst jumped)) := by
    refine State.KeepsGangs.trans ?_ (.modGang fun g => c.keeps_leaves ..)
    split
    · exact .refl s
    · exact .of_gangs rfl
  unfold State.finish
  extract_lets s1 s2
  have h2 : s.KeepsGangs s2 :=
    h1.trans (State.KeepsGangs.trans (t := { s1 with choice := s1.choice + 1 }) (.of_gangs rfl) (State.keepsGangs_endBodies _ c.aid))
  split
  · exact h2
  · exact h2.trans (State.keepsGangs_endTurn ..)

theorem Ctx.keepsGangs_send (c : Ctx) (s : State) (k : Nat → Slice → Slice) : s.KeepsGangs (c.send s k) :=
  .modGang fun g => Gang.keeps_foldl _ (fun g (q : Nat × Slice) => g.keeps_modSlice q.1 _) _ g

theorem State.keepsGangs_begun (s : State) (aid : AgentId) : s.KeepsGangs (s.begun aid) :=
  State.KeepsGangs.trans (t := { s with issuing := none }) (.of_gangs rfl) (.modGang fun g => g.keeps_modAgent ..)

/-- An instruction of which the executing lanes exit, after what keeps gangs. -/
theorem exits_of_jump (hi : exec i s = issueOp cls op f b s) (hs : Sees s cls op f c) (hu : c.Unhindered s (b.late c (s.begun c.aid)) (b.more c))
    (ht : b.target c (s.begun c.aid) = none) (hx : b.unassigned = none) (hn : b.needs c = [])
    (hk : (s.begun c.aid).KeepsGangs u) (hr : b.run c (s.begun c.aid) = .jump (u.exitLanes c.g.id c.exec)) :
    ∃ t g, exec i s = .next t ∧ t.gang? c.g.id = some g ∧ c.g.Keeps g ∧
      g.exited &&& (c.g.exited ||| c.exec) = c.g.exited ||| c.exec := by
  obtain ⟨e, hnext⟩ := issueOp_jumps hs hu ht hx (fun a ha => by rw [hn] at ha; cases ha) hr
  obtain ⟨hg, -⟩ := hs.spec
  obtain ⟨h, hh, hkeep⟩ := ((s.keepsGangs_begun c.aid).trans hk).gang _ _ hg
  obtain ⟨k, hk1, hk2, hk3⟩ := State.exitLanes_exits hh hkeep fun l hl => hs.exec_live hl
  obtain ⟨w, hw1, hw2⟩ := ((u.exitLanes c.g.id c.exec).keepsGangs_finish c (b.rst c) true).gang _ _ hk1
  refine ⟨_, w, hi.trans hnext, hw1, hk2.trans hw2, ?_⟩
  rw [← hk3, BitVec.and_comm w.exited, BitVec.and_assoc, BitVec.and_comm _ w.exited, ← BitVec.and_assoc, hw2.exited]

/-! ### No loop is left where none is open (R233) -/

theorem Slice.goTo_no_loops {x : Slice} (p : Point) (hx : x.loops = []) : (x.goTo p).2 = false ∧ (x.goTo p).1.loops = [] := by
  unfold Slice.goTo
  rw [hx]; exact ⟨rfl, rfl⟩

theorem Slice.arrive_no_loops {x : Slice} (hx : x.loops = []) : x.arrive.2 = false ∧ x.arrive.1.loops = [] := by
  unfold Slice.arrive
  split
  · exact ⟨rfl, hx⟩
  · split <;> exact Slice.goTo_no_loops _ hx

theorem Slice.settle_no_loops (n : Nat) {x : Slice} (hx : x.loops = []) : (x.settle n).2 = false := by
  induction n generalizing x with
  | zero => rfl
  | succ n ih =>
    unfold Slice.settle
    split
    · rfl
    · split
      · rfl
      next r hr =>
        have hstep : r.2.1 = false ∧ r.1.loops = [] := by
          unfold Slice.settleStep at hr
          dsimp only at hr
          split at hr
          · cases hr; exact Slice.arrive_no_loops hx
          · split at hr
            · cases hr
            · cases hr; exact Slice.goTo_no_loops _ (by rw [hx]; exact List.drop_nil)
        dsimp only
        rw [hstep.1, ih hstep.2]; rfl

theorem Slice.settle_without_no_loops {x : Slice} (p : Point) (m : Mask) (hx : x.loops = []) :
    (({ x with point := p }.without m).settle settleFuel).2 = false := Slice.settle_no_loops _ hx

/-- A RET outside loops leaves none below its depth. -/
theorem Slice.returns_no_loops {x : Slice} (r : Mask) (words : Nat) (hx : x.loops = []) : (x.returns r words).2 = false := by
  have hw : (x.waitsReturn r words).loops = [] := by unfold Slice.waitsReturn; dsimp only; split <;> exact hx
  unfold Slice.returns
  dsimp only
  split
  · rfl
  · split
    · exact Slice.settle_no_loops _ hw
    · exact Slice.settle_no_loops _ hw

theorem Ctx.loopTrap_of_zero {m : Mask} (h : m = 0) (s : State) (k : Res) : c.loopTrap s m k = k := if_neg fun hn => hn h

/-- What an instruction needs of the scoreboard it needs of fewer registers too. -/
theorem Ctx.Unhindered.fewer {more : List (RFile × Nat)} (hu : c.Unhindered s false more) : c.Unhindered s false [] where
  toUndisturbed := hu.toUndisturbed
  legal := hu.legal
  room := hu.room
  score := by
    have h := hu.score
    unfold Ctx.score at h ⊢
    split
    · rfl
    next hc =>
      rw [if_neg hc] at h
      dsimp only at h ⊢
      have hshort : c.stallShort (c.e.touches c.f ++ more) = none := by
        cases hk : c.stallShort (c.e.touches c.f ++ more) with
        | none => rfl
        | some aux => rw [hk] at h; cases h
      rw [hshort] at h
      dsimp only at h
      rw [Option.map_eq_none_iff] at h
      unfold Ctx.stallShort Ctx.hazard at *
      rw [List.filterMap_append, List.head?_eq_none_iff, List.append_eq_nil_iff] at hshort h
      rw [List.append_nil, hshort.1, h.1]; rfl

end

/-- Settles O24: what follows a loss of lanes, the end of the issue included, brings none of them back; with no loop open the
lanes that go leave none. -/
theorem lanesExit : Obligations.LanesExit := by
  intro f
  refine ⟨fun s c hs hu hl => ?exits, fun s c hs hu hl => ?returns⟩
  case exits =>
    have hnone : (c.lanesWhere (fun _ x => decide (x.active &&& c.exec ≠ 0) &&
        (({ x with point := x.point.skip c.words }.without (x.active &&& c.exec)).settle settleFuel).2)) = 0 :=
      c.lanesWhere_eq_zero fun q hq => by rw [Slice.settle_without_no_loops _ _ (hl q hq), Bool.and_false]
    have hkeep : (s.begun c.aid).KeepsGangs (c.send (c.foldFirst (s.begun c.aid)) (fun _ x => { x with point := x.point.skip c.words })) :=
      State.KeepsGangs.trans (t := c.foldFirst (s.begun c.aid)) (.modGang fun g => .of_eq rfl rfl) (c.keepsGangs_send _ _)
    obtain ⟨t, g, h1, h2, h3, h4⟩ := exits_of_jump (i := .exit f) rfl hs hu rfl rfl rfl hkeep
      (Ctx.loopTrap_of_zero hnone _ _)
    obtain ⟨-, -, -, -, hd⟩ := h3.fields
    exact ⟨t, g, h1, h2, h4, hd, h3.sameRegs⟩
  case returns =>
    have hex := hs.exiting_eq fun q hq => (hl q hq).1
    have hkeep : (s.begun c.aid).KeepsGangs ((c.send (c.foldFirst (s.begun c.aid))
        (fun _ x => x.waitsReturn (x.active &&& c.exec) c.words)).settleSlices c.g.id) :=
      State.KeepsGangs.trans (.trans (t := c.foldFirst (s.begun c.aid)) (.modGang fun g => .of_eq rfl rfl) (c.keepsGangs_send _ _))
        (State.keepsGangs_settleSlices _ _)
    obtain ⟨t, g, h1, h2, -, h4⟩ := exits_of_jump (i := .ret f) rfl hs (by dsimp only; split; exact hu.fewer; exact hu) rfl rfl rfl hkeep
      ((Ctx.loopTrap_of_zero (c.lanesWhere_eq_zero fun q hq => Slice.returns_no_loops _ _ (hl q hq).2) _ _).trans (by rw [hex]))
    exact ⟨t, g, h1, h2, h4⟩

end Sys2Proof.Machine
end

section
/-!
What the ends of operations and of gangs leave of the machine: all but gangs, blocks, launches and views, and the operations that are
done with (R41, R46, R184, R187, R220, R241, R301).
-/

namespace Sys2Proof.Machine

/-- The state without gangs, blocks, launches and views. -/
def State.apart (s : State) : State :=
  { s with gangs := [], blocks := [], launches := [], fresh := 0, fl := { s.fl with views := [] } }

/-- The same without operations. -/
def State.apartOps (s : State) : State := { s.apart with fl := { s.apart.fl with ops := [] } }

/-- What each step of a fold keeps the fold keeps. -/
theorem foldl_keeps {σ α β : Type} (k : σ → β) (f : σ → α → σ) (hf : ∀ s a, k (f s a) = k s) (l : List α) (s : σ) :
    k (l.foldl f s) = k s := by
  induction l generalizing s with
  | nil => rfl
  | cons a l ih => exact (ih (f s a)).trans (hf s a)

section
variable (s : State)

theorem State.apart_shadeEnded (b v : Nat) : (s.shadeEnded b v).apart = s.apart := by
  have hstart : ∀ (u t : State) l lv w, u.startNext l lv w = some t → t.apart = u.apart := fun u t l lv w h => by
    unfold State.startNext at h
    split at h
    · cases h
    · split at h <;> cases h
      rfl
  unfold State.shadeEnded
  dsimp only
  split
  · rfl
  next v' _ =>
    have h1 : ((((s.modView v (fun w => { w with running := w.running - 1 })).modBlock b (fun b => { b with ended := true })).startNext
        v'.launch v'.level v'.wing).getD
        ((s.modView v (fun w => { w with running := w.running - 1 })).modBlock b (fun b => { b with ended := true }))).apart = s.apart := by
      cases h : ((s.modView v (fun w => { w with running := w.running - 1 })).modBlock b (fun b => { b with ended := true })).startNext
          v'.launch v'.level v'.wing with
      | none => rfl
      | some t => exact (hstart _ _ _ _ _ h).trans rfl
    split <;> exact h1

theorem State.apart_endGang (n : Nat) : (s.endGang n).apart = s.apart := by
  unfold State.endGang
  split
  · rfl
  · split
    · rfl
    · dsimp only
      split
      · exact (State.apart_shadeEnded ..).trans rfl
      · rfl

theorem State.apart_endToken (n tag : Nat) : (s.endToken n tag).apart = s.apart := by
  unfold State.endToken
  split
  · rfl
  · exact (foldl_keeps State.apart _ (fun s i => s.apart_endGang i) _ _).trans rfl

theorem State.apart_gangArrives (n o : Nat) : (s.gangArrives n o).apart = s.apart := by
  unfold State.gangArrives
  split <;> rfl

theorem State.apart_exitEffect (b i : Nat) : (s.exitEffect b i).apart = s.apart := by
  unfold State.exitEffect
  split
  · rfl
  · exact foldl_keeps State.apart _ (fun s o => by split <;> rfl) _ _

theorem State.apart_settleReleases (n : Nat) : (s.settleReleases n).apart = s.apart := by
  have harr : (s.settleArrivals n).apart = s.apart := by
    unfold State.settleArrivals
    split
    · rfl
    · exact foldl_keeps State.apart _ (fun s a => s.apart_gangArrives ..) _ _
  unfold State.settleReleases State.settleExit
  split
  · exact harr
  · split
    · exact ((State.apart_exitEffect ..).trans rfl).trans harr
    · exact harr

/-- The end of an operation leaves the rest of the machine, and of each operation left its elements (R184, R187). -/
theorem State.opDone_keeps (id : Nat) : (s.opDone id).apartOps = s.apartOps ∧
    ∀ p ∈ (s.opDone id).fl.ops, ∃ q ∈ s.fl.ops, q.id = p.id ∧ q.elts = p.elts := by
  have hsame : ∀ p ∈ s.fl.ops, ∃ q ∈ s.fl.ops, q.id = p.id ∧ q.elts = p.elts := fun p hp => ⟨p, hp, rfl, rfl⟩
  unfold State.opDone
  split
  · exact ⟨rfl, hsame⟩
  next o _ =>
    split
    · exact ⟨rfl, hsame⟩
    · dsimp only
      have h1 : ∃ u : State, u = (if o.token && (o.elts == [] || (o.kind == .store && decide (o.ord ≤ 1))) then
          (s.endToken o.gang o.at_).modOp id (fun o => { o with token := false }) else s) ∧ u.apartOps = s.apartOps ∧
          ∀ p ∈ u.fl.ops, ∃ q ∈ s.fl.ops, q.id = p.id ∧ q.elts = p.elts := by
        refine ⟨_, rfl, ?_⟩
        split
        · have ht := s.apart_endToken o.gang o.at_
          refine ⟨congrArg (fun u : State => { u with fl := { u.fl with ops := [] } }) ht, fun p hp => ?_⟩
          obtain ⟨q, hq, rfl⟩ := List.mem_map.1 hp
          rw [show (s.endToken o.gang o.at_).fl.ops = s.fl.ops from congrArg (·.fl.ops) ht] at hq
          refine ⟨q, hq, ?_⟩
          split <;> exact ⟨rfl, rfl⟩
        · exact ⟨rfl, hsame⟩
      obtain ⟨u, hu, hkeep, hops⟩ := h1
      rw [← hu]
      split
      · have hr := (u.dropOp id).apart_settleReleases o.gang
        refine ⟨(congrArg (fun u : State => { u with fl := { u.fl with ops := [] } }) hr).trans hkeep, fun p hp => ?_⟩
        rw [show ((u.dropOp id).settleReleases o.gang).fl.ops = (u.dropOp id).fl.ops from congrArg (·.fl.ops) hr] at hp
        exact hops p (List.mem_filter.1 hp).1
      · exact ⟨hkeep, hops⟩

end

end Sys2Proof.Machine
end

section
/-!
Errors strike, links step down, planes are rehashed around (R343, R347, R352 to R357).
-/

namespace Sys2Proof.Machine

theorem mem_pair_iff {α : Type} {a b c : α} : a ∈ [b, c] ↔ a = b ∨ a = c := by
  rw [List.mem_cons, List.mem_singleton]

/-! ### Events of a live package -/

theorem alive_next {s t : State} (h : s.lives) : alive s (some t) = .next t := by
  unfold alive; rw [if_pos (State.lives_iff.1 h)]; rfl

theorem running_next {s t : State} (h : s.lives) (hb : 5 ≤ s.pkg.boot) : running s (some t) = .next t := by
  unfold running; rw [if_pos (by rw [State.lives_iff.1 h]; simpa using hb)]; rfl

/-! ### Errors (R343, R347, R351) -/

section
variable (s : State) (e : ErrSite)

theorem State.mem_countError (corr unc : Nat) (c : ErrSite × Nat × Nat) (hc : c.1 ≠ s.countKey e) :
    c ∈ (s.countError e corr unc).errs.counts ↔ c ∈ s.errs.counts := by
  show c ∈ (s.countKey e, _, _) :: s.errs.counts.filter (fun c => c.1 != s.countKey e) ↔ _
  rw [List.mem_cons, List.mem_filter]
  refine ⟨fun h => h.elim (fun h => absurd (congrArg Prod.fst h) hc) And.left, fun h => .inr ⟨h, bne_iff_ne.2 hc⟩⟩

theorem State.poisoned_addPoison : (s.addPoison e).poisoned e = true := by
  unfold State.addPoison State.poisoned
  split
  · assumption
  · simp

theorem State.addPoison_keeps : (s.addPoison e).mem = s.mem ∧ (s.addPoison e).out = s.out := by
  unfold State.addPoison
  split <;> exact ⟨rfl, rfl⟩

theorem State.strikeSlice_keeps (w a n : Nat) : (s.strikeSlice w a n).mem.bytes = s.mem.bytes ∧ (s.strikeSlice w a n).out = s.out := by
  unfold State.strikeSlice
  dsimp only
  split <;> exact ⟨rfl, rfl⟩

/-- A failed engine is marked; memory and what has gone out stay (R351). -/
theorem State.engineFails_spec (c : Nat) :
    (s.engineFails c).mem = s.mem ∧ (s.engineFails c).out = s.out ∧
    (s.engineFails c).errs.badEngines = (if s.errs.badEngines.contains c then s.errs.badEngines else c :: s.errs.badEngines) := by
  obtain ⟨u, hu, hmem, hout, hbad⟩ : ∃ u : State, (s.engineFails c).apart = u.apart ∧ u.mem = s.mem ∧ u.out = s.out ∧
      u.errs.badEngines = (if s.errs.badEngines.contains c then s.errs.badEngines else c :: s.errs.badEngines) := by
    unfold State.engineFails
    refine ⟨_, foldl_keeps State.apart _ (fun s j => ?_) _ _, rfl, rfl, rfl⟩
    split
    · exact s.apart_endToken ..
    · exact s.apart_settleReleases ..
  exact ⟨(congrArg State.mem hu).trans hmem, (congrArg State.out hu).trans hout, (congrArg (·.errs.badEngines) hu).trans hbad⟩

theorem State.strike_keeps : (s.strike e).mem.bytes = s.mem.bytes ∧ (s.strike e).out = s.out := by
  have hadd : ∀ e, (s.addPoison e).mem.bytes = s.mem.bytes ∧ (s.addPoison e).out = s.out := fun e =>
    ⟨congrArg Mem.bytes (s.addPoison_keeps e).1, (s.addPoison_keeps e).2⟩
  unfold State.strike
  split
  · exact ⟨rfl, rfl⟩
  · split
    · exact hadd _
    · exact s.strikeSlice_keeps ..
  · exact ⟨rfl, rfl⟩
  · split
    · exact hadd _
    · exact s.strikeSlice_keeps ..
  next c =>
    split
    · exact ⟨rfl, rfl⟩
    · obtain ⟨h1, h2, -⟩ := s.engineFails_spec c
      exact ⟨congrArg Mem.bytes h1, h2⟩
  · exact ⟨rfl, rfl⟩
  · exact ⟨rfl, rfl⟩
  · exact ⟨rfl, rfl⟩
  · exact hadd _

end

theorem mem_insertOnce (n : Nat) (l : List Nat) : n ∈ insertOnce n l := by
  unfold insertOnce
  split
  next h => exact List.contains_iff_mem.1 h
  · exact List.mem_append_right _ (List.mem_singleton_self n)

theorem mem_insertOnce_of_mem {m : Nat} (n : Nat) {l : List Nat} (h : m ∈ l) : m ∈ insertOnce n l := by
  unfold insertOnce
  split
  · exact h
  · exact List.mem_append_left _ h

/-- The engine struck is out of service. -/
theorem State.strike_engine (s : State) (c : Nat) : c ∈ (s.strike (.engine c)).errs.badEngines := by
  unfold State.strike
  dsimp only
  split
  next h => exact List.contains_iff_mem.1 h
  next h =>
    rw [(s.engineFails_spec c).2.2, if_neg h]
    exact List.mem_cons_self ..

theorem correctableError_counts {s : State} (hs : s.lives) {e : ErrSite} (he : s.siteThere e = true) :
    Happens (.correctableError e) s (fun t => t.errs.poison = s.errs.poison ∧ t.mem = s.mem ∧
      (let old := ((s.errs.counts.find? (fun c => c.1 == s.countKey e)).map (·.2)).getD (0, 0)
       (s.countKey e, old.1 + 1, old.2) ∈ t.errs.counts ∧
       ∀ c, c.1 ≠ s.countKey e → (c ∈ t.errs.counts ↔ c ∈ s.errs.counts))) := by
  refine ⟨s.countError e 1 0, ?_, rfl, rfl, List.mem_cons_self .., fun c hc => s.mem_countError e 1 0 c hc⟩
  show alive s (if s.siteThere e then _ else none) = _
  rw [if_pos he, alive_next hs]

theorem uncorrectableError_strikes {s : State} (hs : s.lives) {e : ErrSite} (he : s.siteThere e = true) :
    Happens (.uncorrectableError e) s (fun t => t.mem.bytes = s.mem.bytes ∧ Out.errorEvent e ∈ t.out ∧
      (∀ g r l, e = .dreg g r l → t.poisoned e = true) ∧ (∀ b w, e = .scratch b w → t.poisoned e = true) ∧
      (∀ u, e = .hbm u → t.poisoned e = true) ∧ (∀ n w, e = .l2 n w true → ∀ c ∈ t.mem.copies, ¬(c.wing = n ∧ c.line = w / 32)) ∧
      (∀ c, e = .engine c → c ∈ t.errs.badEngines) ∧ (∀ w, e = .sketchUnit w → w ∈ t.errs.deadSketch)) := by
  obtain ⟨hbytes, hout⟩ := (s.reportError e).strike_keeps e
  refine ⟨(s.reportError e).strike e, ?_, hbytes, ?_, ?_, ?_, ?_, ?_, ?_, ?_⟩
  · show alive s (if s.siteThere e then _ else none) = _
    rw [if_pos he, alive_next hs]
  · rw [hout]; exact List.mem_append_right _ (List.mem_singleton_self _)
  · rintro g r l rfl; exact State.poisoned_addPoison ..
  · rintro b w rfl; exact State.poisoned_addPoison ..
  · rintro u rfl; exact State.poisoned_addPoison ..
  · rintro n w rfl c hc ⟨hw, hl⟩
    have := (List.mem_filter.1 hc).2
    simp [hw, hl] at this
  · rintro c rfl; exact State.strike_engine ..
  · rintro w rfl; exact mem_insertOnce ..

/-! ### Links (R352, R353) -/

section
variable {s t : State} {l : Link} {x : LinkState} {n p : Nat}

/-- A link changed, where the change keeps its name. -/
theorem State.link?_modLink (l' : Link) {f : LinkState → LinkState} (hf : ∀ x, (f x).link = x.link) :
    (s.modLink l' f).link? l = (s.link? l).map (fun x => if x.link == l' then f x else x) := by
  unfold State.link? State.modLink
  exact find?_mapWhere _ _ _ _ fun x _ => by rw [hf]

theorem State.link?_link (h : s.link? l = some x) : x.link = l :=
  beq_iff_eq.1 (List.find?_some (p := fun x : LinkState => x.link == l) h)

theorem State.link?_modLink_same {f : LinkState → LinkState} (hf : ∀ x, (f x).link = x.link) (h : s.link? l = some x) :
    (s.modLink l f).link? l = some (f x) := by
  rw [State.link?_modLink l hf, h, Option.map_some, if_pos (beq_iff_eq.2 (State.link?_link h))]

/-- A link as it is left when it goes down. -/
def LinkState.down (x : LinkState) : LinkState := { x with up := false, retraining := false }

/-- A link that is down stays down while others are taken down. -/
theorem State.link?_down (l' : Link) (h : ∃ y, s.link? l = some y ∧ y.up = false) :
    ∃ y, (s.modLink l' LinkState.down).link? l = some y ∧ y.up = false := by
  obtain ⟨y, hy, hup⟩ := h
  refine ⟨_, (State.link?_modLink l' (f := LinkState.down) fun _ => rfl).trans (congrArg (Option.map _) hy), ?_⟩
  dsimp only
  split
  · rfl
  · exact hup

/-! ### Planes (R356) -/

theorem bitAt_or (a b j : Nat) : bitAt (a ||| b) j = (bitAt a j || bitAt b j) := by
  have h : ∀ n, bitAt n j = n.testBit j := fun _ => Nat.testBit_eq_decide_div_mod_eq.symm
  rw [h, h, h, Nat.testBit_or]

theorem bitAt_pow (j : Nat) : bitAt (2 ^ j) j = true := by
  unfold bitAt; rw [Nat.div_self (Nat.two_pow_pos j)]; rfl

/-- With no rehash in course one starts with these planes and with what is on its way. -/
theorem State.startRehash_of_none (h : s.pkg.rehash = none) (m : Nat) :
    s.startRehash m = { s with pkg := { s.pkg with rehash := some ⟨m, s.fresh, false, s.sentNow⟩ } } := by
  unfold State.startRehash
  rw [h]
  dsimp only [Option.getD_none]
  rw [Nat.zero_or]

/-- The planes that a rehash is about after it has started: those it was about, and the new ones. -/
theorem State.startRehash_dead (m : Nat) : ∃ r, (s.startRehash m).pkg.rehash = some r ∧
    ∀ j, bitAt r.dead j = (bitAt m j || (match s.pkg.rehash with | some r => bitAt r.dead j | none => false)) := by
  refine ⟨_, rfl, fun j => ?_⟩
  cases h : s.pkg.rehash with
  | none => dsimp only [Option.getD_none]; rw [Nat.zero_or, Bool.or_false]
  | some r => dsimp only [Option.getD_some]; rw [bitAt_or, Bool.or_comm]

/-- A plane that dies is alive no longer; another is as it was. -/
theorem State.planeAlive_planeDies (q : Nat) : (s.planeDies p).planeAlive q = (!bitAt (2 ^ p) q && s.planeAlive q) := by
  obtain ⟨r, hr, hd⟩ := s.startRehash_dead (2 ^ p)
  have hr' : (s.planeDies p).pkg.rehash = some r := hr
  unfold State.planeAlive
  rw [hr']
  dsimp only
  rw [hd q, Bool.not_or, show (s.planeDies p).pkg.planeLive = s.pkg.planeLive from rfl]
  cases bitAt s.pkg.planeLive q <;> cases bitAt (2 ^ p) q <;> rfl

theorem State.planeAlive_planeOut_self : (s.planeOut p).planeAlive p = false := by
  unfold State.planeOut
  split
  · rw [State.planeAlive_planeDies, bitAt_pow]; rfl
  next h => simpa using h

theorem State.planeAlive_planeOut (q : Nat) (h : s.planeAlive q = false) : (s.planeOut p).planeAlive q = false := by
  unfold State.planeOut
  split
  · rw [State.planeAlive_planeDies, h, Bool.and_false]
  · exact h

theorem State.planeOut_of_alive (h : s.planeAlive p = true) : s.planeOut p = s.planeDies p := if_pos h

theorem State.planeOut_keeps : (s.planeOut p).pkg.links = s.pkg.links ∧ (s.planeOut p).pkg.badDies = s.pkg.badDies := by
  unfold State.planeOut
  split <;> exact ⟨rfl, rfl⟩

/-! ### A die out of service (R353; log 74) -/

/-- One port of a die that goes out. -/
def State.portOut (s : State) (p : Nat) : State :=
  (s.modLink (.port p) LinkState.down).planeOut p

theorem State.link?_congr (h : t.pkg.links = s.pkg.links) : t.link? l = s.link? l := by unfold State.link?; rw [h]

theorem State.portOut_keeps : (s.portOut p).pkg.badDies = s.pkg.badDies ∧
    (∀ q, s.planeAlive q = false → (s.portOut p).planeAlive q = false) ∧
    ((∃ y, s.link? l = some y ∧ y.up = false) → ∃ y, (s.portOut p).link? l = some y ∧ y.up = false) := by
  refine ⟨State.planeOut_keeps.2, fun q h => State.planeAlive_planeOut q h, fun h => ?_⟩
  unfold State.portOut
  rw [State.link?_congr State.planeOut_keeps.1]
  exact State.link?_down _ h

theorem State.portsOut_spec (ps : List Nat) (s : State) :
    (ps.foldl State.portOut s).pkg.badDies = s.pkg.badDies ∧
    (∀ q, s.planeAlive q = false ∨ q ∈ ps → (ps.foldl State.portOut s).planeAlive q = false) ∧
    ((∃ y, s.link? l = some y ∧ y.up = false) → ∃ y, (ps.foldl State.portOut s).link? l = some y ∧ y.up = false) := by
  induction ps generalizing s with
  | nil => exact ⟨rfl, fun q h => h.elim id nofun, id⟩
  | cons p ps ih =>
    obtain ⟨h1, h2, h3⟩ := ih (s.portOut p)
    obtain ⟨k1, k2, k3⟩ := State.portOut_keeps (s := s) (p := p) (l := l)
    refine ⟨h1.trans k1, fun q hq => h2 q ?_, fun h => h3 (k3 h)⟩
    rcases hq with hq | hq
    · exact .inl (k2 q hq)
    rcases List.mem_cons.1 hq with rfl | hq
    · exact .inl State.planeAlive_planeOut_self
    · exact .inr hq

theorem State.dieOut_spec (n : Nat) (hl : ∃ y, s.link? l = some y ∧ y.up = false) :
    (∃ y, (s.dieOut n).link? l = some y ∧ y.up = false) ∧ n ∈ (s.dieOut n).pkg.badDies ∧
    ∀ p, p < 8 → p / 2 = n → (s.dieOut n).planeAlive p = false := by
  have h := State.portsOut_spec (l := l) ((List.range 8).filter (fun p => dieOfPlane p == n))
    (({ s with pkg := { s.pkg with badDies := insertOnce n s.pkg.badDies } }).emit (.report 0 n))
  obtain ⟨h1, h2, h3⟩ := h
  refine ⟨h3 hl, ?_, fun p hp hn => h2 p (.inr (List.mem_filter.2 ⟨List.mem_range.2 hp, beq_iff_eq.2 hn⟩))⟩
  rw [show (s.dieOut n).pkg.badDies = _ from h1]
  exact mem_insertOnce n _

/-- What a link that goes down takes with it (R352, R353; log 61). -/
theorem State.linkDown_spec (hx : s.link? l = some x) :
    (∃ y, (s.linkDown l).link? l = some y ∧ y.up = false) ∧
    (∀ n, l = .port n → s.planeAlive n = true → ∃ r, (s.linkDown l).pkg.rehash = some r ∧ bitAt r.dead n = true) ∧
    (∀ n, (l = .ring n ∨ l = .hub n) → n ∈ (s.linkDown l).pkg.badDies ∧
      ∀ p, p < 8 → p / 2 = n → s.planeAlive p = true → (s.linkDown l).planeAlive p = false) := by
  have hdown : ∃ y, (s.modLink l LinkState.down).link? l = some y ∧ y.up = false :=
    ⟨_, State.link?_modLink_same (fun _ => rfl) hx, rfl⟩
  cases l with
  | port n =>
    refine ⟨?_, fun m hm ha => ?_, fun m hm => by simp at hm⟩
    · show ∃ y, (State.planeOut _ n).link? _ = some y ∧ _
      rw [State.link?_congr State.planeOut_keeps.1]; exact hdown
    · cases hm
      show ∃ r, ((s.modLink (.port n) LinkState.down).planeOut n).pkg.rehash = some r ∧ _
      rw [State.planeOut_of_alive (s := s.modLink (.port n) LinkState.down) ha]
      obtain ⟨r, hr, hd⟩ := State.startRehash_dead (s := s.modLink (.port n) LinkState.down) (2 ^ n)
      exact ⟨r, hr, by rw [hd, bitAt_pow]; rfl⟩
  | ring n =>
    obtain ⟨h1, h2, h3⟩ := State.dieOut_spec n hdown
    refine ⟨h1, (nofun), fun m hm => ?_⟩
    obtain rfl : n = m := by simpa using hm
    exact ⟨h2, fun p hp hn _ => h3 p hp hn⟩
  | hub n =>
    obtain ⟨h1, h2, h3⟩ := State.dieOut_spec n hdown
    refine ⟨h1, (nofun), fun m hm => ?_⟩
    obtain rfl : n = m := by simpa using hm
    exact ⟨h2, fun p hp hn _ => h3 p hp hn⟩

/-- A link that is up and errs steps down, or goes down from its last notch. -/
theorem State.stepDown_of_up (hx : s.link? l = some x) (hu : x.up = true) :
    s.stepDown l = some (if x.notch = 3 then s.linkDown l
      else s.modLink l (fun x => { x with notch := x.notch + 1, retraining := true, replays := 0 })) := by
  unfold State.stepDown
  rw [hx, Option.bind_some, hu]
  exact (if_neg (by decide)).trans (apply_ite some ..).symm

end

end Sys2Proof.Machine
end

section
/-!
The rehash around dead planes (R355 to R357), and what errors and links do (R343, R347, R352, R353).
-/

namespace Sys2Proof.Machine

/-! ### Sums of digits -/

/-- The sum of eight digits below `b`, each at its place. -/
theorem digit_of_sum {b : Nat} (hb : 0 < b) (d : Nat → Nat) (hd : ∀ i, d i < b) (n i : Nat) (hi : i < n) :
    (List.range n).foldl (fun acc i => acc + d i * b ^ i) 0 / b ^ i % b = d i := by
  have hlt : ∀ n, (List.range n).foldl (fun acc i => acc + d i * b ^ i) 0 < b ^ n := fun n => by
    induction n with
    | zero => exact Nat.one_pos
    | succ n ih =>
      rw [List.range_succ, List.foldl_append, List.foldl_cons, List.foldl_nil, Nat.pow_succ, Nat.mul_comm _ b]
      calc _ < b ^ n + d n * b ^ n := Nat.add_lt_add_right ih _
        _ = (d n + 1) * b ^ n := by rw [Nat.add_mul, Nat.one_mul, Nat.add_comm]
        _ ≤ b * b ^ n := Nat.mul_le_mul_right _ (hd n)
  induction n with
  | zero => exact absurd hi (Nat.not_lt_zero i)
  | succ n ih =>
    rw [List.range_succ, List.foldl_append, List.foldl_cons, List.foldl_nil]
    rcases Nat.lt_succ_iff_lt_or_eq.1 hi with h | rfl
    · have hpow : d n * b ^ n = d n * b ^ (n - i - 1) * b * b ^ i := by
        rw [Nat.mul_assoc, Nat.mul_assoc, ← Nat.pow_succ', ← Nat.pow_add]
        congr 2; omega
      rw [hpow, Nat.add_mul_div_right _ _ (Nat.pow_pos hb), Nat.add_mul_mod_self_right, ih h]
    · rw [Nat.add_mul_div_right _ _ (Nat.pow_pos hb), Nat.div_eq_of_lt (hlt i), Nat.zero_add, Nat.mod_eq_of_lt (hd i)]

/-! ### The new map (R355) -/

theorem liveFrom_lt {live p : Nat} (hp : p < 8) : liveFrom live p < 8 := by
  unfold liveFrom
  cases h : ((List.range 8).map (fun i => (p + i) % 8)).find? (bitAt live) with
  | none => exact hp
  | some q =>
    obtain ⟨i, -, rfl⟩ := List.mem_map.1 (List.mem_of_find?_eq_some h)
    exact Nat.mod_lt _ (by decide)

/-- Where a plane lives the search upward finds one that does. -/
theorem liveFrom_live {live p j : Nat} (hj : j < 8) (hl : bitAt live j = true) (hp : p < 8) : bitAt live (liveFrom live p) = true := by
  unfold liveFrom
  cases h : ((List.range 8).map (fun i => (p + i) % 8)).find? (bitAt live) with
  | none =>
    refine absurd hl (List.find?_eq_none.1 h j (List.mem_map.2 ⟨(j + 8 - p) % 8, List.mem_range.2 (Nat.mod_lt _ (by decide)), ?_⟩))
    omega
  | some q => exact List.find?_some h

/-- A plane that lives stays where it is. -/
theorem liveFrom_of_live {live p : Nat} (hp : p < 8) (hl : bitAt live p = true) : liveFrom live p = p := by
  have hhead : (List.range 8).map (fun i => (p + i) % 8) = p :: [1, 2, 3, 4, 5, 6, 7].map (fun i => (p + i) % 8) := by
    rw [show List.range 8 = 0 :: [1, 2, 3, 4, 5, 6, 7] from rfl, List.map_cons, Nat.add_zero, Nat.mod_eq_of_lt hp]
  unfold liveFrom
  rw [hhead, List.find?_cons, hl]; rfl

theorem newMap_entry (m live : Nat) {i : Nat} (hi : i < 8) : newMap m live / 8 ^ i % 8 = liveFrom live (m / 8 ^ i % 8) :=
  digit_of_sum (by decide) (fun i => liveFrom live (mapEntry m i)) (fun i => liveFrom_lt (Nat.mod_lt _ (by decide))) 8 i hi

theorem bitAt_maskMinus (live dead : Nat) {j : Nat} (hj : j < 8) : bitAt (maskMinus live dead) j = (bitAt live j && !bitAt dead j) := by
  have hf : maskMinus live dead = (List.range 8).foldl (fun acc j => acc + (bitAt live j && !bitAt dead j).toNat * 2 ^ j) 0 := by
    unfold maskMinus
    congr 1
    funext acc j
    cases bitAt live j && !bitAt dead j <;> simp
  unfold bitAt at hf ⊢
  rw [hf, digit_of_sum (by decide) _ (fun i => Bool.toNat_lt _) 8 j hj]
  cases live / 2 ^ j % 2 == 1 && !(dead / 2 ^ j % 2 == 1) <;> rfl

section
variable {s : State} {r : Rehash}

/-- Where nothing that had been sent is left, the rehash loses nothing (R356). -/
theorem State.loseAtomic_none (h : ∀ o ∈ s.fl.ops, ∀ e ∈ o.elts, ∀ a, e.phys? = some a → r.sent o.id a = false) (i : Nat) :
    s.loseAtomic r i = s := by
  have hstep : ∀ p : Nat, ∀ o, s.op? i = some o → s.lostElts r o p = [] := fun p o ho => by
    have hmem := List.mem_of_find?_eq_some ho
    refine List.filter_eq_nil_iff.2 fun e he => ?_
    cases hp : e.phys? with
    | none => simp
    | some a => simp [h o hmem e he a hp]
  unfold State.loseAtomic
  induction List.range 8 with
  | nil => rfl
  | cons p l ih =>
    rw [List.foldl_cons]
    refine Eq.trans (congrArg (fun u => l.foldl _ u) ?_) ih
    cases ho : s.op? i with
    | none => rfl
    | some o =>
      dsimp only
      split
      · rw [hstep p o ho]; rfl
      · rfl

theorem State.drained_eq (gone : List Nat) (h : ∀ o ∈ s.fl.ops, ∀ e ∈ o.elts, ∀ a, e.phys? = some a → r.sent o.id a = false) :
    s.drained r gone = { s with pkg := { s.pkg with
      planeLive := maskMinus s.pkg.planeLive r.dead
      planeMap := newMap s.pkg.planeMap (maskMinus s.pkg.planeLive r.dead)
      planeEpoch := (s.pkg.planeEpoch + 1) % 2 ^ 16
      rehash := s.pkg.rehash.map (fun r => { r with installed := true })
      departed := gone.foldl (fun l g => if g = s.pkg.pkgid then l else insertOnce g l) s.pkg.departed } } := by
  have hfold : ∀ l : List Nat, l.foldl (fun s i => s.loseAtomic r i) s = s := fun l => by
    induction l with
    | nil => rfl
    | cons i l ih => rw [List.foldl_cons, State.loseAtomic_none h, ih]
  unfold State.drained
  simp only [hfold]

/-- A package that has gone, other than this one, has left the domain. -/
theorem mem_departed (own : Nat) (gone : List Nat) (l : List Nat) {g : Nat} (hg : g ∈ l ∨ g ∈ gone ∧ g ≠ own) :
    g ∈ gone.foldl (fun l g => if g = own then l else insertOnce g l) l := by
  induction gone generalizing l with
  | nil => exact hg.elim id fun h => absurd h.1 List.not_mem_nil
  | cons k gone ih =>
    refine ih _ ?_
    dsimp only
    rcases hg with hg | ⟨hg, hn⟩
    · left; split
      · exact hg
      · exact mem_insertOnce_of_mem k hg
    rcases List.mem_cons.1 hg with rfl | hg
    · left; rw [if_neg hn]; exact mem_insertOnce ..
    · exact .inr ⟨hg, hn⟩

end

/-! ### Events of links and planes -/

section
variable {s : State} {l : Link} {x : LinkState}

theorem link_errs (hs : s.lives) (hx : s.link? l = some x) (hu : x.up = true) {i : Instr}
    (hi : i ∈ [Instr.eyeMarginLow l, .symbolCountExceeded l]) :
    (x.notch ≠ 3 → Happens i s (fun t => t.mem = s.mem ∧
        t.link? l = some { x with notch := x.notch + 1, retraining := true, replays := 0 })) ∧
      (x.notch = 3 → Happens i s (fun t => (∃ y, t.link? l = some y ∧ y.up = false) ∧
        (∀ n, l = .port n → s.planeAlive n = true → ∃ r, t.pkg.rehash = some r ∧ bitAt r.dead n = true) ∧
        (∀ n, (l = .ring n ∨ l = .hub n) → n ∈ t.pkg.badDies ∧
          ∀ p, p < 8 → p / 2 = n → s.planeAlive p = true → t.planeAlive p = false))) := by
  have hexec : exec i s = alive s (s.stepDown l) := by
    rcases mem_pair_iff.1 hi with rfl | rfl <;> rfl
  rw [State.stepDown_of_up hx hu, alive_next hs] at hexec
  refine ⟨fun hn => ?_, fun hn => ?_⟩
  · rw [if_neg hn] at hexec
    exact ⟨_, hexec, rfl, State.link?_modLink_same (fun _ => rfl) hx⟩
  · rw [if_pos hn] at hexec
    exact ⟨_, hexec, State.linkDown_spec hx⟩

theorem flit_fails (hs : s.lives) (hx : s.link? l = some x) (hu : x.up = true) (hr : x.replays < 8) :
    Happens (.flitCrcFail l) s (fun t => ∃ k, t.link? l = some { x with replays := k } ∧ 1 ≤ k ∧ k ≤ x.replays + 1 ∧ t.mem = s.mem) := by
  let k := if (s.choose 2).1 = 0 then 1 else x.replays + 1
  have hk : 1 ≤ k ∧ k ≤ x.replays + 1 := by unfold k; split <;> omega
  have hfail : s.crcFail l = some ((s.choose 2).2.modLink l (fun x => { x with replays := k })) := by
    unfold State.crcFail
    rw [hx, Option.bind_some, hu]
    exact (if_neg (by decide)).trans (if_pos (by omega))
  refine ⟨_, ?_, k, State.link?_modLink_same (s := (s.choose 2).2) (f := fun x => { x with replays := k }) (fun _ => rfl) hx, hk.1, hk.2, rfl⟩
  show alive s (s.crcFail l) = _
  rw [hfail, alive_next hs]

theorem retrain_completes (hs : s.lives) (hx : s.link? l = some x) (hu : x.up = true) (hr : x.retraining = true) :
    Happens (.retrainComplete l) s (fun t => t.link? l = some { x with retraining := false }) := by
  refine ⟨_, ?_, State.link?_modLink_same (f := fun x => { x with retraining := false }) (fun _ => rfl) hx⟩
  show alive s ((s.link? l).bind _) = _
  rw [hx, Option.bind_some, hu, hr]
  exact alive_next hs

theorem retrain_requested (hs : s.lives) (hx : s.link? l = some x) (hu : x.up = true) (up : Bool) (hb : 5 ≤ s.pkg.boot) :
    Happens (.retrainRequest l up) s (fun t => t.link? l =
      some { x with retraining := true, notch := if up then x.notch - 1 else x.notch }) := by
  refine ⟨_, ?_, State.link?_modLink_same
    (f := fun x => { x with retraining := true, notch := if up then x.notch - 1 else x.notch }) (fun _ => rfl) hx⟩
  show running s ((s.link? l).bind _) = _
  rw [hx, Option.bind_some, hu]
  exact running_next hs hb

end

section
variable {s : State}

theorem signal_lost (hs : s.lives) {p : Nat} (hp : p < 8) (ha : s.planeAlive p = true) (hr : s.pkg.rehash = none) :
    Happens (.signalLoss p) s (fun t => t.mem = s.mem ∧
      t.pkg.rehash = some ⟨2 ^ p, s.fresh, false, s.sentNow⟩ ∧ t.out = s.out ++ [.quiesce (2 ^ p)]) := by
  refine ⟨s.planeDies p, ?_, rfl, ?_, ?_⟩
  · show alive s (if p < 8 ∧ s.planeAlive p then _ else none) = _
    rw [if_pos ⟨hp, ha⟩, alive_next hs]
  · unfold State.planeDies; rw [State.startRehash_of_none hr]; rfl
  · unfold State.planeDies; rw [State.startRehash_of_none hr]; rfl

theorem quiesced (hs : s.lives) {m j : Nat} (hj : j < 8) (hm : bitAt m j = true) (ha : s.planeAlive j = true) (hr : s.pkg.rehash = none) :
    Happens (.quiesce m) s (fun t => t.mem = s.mem ∧ t.pkg.rehash = some ⟨m % 256, s.fresh, false, s.sentNow⟩) := by
  refine ⟨s.startRehash (m % 256), ?_, rfl, ?_⟩
  · show alive s (some (if _ then _ else _)) = _
    rw [if_pos (List.any_eq_true.2 ⟨j, List.mem_range.2 hj, by rw [hm, ha]; rfl⟩), alive_next hs]
  · rw [State.startRehash_of_none hr]

theorem quiesce_of_none (hs : s.lives) {m : Nat} (h : ∀ j, j < 8 → ¬(bitAt m j = true ∧ s.planeAlive j = true)) :
    exec (.quiesce m) s = .next s := by
  show alive s (some (if _ then _ else _)) = _
  rw [if_neg, alive_next hs]
  rw [List.any_eq_true]
  rintro ⟨j, hj, h2⟩
  exact h j (List.mem_range.1 hj) (by simpa using h2)

theorem rehash_drained (hs : s.lives) {r : Rehash} (gone : List Nat) (hr : s.pkg.rehash = some r) (hi : r.installed = false)
    (hu : s.unanswered r (fun p => !bitAt r.dead p) = false)
    (hn : ∀ o ∈ s.fl.ops, ∀ e ∈ o.elts, ∀ a, e.phys? = some a → r.sent o.id a = false) :
    Happens (.rehashDrainDone gone) s (fun t =>
      t.pkg.rehash = some { r with installed := true } ∧ t.pkg.planeEpoch = (s.pkg.planeEpoch + 1) % 2 ^ 16 ∧
      (∀ j, j < 8 → bitAt t.pkg.planeLive j = (bitAt s.pkg.planeLive j && !bitAt r.dead j)) ∧
      ((∃ j, j < 8 ∧ bitAt t.pkg.planeLive j = true) → ∀ i, i < 8 →
        bitAt t.pkg.planeLive (t.pkg.planeMap / 8 ^ i % 8) = true ∧
        (bitAt t.pkg.planeLive (s.pkg.planeMap / 8 ^ i % 8) = true →
          t.pkg.planeMap / 8 ^ i % 8 = s.pkg.planeMap / 8 ^ i % 8)) ∧
      ∀ g ∈ gone, g ≠ s.pkg.pkgid → g ∈ t.pkg.departed) := by
  have hentry : ∀ i, s.pkg.planeMap / 8 ^ i % 8 < 8 := fun i => Nat.mod_lt _ (by decide)
  refine ⟨s.drained r gone, ?_, ?_⟩
  · show alive s (match s.pkg.rehash with | some r => _ | none => none) = _
    rw [hr]
    dsimp only
    rw [hi, hu]
    exact alive_next hs
  rw [State.drained_eq gone hn, hr]
  refine ⟨rfl, rfl, fun j hj => bitAt_maskMinus _ _ hj, fun ⟨j, hj, hl⟩ i hi => ?_, fun g hg hne => mem_departed _ gone _ (.inr ⟨hg, hne⟩)⟩
  dsimp only at hl ⊢
  rw [newMap_entry _ _ hi]
  exact ⟨liveFrom_live hj hl (hentry i), liveFrom_of_live (hentry i)⟩

theorem rehash_resumes (hs : s.lives) {r : Rehash} (hr : s.pkg.rehash = some r) (hi : r.installed = true)
    (hu : s.unanswered r (fun _ => true) = false) : Happens .rehashResume s (fun t => t.pkg.rehash = none ∧ t.mem = s.mem) := by
  refine ⟨{ s with pkg := { s.pkg with rehash := none } }, ?_, rfl, rfl⟩
  show alive s (match s.pkg.rehash with | some r => _ | none => none) = _
  rw [hr]
  dsimp only
  rw [hi, hu]
  exact alive_next hs

end

/-- Settles O53, event by event. -/
theorem errorAndLinkEvents : Obligations.ErrorAndLinkEvents := by
  intro s hs
  exact ⟨fun e he => ⟨correctableError_counts hs he, uncorrectableError_strikes hs he⟩,
    fun l x hx hu => ⟨fun i hi => link_errs hs hx hu hi, flit_fails hs hx hu, retrain_completes hs hx hu, retrain_requested hs hx hu⟩,
    fun p hp ha hr => signal_lost hs hp ha hr, fun m j hj hm ha hr => quiesced hs hj hm ha hr, fun m h => quiesce_of_none hs h,
    fun r gone hr hi hu hn => rehash_drained hs gone hr hi hu hn, fun r hr hi hu => rehash_resumes hs hr hi hu⟩

end Sys2Proof.Machine
end

section
/-!
Power, start-up, mailboxes, the answers of SPDM and the firmware's update (R22 to R25, R315, R358 to R365).
-/

namespace Sys2Proof.Machine

/-! ### Events of the management interface -/

section
variable {s t u : State}

theorem managed_next (h : s.pkg.powered = true) : managed s (some t) = .next t := by
  unfold managed; rw [if_pos h]; rfl

theorem State.lives_of (hp : s.pkg.powered = true) (hh : s.pkg.halted = false) : s.lives := ⟨hp, hh⟩

/-! ### Mailboxes (R358) -/

theorem Firmware.box_modify (f : Firmware) {c : Nat} (hc : c < f.boxes.length) (k : List MailMsg → List MailMsg) :
    ({ f with boxes := f.boxes.modify c k } : Firmware).box c = k (f.box c) := by
  unfold Firmware.box
  simp [List.getD_eq_getElem?_getD, List.getElem?_eq_getElem hc]

theorem message_enters (hp : s.pkg.powered = true) {c : Nat} {m : MailMsg} (hc : c < 8) (hm : m.sender < 8) (hb : m.body.length ≤ 64)
    (hlen : s.fw.boxes.length = 8) (hh : s.fw.held = []) (hroom : (s.fw.box c).length < 32) :
    Happens (.mailboxMessage c (some m)) s (fun t => t.mem = s.mem ∧ t.fw.box c = s.fw.box c ++ [m]) := by
  refine ⟨s.modFw (fun f => f.post c m), ?_, rfl, ?_⟩
  · show managed s (if 8 ≤ c then none else if m.sender < 8 ∧ m.body.length ≤ 64 then _ else none) = _
    rw [if_neg (Nat.not_le.2 hc), if_pos ⟨hm, hb⟩, managed_next hp]
  · show (s.fw.post c m).box c = _
    unfold Firmware.post
    rw [hh, if_pos (by simpa using hroom)]
    exact s.fw.box_modify (by rw [hlen]; exact hc) _

theorem message_waits (hp : s.pkg.powered = true) {c : Nat} {m : MailMsg} (hc : c < 8) (hm : m.sender < 8) (hb : m.body.length ≤ 64)
    (hfull : 32 ≤ (s.fw.box c).length) :
    Happens (.mailboxMessage c (some m)) s (fun t => t.fw.box c = s.fw.box c ∧ t.fw.held = s.fw.held ++ [(c, m)]) := by
  have hpost : s.fw.post c m = { s.fw with held := s.fw.held ++ [(c, m)] } := by
    unfold Firmware.post
    rw [if_neg]
    rw [decide_eq_false (Nat.not_lt.2 hfull), Bool.false_and]; decide
  refine ⟨s.modFw (fun f => f.post c m), ?_, ?_⟩
  · show managed s (if 8 ≤ c then none else if m.sender < 8 ∧ m.body.length ≤ 64 then _ else none) = _
    rw [if_neg (Nat.not_le.2 hc), if_pos ⟨hm, hb⟩, managed_next hp]
  · show (s.fw.post c m).box c = _ ∧ (s.fw.post c m).held = _
    rw [hpost]; exact ⟨rfl, rfl⟩

theorem message_taken (hp : s.pkg.powered = true) {c : Nat} {m : MailMsg} {l : List MailMsg} (hc : c < 8) (hlen : s.fw.boxes.length = 8)
    (hbox : s.fw.box c = m :: l) (hh : s.fw.held = []) : Happens (.mailboxMessage c none) s (fun t => t.fw.box c = l) := by
  refine ⟨s.modFw (fun f => f.take c), ?_, ?_⟩
  · show managed s (if 8 ≤ c then none else if s.fw.box c = [] then none else _) = _
    rw [if_neg (Nat.not_le.2 hc), if_neg (by rw [hbox]; nofun), managed_next hp]
  · show (s.fw.take c).box c = l
    unfold Firmware.take
    dsimp only
    rw [hh]
    exact (s.fw.box_modify (by rw [hlen]; exact hc) _).trans (by rw [hbox]; rfl)

/-! ### SPDM (R362) -/

/-- The connections whose version offers their algorithm. -/
theorem offered_iff (a : Nat) : (offered (a / 256)).contains (a % 256) = true ↔ a = 0x1201 ∨ a = 0x1401 ∨ a = 0x1402 := by
  have hmod := Nat.mod_lt a (show 0 < 256 by decide)
  have hdiv := Nat.div_add_mod a 256
  unfold offered
  split
  next h => rw [List.contains_iff_mem]; simp only [List.mem_cons, List.not_mem_nil, or_false]; omega
  next h =>
    split
    next h2 => rw [List.contains_iff_mem]; simp only [List.mem_singleton]; omega
    next h2 => simp only [List.contains_nil, Bool.false_eq_true, false_iff]; omega

theorem State.signed_of_offered {a : Nat} (h : a = 0x1201 ∨ a = 0x1401 ∨ a = 0x1402) (what : String) (l : List Nat) :
    s.signed a what l = s.answer what l := if_pos ((offered_iff a).2 h)

theorem State.signed_of_not {a : Nat} (h : ¬(a = 0x1201 ∨ a = 0x1401 ∨ a = 0x1402)) (what : String) (l : List Nat) :
    s.signed a what l = s.answer "ERROR" [a] := if_neg fun hc => h ((offered_iff a).1 hc)

theorem capabilities_answered (hp : s.pkg.powered = true) (v : Nat) : Happens (.getCapabilities v) s (fun t => t.fw = s.fw ∧
    ∃ vals, t.out = s.out ++ [.answer (if v = 0x12 ∨ v = 0x14 then "CAPABILITIES" else "ERROR") vals]) := by
  have hv : spdmVersions.contains v = true ↔ v = 0x12 ∨ v = 0x14 := by rw [List.contains_iff_mem]; exact mem_pair_iff
  refine ⟨_, managed_next hp, ?_⟩
  by_cases h : v = 0x12 ∨ v = 0x14
  · rw [if_pos h, if_pos (hv.2 h)]
    exact ⟨rfl, _, rfl⟩
  · rw [if_neg h, if_neg fun hc => h (hv.1 hc)]
    exact ⟨rfl, _, rfl⟩

theorem algorithms_negotiated (hp : s.pkg.powered = true) {v a : Nat} (h : (v = 0x14 ∧ (a = 1 ∨ a = 2)) ∨ (v = 0x12 ∧ a = 1)) :
    Happens (.negotiateAlgorithms v a) s (fun t => t.out = s.out ++ [.answer "ALGORITHMS" [a, 384]]) := by
  have ho : (offered v).contains a = true := by
    obtain ⟨rfl, rfl | rfl⟩ | ⟨rfl, rfl⟩ := h <;> decide
  refine ⟨s.answer "ALGORITHMS" [a, 384], ?_, rfl⟩
  show managed s (some (if (offered v).contains a then _ else _)) = _
  rw [if_pos ho, managed_next hp]

theorem requests_answered (hp : s.pkg.powered = true) (a o n : Nat) : ∀ i ∈ ([(.getDigests, "DIGESTS"),
      (.spdmUnsupportedRequest n, "ERROR_UNSUPPORTED_REQUEST")] ++
      (if a = 0x1201 ∨ a = 0x1401 ∨ a = 0x1402 then [(.getCertificate a o n, "CERTIFICATE"), (.challenge a n, "CHALLENGE_AUTH")]
        else [(.getCertificate a o n, "ERROR"), (.challenge a n, "ERROR")]) : List (Instr × String)), Happens i.1 s (fun t =>
    t.mem = s.mem ∧ t.fw = s.fw ∧ ∃ vals, t.out = s.out ++ [.answer i.2 vals]) := by
  have hsigned : ∀ (what : String) (l : List Nat), (s.signed a what l).mem = s.mem ∧ (s.signed a what l).fw = s.fw ∧
      ∃ vals, (s.signed a what l).out = s.out ++ [.answer (if a = 0x1201 ∨ a = 0x1401 ∨ a = 0x1402 then what else "ERROR") vals] := by
    intro what l
    by_cases h : a = 0x1201 ∨ a = 0x1401 ∨ a = 0x1402
    · rw [State.signed_of_offered h, if_pos h]; exact ⟨rfl, rfl, _, rfl⟩
    · rw [State.signed_of_not h, if_neg h]; exact ⟨rfl, rfl, _, rfl⟩
  intro i hi
  rcases List.mem_append.1 hi with hi | hi
  · rcases mem_pair_iff.1 hi with rfl | rfl
    · exact ⟨_, managed_next hp, rfl, rfl, _, rfl⟩
    · exact ⟨_, managed_next hp, rfl, rfl, _, rfl⟩
  · by_cases h : a = 0x1201 ∨ a = 0x1401 ∨ a = 0x1402
    · rw [if_pos h] at hi
      simp only [if_pos h] at hsigned
      rcases mem_pair_iff.1 hi with rfl | rfl
      · exact ⟨_, managed_next hp, hsigned _ _⟩
      · exact ⟨_, managed_next hp, hsigned _ _⟩
    · rw [if_neg h] at hi
      simp only [if_neg h] at hsigned
      rcases mem_pair_iff.1 hi with rfl | rfl
      · exact ⟨_, managed_next hp, hsigned "CERTIFICATE" _⟩
      · exact ⟨_, managed_next hp, hsigned "CHALLENGE_AUTH" _⟩

theorem measurements_answered (hp : s.pkg.powered = true) {a i : Nat} (n : Nat) (h1 : 1 ≤ i) (h5 : i ≤ 5)
    (ha : a = 0x1201 ∨ a = 0x1401 ∨ a = 0x1402) : Happens (.getMeasurements a i n) s (fun t => t.fw = s.fw ∧ ∃ sig, t.out = s.out ++
      [.answer "MEASUREMENTS" (i :: (s.fw.measure.getD (i - 1) 0).toNat :: sig)]) := by
  refine ⟨_, managed_next hp, ?_⟩
  dsimp only
  rw [if_pos ⟨h1, h5⟩, State.signed_of_offered ha]
  exact ⟨rfl, _, rfl⟩

/-! ### Update (R363 to R365) -/

/-- A bank of the staging area and its stage, of the two that there are. -/
theorem Firmware.staged_at (f : Firmware) {k : Nat} (hk : k < 2) (h1 : f.staging.length = 2) (h2 : f.stage.length = 2)
    (i : Option Image) (n : Nat) : (f.stage_ k i n).staging[k]? = some i ∧ (f.stage_ k i n).stage[k]? = some n :=
  ⟨List.getElem?_set_self (by rw [h1]; exact hk), List.getElem?_set_self (by rw [h2]; exact hk)⟩

theorem data_staged (hp : s.pkg.powered = true) {c : Nat} (img : Image) (ok : Bool) (hc : c = 1 ∧ s.fw.holdsSaves = false ∨ c = 2)
    (h1 : s.fw.staging.length = 2) (h2 : s.fw.stage.length = 2) :
    Happens (.requestFirmwareData c img ok) s (fun t => t.fw.active = s.fw.active ∧
      if ok && imgVerifies img c (s.fw.minSvn.getD (c - 1) 0) then
        t.fw.staging[c - 1]? = some (some img) ∧ t.fw.stage[c - 1]? = some 2 ∧
        t.out = s.out ++ [.answer "TRANSFER_COMPLETE" [0], .answer "VERIFY_COMPLETE" [0], .answer "APPLY_COMPLETE" [0]]
      else t.fw.staging[c - 1]? = some none ∧ t.fw.stage[c - 1]? = some 0 ∧
        t.out = s.out ++ (if ok then [.answer "TRANSFER_COMPLETE" [0], .answer "VERIFY_COMPLETE" [1]]
          else [.answer "TRANSFER_COMPLETE" [1]])) := by
  have hk : c - 1 < 2 := by omega
  have hsucc : c - 1 + 1 = c := by omega
  have hgetD : ∀ (f : Firmware), f.staging.length = 2 → ∀ i n, (f.stage_ (c - 1) i n).staging.getD (c - 1) none = i := fun f hf i n => by
    rw [List.getD_eq_getElem?_getD, show (f.stage_ (c - 1) i n).staging[c - 1]? = some i from List.getElem?_set_self (by rw [hf]; exact hk)]
    rfl
  refine ⟨((s.transfer (c - 1) img ok).verify (c - 1)).apply (c - 1), ?_, ?_⟩
  · show managed s (if c = 1 ∧ s.fw.holdsSaves then _ else if c = 1 ∨ c = 2 then _ else none) = _
    rw [if_neg (by rintro ⟨rfl, h⟩; simp [h] at hc), if_pos (hc.imp_left And.left), managed_next hp]
  cases ok with
  | false =>
    have hv : (s.transfer (c - 1) img false).verify (c - 1) = s.transfer (c - 1) img false := by
      unfold State.verify
      rw [show (s.transfer (c - 1) img false).fw.staging.getD (c - 1) none = none from hgetD s.fw h1 _ _]
    have happ : (s.transfer (c - 1) img false).apply (c - 1) = s.transfer (c - 1) img false := by
      unfold State.apply
      rw [show (s.transfer (c - 1) img false).fw.staging.getD (c - 1) none = none from hgetD s.fw h1 _ _]
    rw [hv, happ]
    exact ⟨rfl, (s.fw.staged_at hk h1 h2 none 0).1, (s.fw.staged_at hk h1 h2 none 0).2, rfl⟩
  | true =>
    rw [Bool.true_and]
    have hlen : (s.fw.stage_ (c - 1) (some img) 1).staging.length = 2 := by rw [← h1]; exact List.length_set
    have hlen' : (s.fw.stage_ (c - 1) (some img) 1).stage.length = 2 := by rw [← h2]; exact List.length_set
    have hst : (s.transfer (c - 1) img true).fw.staging.getD (c - 1) none = some img := hgetD s.fw h1 _ _
    cases hver : imgVerifies img c (s.fw.minSvn.getD (c - 1) 0) with
    | true =>
      have hv : (s.transfer (c - 1) img true).verify (c - 1) = (s.transfer (c - 1) img true).answer "VERIFY_COMPLETE" [0] := by
        unfold State.verify
        rw [hst]
        exact if_pos (by rw [hsucc]; exact hver)
      have happ : ((s.transfer (c - 1) img true).answer "VERIFY_COMPLETE" [0]).apply (c - 1) =
          (((s.transfer (c - 1) img true).answer "VERIFY_COMPLETE" [0]).modFw (fun f => f.stage_ (c - 1) (some img) 2)).answer
            "APPLY_COMPLETE" [0] := by
        unfold State.apply
        rw [show ((s.transfer (c - 1) img true).answer "VERIFY_COMPLETE" [0]).fw.staging.getD (c - 1) none = some img from hst]
      rw [hv, happ]
      obtain ⟨k1, k2⟩ := (s.fw.stage_ (c - 1) (some img) 1).staged_at hk hlen hlen' (some img) 2
      refine ⟨rfl, k1, k2, ?_⟩
      show ((s.out ++ [_]) ++ [_]) ++ [_] = _
      rw [List.append_assoc, List.append_assoc]; rfl
    | false =>
      have hv : (s.transfer (c - 1) img true).verify (c - 1) =
          ((s.transfer (c - 1) img true).modFw (fun f => f.stage_ (c - 1) none 0)).answer "VERIFY_COMPLETE" [1] := by
        unfold State.verify
        rw [hst]
        exact if_neg (by rw [hsucc]; exact fun h => Bool.false_ne_true (hver.symm.trans h))
      have happ : (((s.transfer (c - 1) img true).modFw (fun f => f.stage_ (c - 1) none 0)).answer "VERIFY_COMPLETE" [1]).apply (c - 1) =
          ((s.transfer (c - 1) img true).modFw (fun f => f.stage_ (c - 1) none 0)).answer "VERIFY_COMPLETE" [1] := by
        unfold State.apply
        rw [show (((s.transfer (c - 1) img true).modFw (fun f => f.stage_ (c - 1) none 0)).answer "VERIFY_COMPLETE" [1]).fw.staging.getD
          (c - 1) none = none from hgetD _ hlen _ _]
      rw [hv, happ]
      obtain ⟨k1, k2⟩ := (s.fw.stage_ (c - 1) (some img) 1).staged_at hk hlen hlen' none 0
      refine ⟨rfl, k1, k2, ?_⟩
      show (s.out ++ [_]) ++ [_] = _
      rw [List.append_assoc]; rfl

/-- Saves that go on leave the firmware and what has gone out. -/
theorem State.resumeSaves_keeps (s : State) : s.resumeSaves.fw = s.fw ∧ s.resumeSaves.out = s.out := by
  have hstep : ∀ (s : State) (b : Block), (s.beginSave b).fw = s.fw ∧ (s.beginSave b).out = s.out := fun s b => by
    unfold State.beginSave
    dsimp only
    split
    · exact ⟨rfl, rfl⟩
    · split
      · exact ⟨rfl, rfl⟩
      · exact ⟨rfl, rfl⟩
  have hboth : (s.resumeSaves.fw, s.resumeSaves.out) = (s.fw, s.out) :=
    foldl_keeps (fun s : State => (s.fw, s.out)) (fun (s : State) b => if s.mailbox.full then s else s.beginSave b) (fun s b => by
      split
      · rfl
      · rw [(hstep s b).1, (hstep s b).2]) _ s
  exact Prod.mk.inj hboth

theorem activation_waits (hp : s.pkg.powered = true) {img : Image} (hst : s.fw.staging = [some img, none]) (hs : s.savesNow ≠ [])
    (hh : s.fw.holdsSaves = false) : Happens (.activateFirmware 1) s (fun t =>
      t.fw = { s.fw with stage := s.fw.stage.set 0 3, deciding := s.savesNow } ∧ t.out = s.out) := by
  have hact : s.activateFw 0 = s.modFw (fun f => { f with stage := f.stage.set 0 3, deciding := s.savesNow }) := by
    unfold State.activateFw
    rw [hst]
    exact (if_neg (by decide)).trans ((if_neg hs).trans (if_neg (by rw [hh]; decide)))
  refine ⟨_, managed_next hp, ?_⟩
  show (s.activateFw 0).fw = _ ∧ (s.activateFw 0).out = _
  rw [hact]; exact ⟨rfl, rfl⟩

theorem State.activateFw_decides {img : Image} (hst : s.fw.staging = [some img, none]) (hs : s.savesNow = []) :
    s.activateFw 0 = s.decideFw img := by
  unfold State.activateFw
  rw [hst]
  exact (if_neg (by decide)).trans (if_pos hs)

theorem activation_deferred (hp : s.pkg.powered = true) {img : Image} (hst : s.fw.staging = [some img, none]) (hs : s.savesNow = [])
    (hb : s.blocked img = true) : Happens (.activateFirmware 1) s (fun t =>
      t.fw = { s.fw with staging := [some img, none], stage := s.fw.stage.set 0 2, reason := 200 } ∧
      t.out = s.out ++ [.answer "ACTIVATE_FIRMWARE" [1]]) := by
  refine ⟨_, managed_next hp, ?_⟩
  show (s.activateFw 0).fw = _ ∧ (s.activateFw 0).out = _
  rw [State.activateFw_decides hst hs, State.decideFw, if_pos hb]
  obtain ⟨h1, h2⟩ := (s.modFw (fun f => { (f.stage_ 0 (some img) 2) with reason := 200 })).resumeSaves_keeps
  refine ⟨h1.trans ?_, congrArg (· ++ [_]) h2⟩
  show ({ s.fw with staging := s.fw.staging.set 0 (some img), stage := s.fw.stage.set 0 2, reason := 200 } : Firmware) = _
  rw [hst]; rfl

/-- What an activation makes of the two active banks and the five measurements (R361, R365). -/
theorem Firmware.activate_spec (f : Firmware) {c : Nat} (i : Image) (hc : c < 2) (ha : f.active.length = 2) (hm : f.measure.length = 5) :
    (f.activate c i).active[c]? = some i ∧ (f.activate c i).measure[c + 1]? = some (imgMeasure i) ∧
    (f.activate c i).measure[4]? = some (countMeasure (f.activations + 1)) := by
  refine ⟨List.getElem?_set_self (by rw [ha]; exact hc), ?_, List.getElem?_set_self (by simp [hm])⟩
  show (((f.measure.set (c + 1) (imgMeasure i)).set 3 _).set 4 _)[c + 1]? = _
  rw [List.getElem?_set_ne (by omega), List.getElem?_set_ne (by omega), List.getElem?_set_self (by omega)]

theorem activation_made (hp : s.pkg.powered = true) {img : Image} (hst : s.fw.staging = [some img, none]) (ha : s.fw.active.length = 2)
    (hm : s.fw.measure.length = 5) (hs : s.savesNow = []) (hb : s.blocked img = false) :
    Happens (.activateFirmware 1) s (fun t => t.fw.active[0]? = some img ∧
      t.fw.activations = s.fw.activations + 1 ∧ t.fw.restarting = true ∧ t.fw.staging = [none, none] ∧
      t.fw.measure[1]? = some (Config.sha384 (img.header ++ img.payload.take (bits (imgWord img 8 8) 31 0))) ∧
      t.fw.measure[4]? = some (Config.sha384 ((leCells 0 8 (s.fw.activations + 1)).map (·.2))) ∧
      t.out = s.out ++ [.answer "ACTIVATE_FIRMWARE" [0]]) := by
  refine ⟨_, managed_next hp, ?_⟩
  show (s.activateFw 0).fw.active[0]? = _ ∧ (s.activateFw 0).fw.activations = _ ∧ (s.activateFw 0).fw.restarting = _ ∧
    (s.activateFw 0).fw.staging = _ ∧ (s.activateFw 0).fw.measure[1]? = _ ∧ (s.activateFw 0).fw.measure[4]? = _ ∧ (s.activateFw 0).out = _
  rw [State.activateFw_decides hst hs, State.decideFw, if_neg (by rw [hb]; decide)]
  obtain ⟨h1, h2⟩ := (s.modFw (fun f => { (f.activate 0 img) with restarting := true, reason := 0, writes := imgWrites img
                                                                  lists := (imgLayouts img) })).resumeSaves_keeps
  obtain ⟨k1, k2, k3⟩ := s.fw.activate_spec img (c := 0) (by decide) ha hm
  refine ⟨(congrArg (·.active[0]?) h1).trans k1, congrArg (·.activations) h1, congrArg (·.restarting) h1,
    (congrArg (·.staging) h1).trans ?_, (congrArg (·.measure[1]?) h1).trans k2, (congrArg (·.measure[4]?) h1).trans k3,
    congrArg (· ++ [_]) h2⟩
  show s.fw.staging.set 0 none = _
  rw [hst]; rfl

theorem update_cancelled (hp : s.pkg.powered = true) {c : Nat} (hc : c = 1 ∨ c = 2) (h1 : s.fw.staging.length = 2)
    (h2 : s.fw.stage.length = 2) : Happens (.cancelUpdate c) s (fun t =>
    t.fw.active = s.fw.active ∧ t.fw.measure = s.fw.measure ∧ t.fw.staging[c - 1]? = some none ∧ t.fw.stage[c - 1]? = some 0) := by
  obtain ⟨k, -⟩ := (s.modFw (fun f => { (f.stage_ (c - 1) none 0) with reason := if c = 1 then 0 else f.reason })).resumeSaves_keeps
  obtain ⟨k1, k2⟩ := s.fw.staged_at (k := c - 1) (by omega) h1 h2 none 0
  refine ⟨_, ?_, congrArg (·.active) k, congrArg (·.measure) k, (congrArg (·.staging[c - 1]?) k).trans k1,
    (congrArg (·.stage[c - 1]?) k).trans k2⟩
  show managed s (if c = 1 ∨ c = 2 then _ else none) = _
  rw [if_pos hc, managed_next hp]

theorem supervisor_restarts (hs : s.lives) (hb : 5 ≤ s.pkg.boot) {img : Image} {x : Option Image} (hst : s.fw.staging = [x, some img])
    (hg : s.fw.stage[1]? = some 3) (ha : s.fw.active.length = 2) (hm : s.fw.measure.length = 5) :
    Happens .supervisorOsRestart s (fun t => t.fw.active[1]? = some img ∧ t.fw.activations = s.fw.activations + 1 ∧
      t.fw.measure[2]? = some (Config.sha384 (img.header ++ img.payload.take (bits (imgWord img 8 8) 31 0)))) := by
  obtain ⟨k1, k2, -⟩ := s.fw.activate_spec img (c := 1) (by decide) ha hm
  refine ⟨s.modFw (fun f => f.activate 1 img), ?_, k1, rfl, k2⟩
  show running s (some (match s.fw.staging.getD 1 none with | some i => _ | none => _)) = _
  rw [hst, running_next hs hb]
  refine congrArg _ (if_pos ?_)
  rw [List.getD_eq_getElem?_getD, hg]; rfl

/-! ### Start-up (R24) -/

/-- What no step of the start-up touches. -/
def State.unstarted (s : State) : List Gang × List Block × List Graph × List Page × SMap 8 × Bool × List Image :=
  (s.gangs, s.blocks, s.graphs, s.mem.pages, s.mem.bytes, s.pkg.clientReady, s.fw.active)

theorem State.trainStacks_keeps (s : State) (b : Boot) :
    (s.trainStacks b).unstarted = s.unstarted ∧ (s.trainStacks b).pkg.halted = s.pkg.halted :=
  ⟨(foldl_keeps State.unstarted (fun s n => s.reduced 2 n) (fun _ _ => rfl) _ _).trans rfl,
    (foldl_keeps (fun s : State => s.pkg.halted) (fun s n => s.reduced 2 n) (fun _ _ => rfl) _ _).trans rfl⟩

theorem State.joinDomain_keeps (s : State) (b : Boot) :
    (s.joinDomain b).unstarted = s.unstarted ∧ (s.joinDomain b).pkg.halted = s.pkg.halted :=
  ⟨(foldl_keeps State.unstarted (fun s n => s.reduced 4 n) (fun _ _ => rfl) _ _).trans rfl,
    (foldl_keeps (fun s : State => s.pkg.halted) (fun s n => s.reduced 4 n) (fun _ _ => rfl) _ _).trans rfl⟩

/-- A start-up ends with its fifth step or halts before it. -/
theorem State.boot_spec (s : State) (b : Boot) : (s.boot b).unstarted = s.cold.unstarted ∧
    ((s.boot b).pkg.boot < 5 ∧ (s.boot b).pkg.halted = true ∨ (s.boot b).pkg.boot = 5 ∧ (s.boot b).pkg.halted = false) := by
  unfold State.boot
  extract_lets s0 s1 s2 s3 s4
  obtain ⟨t1, t2⟩ := s1.trainStacks_keeps b
  obtain ⟨j1, j2⟩ := s3.joinDomain_keeps b
  have h4 : s4.unstarted = s0.unstarted := j1.trans t1
  have hb : s4.pkg.halted = false := j2.trans t2
  split
  · exact ⟨rfl, .inl ⟨(by decide : 0 < 5), rfl⟩⟩
  split
  · exact ⟨rfl, .inl ⟨(by decide : 1 < 5), rfl⟩⟩
  split
  · exact ⟨t1, .inl ⟨(by decide : 2 < 5), rfl⟩⟩
  split
  · exact ⟨t1, .inl ⟨(by decide : 3 < 5), rfl⟩⟩
  split
  · exact ⟨h4, .inl ⟨(by decide : 4 < 5), rfl⟩⟩
  · exact ⟨h4, .inr ⟨rfl, hb⟩⟩

theorem package_reset (s : State) (b : Boot) : Happens (.packageReset b) s (fun t => t.gangs = [] ∧ t.blocks = [] ∧ t.graphs = [] ∧
    t.mem.pages = [] ∧ t.mem.bytes = [] ∧ t.pkg.clientReady = false ∧ t.fw.active = s.fw.active ∧ t.pkg.boot ≤ 5 ∧
    (t.pkg.boot = 5 ↔ t.pkg.halted = false)) := by
  obtain ⟨hk, hb⟩ := s.boot_spec b
  simp only [State.unstarted, Prod.mk.injEq] at hk
  obtain ⟨h1, h2, h3, h4, h5, h6, h7⟩ := hk
  refine ⟨s.boot b, rfl, h1, h2, h3, h4, h5, h6, h7, ?_, ?_⟩
  · omega
  · rcases hb with ⟨hlt, hh⟩ | ⟨heq, hh⟩
    · rw [hh]; exact ⟨fun h => by omega, nofun⟩
    · rw [hh]; exact ⟨fun _ => rfl, fun _ => heq⟩

/-! ### The clock and the client port (R22, R25, R315) -/

theorem clock_lowered (hs : s.lives) {m : Nat} (hsealed : s.sealedLive = false) (h0 : 0 < m) (hm : m ≤ s.pkg.mhz) :
    Happens (.powerLimitThrottle m) s (fun t => t.pkg.mhz = m ∧ t.mem = s.mem) := by
  refine ⟨s.setClock m, ?_, rfl, rfl⟩
  show alive s (if s.sealedLive || m = 0 || decide (s.pkg.mhz < m) then none else _) = _
  rw [if_neg, alive_next hs]
  simp only [hsealed, Bool.or_eq_true, decide_eq_true_eq, Bool.false_eq_true, false_or]
  omega

theorem config_answered (hs : s.lives) {fn : Nat} (hf : fn ≤ 16) (hc : s.pkg.clientUp = true) :
    Happens (.clientConfigRequest fn) s (fun t => t.mem = s.mem ∧
      t.out = s.out ++ [.config fn (!s.pkg.clientReady || (decide (1 ≤ fn) && s.resetting (fn - 1)))]) := by
  refine ⟨s.emit (.config fn (s.configRetry fn)), ?_, rfl, rfl⟩
  show alive s (if s.pkg.clientUp ∧ fn ≤ 16 then _ else none) = _
  rw [if_pos ⟨hc, hf⟩, alive_next hs]

end

/-- Settles O54, event by event. -/
theorem packageEvents : Obligations.PackageEvents := by
  intro s hp
  refine ⟨fun c m hc hm hb hl hh hr => message_enters hp hc hm hb hl hh hr, fun c m hc hm hb hf => message_waits hp hc hm hb hf,
    fun c m l hc hl hb hh => message_taken hp hc hl hb hh, ⟨_, managed_next hp, rfl⟩, capabilities_answered hp,
    fun v a h => algorithms_negotiated hp h, requests_answered hp, fun a i n h1 h5 ha => measurements_answered hp n h1 h5 ha,
    fun img ok hh => ⟨s.answer "TRANSFER_COMPLETE" [1], ?_, rfl, rfl⟩, fun c img ok hc h1 h2 => data_staged hp img ok hc h1 h2,
    fun img hst ha hm => ⟨activation_waits hp hst, activation_deferred hp hst, activation_made hp hst ha hm⟩,
    ⟨_, managed_next hp, rfl, rfl⟩, fun c hc h1 h2 => update_cancelled hp hc h1 h2, package_reset s,
    ⟨_, managed_next hp, rfl, rfl, rfl, rfl⟩, fun hh => ?_⟩
  · show managed s (if 1 = 1 ∧ s.fw.holdsSaves then _ else _) = _
    rw [if_pos ⟨rfl, hh⟩, managed_next hp]
  have hs := State.lives_of hp hh
  refine ⟨fun m hse h0 hm => clock_lowered hs hse h0 hm, fun hb => ⟨_, running_next hs hb, rfl, rfl⟩,
    fun fn hf hc => config_answered hs hf hc, ⟨_, alive_next hs, rfl⟩, fun hr => ⟨s.modFw (fun f => { f with restarting := false }), ?_, rfl⟩,
    fun img x hst hg ha hm hb => supervisor_restarts hs hb hst hg ha hm⟩
  show alive s (if s.fw.restarting then _ else none) = _
  rw [if_pos hr, alive_next hs]

end Sys2Proof.Machine
end

section
/-!
Fences, cache control, code fetch and replayed faults complete (R66, R182, R191, R193, R216, R331, R333, R346).
-/

namespace Sys2Proof.Machine

section
variable {s : State} {g : Gang} {id : Nat}

/-! ### Fences (R191, R331) -/

theorem fence_completes {f : FenceOp} (hf : s.fl.fences.find? (fun f => f.id == id) = some f) (hr : s.fenceReady f = true) :
    Happens (.fenceComplete id) s (fun t => t.fl.fences = s.fl.fences.filter (fun x => x.id != id) ∧
      t.mem.bytes = s.mem.bytes ∧
      (∀ w, s.wayOf f.gang = some w → f.kind ≠ 1 → 3 ≤ f.scope → ∀ c ∈ t.mem.copies, c.wing ≠ w.2) ∧
      (f.kind = 1 → t.mem = s.mem) ∧
      ∀ g, s.gang? f.gang = some g → ∃ h, t.gang? f.gang = some h ∧ g.sameRegs h ∧ h.se = if f.chkpt then false else g.se) := by
  let s1 : State := { s with fl := { s.fl with fences := s.fl.fences.filter (fun x => x.id != id) } }
  let s2 : State := if f.kind = 1 then s1 else match s.wayOf f.gang with
    | some w => s1.acquire w.2 f.scope
    | none => s1
  have hacq : ∀ w, (s1.acquire w f.scope).fl = s1.fl ∧ (s1.acquire w f.scope).gangs = s.gangs ∧
      (s1.acquire w f.scope).mem.bytes = s.mem.bytes := fun w => by
    unfold State.acquire
    split <;> exact ⟨rfl, rfl, rfl⟩
  have h2 : s2.fl = s1.fl ∧ s2.gangs = s.gangs ∧ s2.mem.bytes = s.mem.bytes := by
    unfold s2
    split
    · exact ⟨rfl, rfl, rfl⟩
    · split
      · exact hacq _
      · exact ⟨rfl, rfl, rfl⟩
  have hcopies : ∀ w, s.wayOf f.gang = some w → f.kind ≠ 1 → 3 ≤ f.scope → ∀ c ∈ s2.mem.copies, c.wing ≠ w.2 := by
    intro w hw hk hsc c hc
    have e : s2 = s1.discardCopies w.2 := by
      unfold s2
      rw [if_neg hk, hw]
      exact if_pos hsc
    rw [e] at hc
    have := (List.mem_filter.1 hc).2
    simpa using this
  have hrelax : f.kind = 1 → s2.mem = s.mem := fun hk => by unfold s2; rw [if_pos hk]
  obtain ⟨hfl, hgangs, hbytes⟩ := h2
  have hlook : ∀ i, s2.gang? i = s.gang? i := fun i => by unfold State.gang?; rw [hgangs]
  refine ⟨if f.chkpt then s2.modGang f.gang (fun g => { g with se := false }) else s2, ?_, ?_⟩
  · show event ((s.fl.fences.find? (fun f => f.id == id)).bind _) = _
    rw [hf, Option.bind_some, hr]
    exact congrArg event (if_neg (by decide))
  cases f.chkpt with
  | false => exact ⟨by rw [if_neg (by decide), hfl], hbytes, hcopies, hrelax, fun g hg => ⟨g, (hlook _).trans hg, fun _ _ _ => rfl, rfl⟩⟩
  | true =>
    refine ⟨congrArg Flight.fences hfl, hbytes, hcopies, hrelax, fun g hg => ⟨{ g with se := false }, ?_, fun r x l => ?_, rfl⟩⟩
    · exact (State.gang?_modGang_same (f := fun g => { g with se := false }) fun _ => rfl).trans
        (congrArg (Option.map _) ((hlook _).trans hg))
    · cases r <;> rfl

/-! ### CCTL (R193) -/

theorem State.fl_poisonHome (s : State) (w a : Nat) (l : List ErrSite) : (s.poisonHome w a l).fl = s.fl :=
  (foldl_keeps State.fl State.addPoison (fun s e => by unfold State.addPoison; split <;> rfl) _ _).trans rfl

/-- A write in the wing's slice reaches its home and leaves (R207). -/
theorem State.fl_writeOut {w : Write} (hw : w.atWing = true) : (s.writeOut w).fl = { s.fl with writes := s.fl.writes.erase w } := by
  unfold State.writeOut
  rw [hw, Bool.true_or]
  dsimp only
  rw [if_pos rfl]
  split
  · rw [State.fl_poisonHome]; rfl
  · rfl

/-- Writes taken one by one from a list of which they are a part: what is left is the rest. -/
theorem foldl_erase_filter (q : Write → Bool) (l : List Write) : (l.filter q).foldl List.erase l = l.filter (fun w => !q w) := by
  have key : ∀ pre : List Write, (∀ w ∈ pre, q w = false) → (l.filter q).foldl List.erase (pre ++ l) = pre ++ l.filter (fun w => !q w) := by
    induction l with
    | nil => intro pre _; rfl
    | cons w l ih =>
      intro pre hpre
      cases hq : q w with
      | true =>
        have hn : w ∉ pre := fun h => by rw [hpre w h] at hq; cases hq
        rw [List.filter_cons_of_pos hq, List.foldl_cons, List.erase_append_right _ hn, List.erase_cons_head,
          List.filter_cons_of_neg (by simp [hq])]
        exact ih pre hpre
      | false =>
        rw [List.filter_cons_of_neg (by simp [hq]), List.filter_cons_of_pos (by simp [hq])]
        have := ih (pre ++ [w]) (by
          intro v hv
          rcases List.mem_append.1 hv with hv | hv
          · exact hpre v hv
          · rw [List.mem_singleton.1 hv]; exact hq)
        simpa only [List.append_assoc, List.singleton_append] using this
  exact key [] nofun

theorem State.fl_writesOut (l : List Write) (hl : ∀ w ∈ l, w.atWing = true) (s : State) :
    (l.foldl (fun s w => s.writeOut w) s).fl = { s.fl with writes := l.foldl List.erase s.fl.writes } := by
  induction l generalizing s with
  | nil => rfl
  | cons w l ih =>
    rw [List.foldl_cons, ih (fun v hv => hl v (List.mem_cons_of_mem _ hv)), State.fl_writeOut (hl w (List.mem_cons_self ..))]
    rfl

/-- Writes of a wing's slice alone are drained: none of them is left on its way. -/
theorem State.fl_drain {p : Write → Bool} (hp : ∀ w, p w = true → w.atWing = true) :
    (s.drain p).fl = { s.fl with writes := s.fl.writes.filter (fun w => !p w) } := by
  have hq : ∀ l : List Write, l.filter (fun w => w.atWing && p w) = l.filter p := fun l =>
    List.filter_congr fun w _ => by
      cases h : p w with
      | true => rw [hp w h]; rfl
      | false => rw [Bool.and_false]
  have hport : ∀ l : List Write, l.filter (fun w => !w.atWing && p w) = [] := fun l =>
    List.filter_eq_nil_iff.2 fun w _ h => by
      rw [Bool.and_eq_true] at h
      have := hp w h.2
      simp [this] at h
  have hrest : ∀ l : List Write, (l.filter (fun w => !p w)).filter p = [] := fun l =>
    List.filter_eq_nil_iff.2 fun w hw h => by
      have := (List.mem_filter.1 hw).2
      simp [h] at this
  have h1 := State.fl_writesOut (s.fl.writes.filter p) (fun w hw => hp w (List.mem_filter.1 hw).2) s
  rw [foldl_erase_filter] at h1
  unfold State.drain
  simp only [hq, hport, List.foldl_nil]
  rw [h1, hrest]
  exact h1

theorem cctl_completes {o : CctlOp} (ho : s.fl.cctls.find? (fun o => o.id == id) = some o)
    (ht : ∀ t, o.tag = some t → s.twinReady o.gang t = true) (hd : s.dieOff o.wing = false)
    (hf : ∀ w ∈ s.fl.writes, w.wing = o.wing → s.fabricHeld w.id w.addr = false) :
    Happens (.cctlComplete id) s (fun t => t.fl.cctls = s.fl.cctls.filter (fun x => x.id != id) ∧
      (o.inv = true → ∀ c ∈ t.mem.copies, ¬(c.wing = o.wing ∧ s.lineIn o.part o.lo o.hi (256 * c.line) = true)) ∧
      ∀ w ∈ t.fl.writes, ¬(w.atWing = true ∧ w.wing = o.wing ∧ s.lineIn o.part o.lo o.hi w.addr = true)) := by
  let p : Write → Bool := fun w => w.atWing && w.wing == o.wing && s.lineIn o.part o.lo o.hi w.addr
  let s1 := s.drain p
  let s2 : State := if o.inv then s1.dropCopies (fun c => c.wing == o.wing && s.lineIn o.part o.lo o.hi (256 * c.line)) else s1
  let s3 : State := { s2 with fl := { s2.fl with cctls := s2.fl.cctls.filter (fun x => x.id != id) } }
  let t : State := match o.tag with
    | some t => s3.endToken o.gang t
    | none => s3
  have hfl1 : s1.fl = { s.fl with writes := s.fl.writes.filter (fun w => !p w) } :=
    State.fl_drain fun w hw => by simp only [p, Bool.and_eq_true] at hw; exact hw.1.1
  have hfl2 : s2.fl = s1.fl := by unfold s2; split <;> rfl
  have hapart : t.apart = s3.apart := by
    unfold t
    split
    · exact s3.apart_endToken ..
    · rfl
  refine ⟨t, ?_, ?_, fun hi c hc ⟨hw, hl⟩ => ?_, fun w hw ⟨h1, h2, h3⟩ => ?_⟩
  · show event ((s.fl.cctls.find? (fun o => o.id == id)).bind _) = _
    rw [ho, Option.bind_some]
    refine congrArg event (if_neg ?_)
    rw [hd, Bool.or_false, Bool.or_eq_true, Option.any_eq_true, List.any_eq_true]
    rintro (⟨t, ht', hn⟩ | ⟨w, hw, hn⟩)
    · rw [ht t ht'] at hn; cases hn
    · rw [Bool.and_eq_true, beq_iff_eq] at hn
      rw [hf w hw hn.1] at hn; cases hn.2
  · rw [show t.fl.cctls = s3.fl.cctls from congrArg (·.fl.cctls) hapart]
    show s2.fl.cctls.filter _ = _
    rw [hfl2, hfl1]
  · rw [show t.mem.copies = s3.mem.copies from congrArg (·.mem.copies) hapart] at hc
    change c ∈ s2.mem.copies at hc
    unfold s2 at hc
    rw [if_pos hi] at hc
    have := (List.mem_filter.1 hc).2
    simp [hw, hl] at this
  · rw [show t.fl.writes = s3.fl.writes from congrArg (·.fl.writes) hapart] at hw
    change w ∈ s2.fl.writes at hw
    rw [hfl2, hfl1] at hw
    have := (List.mem_filter.1 hw).2
    simp [p, h1, h2, h3] at this

/-! ### Code words (R346) -/

theorem code_arrives {sl : Option Nat} {x : Slice} (hg : s.gang? id = some g) (hx : g.lead sl = some x) :
    (s.poisoned (.code id sl) = false → exec (.codeFetchArrival id sl false) s = .next s) ∧
    (s.otherCopy g = none → exec (.codeFetchArrival id sl true) s = .next ((s.clearPoison (· == .code id sl)).takeTrap ⟨id, sl⟩
      ⟨0x15, x.point.pc, g.activeOf sl, 0, 7⟩ (g.replayOf sl))) := by
  refine ⟨fun hp => ?_, fun ho => ?_⟩
  · show event ((s.gang? id).bind _) = _
    rw [hg, Option.bind_some, hx, Option.map_some, hp]
    exact congrArg (fun u => event (some u)) (if_neg (by decide))
  · show event ((s.gang? id).bind _) = _
    rw [hg, Option.bind_some, hx, Option.map_some, ho]
    refine congrArg (fun u => event (some u)) ((if_pos rfl).trans ?_)
    have hclear : s.clearPoison (fun e => e == .code id sl || (none : Option Gang).any (fun o => e == .code o.id sl)) =
        s.clearPoison (· == .code id sl) := by
      congr 1
      funext e
      exact Bool.or_false _
    rw [hclear]
    unfold State.trapAtNext
    rw [show (s.clearPoison (· == .code id sl)).gang? id = some g from hg]
    dsimp only
    rw [show (s.clearPoison (· == .code id sl)).otherCopy g = none from ho]

/-! ### Faults (R182, R333) -/

theorem State.park?_modPark {f : Park → Park} (hf : ∀ p, (f p).id = p.id) : (s.modPark id f).park? id = (s.park? id).map f := by
  show (mapWhere _ _ s.fl.parks).find? _ = _
  rw [find?_mapWhere _ _ _ _ fun p _ => by rw [hf]]
  show Option.map _ (s.park? id) = _
  cases h : s.park? id with
  | none => rfl
  | some p => exact congrArg some (if_pos (List.find?_some (p := fun p : Park => p.id == id) h))

theorem fault_resolved {part : Nat} (page : PageSpec) (hp : s.faultPart id = some part) :
    Happens (.faultResolve id [page]) s (fun t => t.mem.bytes = s.mem.bytes ∧
      t.mem.pages = ⟨part, page, none⟩ :: s.mem.pages.filter (fun q =>
        !(q.part == part && overlaps q.spec.vbase q.spec.size page.vbase page.size)) ∧
      ∀ p, s.park? id = some p → t.park? id = some { p with ready := true }) := by
  refine ⟨(s.mapPages part [page]).modPark id (fun p => { p with ready := true }), ?_, rfl, rfl, fun p hpark => ?_⟩
  · show event ((s.faultPart id).map _) = _
    rw [hp]; rfl
  · exact (State.park?_modPark (f := fun p => { p with ready := true }) fun _ => rfl).trans (congrArg (Option.map _) hpark)

theorem fault_declined {part : Nat} {p : Park} (hp : s.faultPart id = some part) (hpark : s.park? id = some p) :
    Happens (.faultDecline id) s (fun t => t.mem = s.mem ∧ t.park? id = some { p with
      unfinished := 0, refused := p.refused ||| p.unfinished, faults := [], ready := true
      refusals := p.refusals ++ p.faults.map (fun f => (f.1, f.2.1, s.declineAux part f.2.1)) }) := by
  refine ⟨s.decline id, ?_, ?_⟩
  · show event ((s.faultPart id).map _) = _
    rw [hp]; rfl
  have hpart : (s.modPark id (fun p =>
      { p with unfinished := 0, refused := p.refused ||| p.unfinished, faults := [], ready := true
               refusals := p.refusals ++ p.faults.map (fun f => (f.1, f.2.1, s.declineAux ((s.faultPart id).getD 0) f.2.1)) })).park? id =
      some { p with
        unfinished := 0, refused := p.refused ||| p.unfinished, faults := [], ready := true
        refusals := p.refusals ++ p.faults.map (fun f => (f.1, f.2.1, s.declineAux part f.2.1)) } := by
    refine (State.park?_modPark fun _ => ?_).trans (by rw [hpark, hp]; rfl)
    rfl
  unfold State.decline
  rw [hpark]
  dsimp only
  split
  · obtain ⟨h, -⟩ := State.opDone_keeps (State.modOp (State.modGang _ p.gang _) _ (fun o => { o with parked := false })) _
    exact ⟨(congrArg State.mem h).trans rfl, (congrArg (fun u : State => u.park? id) h).trans hpart⟩
  · exact ⟨rfl, hpart⟩

theorem park_replays {p : Park} (hpark : s.park? id = some p) (hg : s.gang? p.gang = some g) (hr : p.ready = true)
    (hh : s.parkHeld p = true) : Happens (.parkReplay id) s (fun t => t.mem = s.mem ∧ ∃ h, t.gang? p.gang = some h ∧ g.sameRegs h ∧
      g.become h p.slice (fun _ x y => if x.hold = .page id then y.hold = .none ∧ y.point = x.point ∧
        y.replay = some (match x.replay with
          | some m => m &&& p.unfinished
          | none => p.unfinished) else y = x)) := by
  have hid : p.id = id := beq_iff_eq.1 (List.find?_some (p := fun p : Park => p.id == id) hpark)
  refine ⟨(s.modPark id (fun p => { p with ready := true })).replayPark p, ?_, rfl, ?_⟩
  · show event ((s.park? id).bind _) = _
    rw [hpark, Option.bind_some, hr, hh]; rfl
  unfold State.replayPark
  refine ⟨_, (State.gang?_modGang_same fun g => (g.keeps_modAgent ..).fields.1).trans (congrArg (Option.map _) hg),
    (g.keeps_modAgent ..).sameRegs, fun i hi x hx => ?_⟩
  refine ⟨_, (Gang.slice?_modAgent ..).trans ((if_pos hi).trans (congrArg (Option.map _) hx)), ?_⟩
  rw [hid]
  dsimp only
  split
  · exact ⟨rfl, rfl, rfl⟩
  · rfl

end

/-- Settles O46, event by event. -/
theorem orderingEvents : Obligations.OrderingEvents := by
  intro s
  exact ⟨fun _ _ hf hr => fence_completes hf hr, fun _ _ ho ht hd hf => cctl_completes ho ht hd hf,
    fun _ _ _ _ hg hx => code_arrives hg hx, fun _ _ page hp => fault_resolved page hp,
    fun _ _ _ hp hpark => fault_declined hp hpark, fun _ _ _ hpark hg hr hh => park_replays hpark hg hr hh⟩

end Sys2Proof.Machine
end

section
/-!
What arrives from the memory system and from the special functions (R80, R120, R184, R187, R189, R207).
-/

namespace Sys2Proof.Machine

/-- Folds whose steps agree on the list's members agree. -/
theorem foldl_eq_of_mem {σ α : Type} {f g : σ → α → σ} {l : List α} (h : ∀ s, ∀ a ∈ l, f s a = g s a) (s : σ) :
    l.foldl f s = l.foldl g s := by
  induction l generalizing s with
  | nil => rfl
  | cons a l ih =>
    rw [List.foldl_cons, List.foldl_cons, h s a (List.mem_cons_self ..)]
    exact ih (fun s b hb => h s b (List.mem_cons_of_mem _ hb)) _

/-- A member taken out of a list and put before it gives a permutation of the list. -/
theorem perm_of_eraseIdx {α : Type} {l : List α} {n : Nat} (h : n < l.length) : (l[n] :: l.eraseIdx n).Perm l := by
  have hsplit : l.take n ++ l[n] :: l.drop (n + 1) = l := by rw [← List.drop_eq_getElem_cons h, List.take_append_drop]
  rw [List.eraseIdx_eq_take_drop_succ]
  exact List.perm_middle.symm.trans (.of_eq hsplit)

section
variable {s t : State} {g h k : Gang} {v : Reg} {n : Nat}

/-! ### Registers that results reach (R85, R184) -/

/-- A gang has taken results of the value `v` into d registers: where that value stood it stands. -/
structure Gang.Received (g h : Gang) (v : Reg) : Prop where
  outst : h.outst = g.outst
  exited : h.exited = g.exited
  dead : h.dead = g.dead
  keeps : ∀ r l, g.getR .d r l = v → h.getR .d r l = v

theorem Gang.Received.refl (g : Gang) (v : Reg) : g.Received g v := ⟨rfl, rfl, rfl, fun _ _ h => h⟩

theorem Gang.Received.trans (a : g.Received h v) (b : h.Received k v) : g.Received k v :=
  ⟨b.outst.trans a.outst, b.exited.trans a.exited, b.dead.trans a.dead, fun r l hr => b.keeps r l (a.keeps r l hr)⟩

theorem Gang.Received.unraced (a : g.Received h v) (hu : g.unraced) : h.unraced := fun o ho => hu o (a.outst ▸ ho)

theorem Gang.Received.here (a : g.Received h v) {l : Nat} (hl : g.here l) : h.here l := by
  unfold Gang.here
  rw [a.exited, a.dead]; exact hl

/-- A result that races with no other write reaches its lane as it is. -/
theorem Gang.received_deliverR (hu : g.unraced) (now choice w op r lane : Nat) (v : Reg) :
    g.Received (g.deliverR now choice w op .d r lane v) v ∧
    (g.here lane → (g.deliverR now choice w op .d r lane v).getR .d r lane = v) := by
  have hraced : g.outst.any (fun o => o.op == op && o.file == .d && o.idx == r && hasLane o.touched lane) = false := by
    rw [List.any_eq_false]
    intro o ho
    rw [hu o ho]; simp [hasLane]
  unfold Gang.deliverR
  split
  next hc =>
    refine ⟨.refl g v, fun hl => ?_⟩
    rw [show hasLane (g.exited ||| g.dead) lane = false from hl] at hc
    simp [ignoredReg] at hc
  · rw [hraced]
    refine ⟨⟨rfl, rfl, rfl, fun r' l hr => mapGet_mapSet.trans ?_⟩, fun _ => mapGet_mapSet_same⟩
    split
    · rfl
    · exact hr

theorem Gang.deliverR_id (g : Gang) (now choice w op : Nat) (f : RFile) (r lane : Nat) (v : Reg) :
    (g.deliverR now choice w op f r lane v).id = g.id := by
  have hset : ∀ (g : Gang) v, (g.setR f r lane v).id = g.id := fun g v => by
    cases f with
    | q => exact (apply_ite Gang.id ..).trans (by split <;> rfl)
    | p => exact (apply_ite Gang.id ..).trans (by split <;> rfl)
    | _ => rfl
  unfold Gang.deliverR
  split
  · rfl
  · exact hset _ _

/-- A delivery touches gangs and marks of poison alone. -/
theorem State.deliver_keeps (s : State) (n tag w : Nat) (f : RFile) (r lane : Nat) (v : Reg) :
    (s.deliver n tag w f r lane v).mem = s.mem ∧ (s.deliver n tag w f r lane v).fl = s.fl ∧
    (s.deliver n tag w f r lane v).blocks = s.blocks := by
  unfold State.deliver
  split
  · exact ⟨rfl, rfl, rfl⟩
  · dsimp only
    split <;> exact ⟨rfl, rfl, rfl⟩

theorem State.deliver_received (hg : s.gang? n = some g) (hu : g.unraced) (tag w r lane : Nat) (v : Reg) :
    ∃ h, (s.deliver n tag w .d r lane v).gang? n = some h ∧ g.Received h v ∧ (g.here lane → h.getR .d r lane = v) := by
  have hself : twinOf n g g = true := by unfold twinOf; rw [State.gang?_id hg, beq_self_eq_true]; rfl
  have hlook : ∀ c : Nat, ((mapWhere (twinOf n g) (fun h => h.deliverR s.pkg.clock c w tag .d r lane v) s.gangs).find?
      (fun g => g.id == n)) = some (g.deliverR s.pkg.clock c w tag .d r lane v) := fun c => by
    rw [find?_mapWhere _ _ _ _ fun x _ => by rw [Gang.deliverR_id]]
    rw [show s.gangs.find? (fun g => g.id == n) = some g from hg, Option.map_some, if_pos hself]
  unfold State.deliver
  rw [hg]
  dsimp only
  split
  · exact ⟨_, hlook _, Gang.received_deliverR hu ..⟩
  · exact ⟨_, hlook _, Gang.received_deliverR hu ..⟩

/-- Elements of one value reach their lanes. -/
theorem State.gives_received {o : MemOp} (hfile : o.file = .d) (v : Reg) (l : List Elt) (s : State) (g : Gang)
    (hg : s.gang? o.gang = some g) (hu : g.unraced) :
    (∃ h, (l.foldl (fun s x => s.give o x false v) s).gang? o.gang = some h ∧ g.Received h v ∧
      ∀ x ∈ l, g.here x.lane → h.getR .d (o.dest + x.hi.toNat) x.lane = v) ∧
    (l.foldl (fun s x => s.give o x false v) s).mem = s.mem ∧ (l.foldl (fun s x => s.give o x false v) s).fl = s.fl := by
  induction l generalizing s g with
  | nil => exact ⟨⟨g, hg, .refl g v, nofun⟩, rfl, rfl⟩
  | cons x l ih =>
    have hgive : s.give o x false v = s.deliver o.gang o.at_ (8 * o.bytes) .d (o.dest + x.hi.toNat) x.lane v := by
      rw [← hfile]; exact if_neg (by decide)
    obtain ⟨hmem, hfl, -⟩ := s.deliver_keeps o.gang o.at_ (8 * o.bytes) .d (o.dest + x.hi.toNat) x.lane v
    obtain ⟨k, hk, hrec, hx⟩ := State.deliver_received hg hu o.at_ (8 * o.bytes) (o.dest + x.hi.toNat) x.lane v
    rw [List.foldl_cons, hgive]
    obtain ⟨⟨h, hh, hrec', hrest⟩, hm, hf⟩ := ih _ k hk (hrec.unraced hu)
    refine ⟨⟨h, hh, hrec.trans hrec', fun y hy hl => ?_⟩, hm.trans hmem, hf.trans hfl⟩
    rcases List.mem_cons.1 hy with rfl | hy
    · exact hrec'.keeps _ _ (hx hl)
    · exact hrest y hy (hrec.here hl)

/-! ### Loads (R184, R187) -/

/-- What a touched line leaves: copies may come or go, none of them poisoned. -/
structure State.Touched (s t : State) : Prop where
  bytes : t.mem.bytes = s.mem.bytes
  units : t.mem.units = s.mem.units
  gangs : t.gangs = s.gangs
  fl : t.fl = s.fl
  errs : t.errs = s.errs
  copies : (∀ x ∈ s.mem.copies, x.bad = []) → ∀ x ∈ t.mem.copies, x.bad = []

theorem State.Touched.refl (s : State) : s.Touched s := ⟨rfl, rfl, rfl, rfl, rfl, id⟩

theorem State.Touched.trans {u : State} (a : s.Touched t) (b : t.Touched u) : s.Touched u :=
  ⟨b.bytes.trans a.bytes, b.units.trans a.units, b.gangs.trans a.gangs, b.fl.trans a.fl, b.errs.trans a.errs,
    fun h => b.copies (a.copies h)⟩

theorem State.touched_dropCopies (s : State) (p : L2Copy → Bool) : s.Touched (s.dropCopies p) :=
  ⟨rfl, rfl, rfl, rfl, rfl, fun h x hx => h x (List.mem_filter.1 hx).1⟩

theorem State.touched_choose (s : State) (n : Nat) : s.Touched (s.choose n).2 := ⟨rfl, rfl, rfl, rfl, rfl, id⟩

theorem State.touched_installCopy (hp : s.errs.poison = []) (wing part key a : Nat) : s.Touched (s.installCopy wing part key a) := by
  unfold State.installCopy
  dsimp only
  split
  · exact s.touched_dropCopies _
  next w t _ =>
    have h1 := ((s.touched_dropCopies fun c => c.wing == wing && c.line == a / 256).trans
      (State.touched_choose _ (t.length + 1))).trans (State.touched_dropCopies _ fun c => c.wing == wing &&
        c.way == (w :: t).getD ((s.dropCopies (fun c => c.wing == wing && c.line == a / 256)).choose (t.length + 1)).1 w &&
        lineSet wing c.line == lineSet wing (a / 256))
    refine ⟨h1.bytes, h1.units, h1.gangs, h1.fl, h1.errs, fun hc x hx => ?_⟩
    rcases List.mem_cons.1 hx with rfl | hx
    · show List.filter _ s.errs.poison = []
      rw [hp]; rfl
    · exact h1.copies hc x hx

theorem State.touched_touchLine (hp : s.errs.poison = []) (wing part key a ord : Nat) : s.Touched (s.touchLine wing part key a ord) := by
  unfold State.touchLine
  split
  · exact .refl s
  · split
    · exact s.touched_dropCopies _
    · have h1 := (s.touched_dropCopies fun c => c.wing == wing && c.line == a / 256 && c.key != key).trans (State.touched_choose _ 3)
      dsimp only
      split
      · exact h1
      · exact h1.trans (State.touched_dropCopies ..)
      · exact h1.trans (State.touched_installCopy (s := ((s.dropCopies _).choose 3).2) hp ..)

/-- Nothing read is poisoned where no grain, no write on its way, no store in the combiner and no copy is. -/
theorem State.placeBad_clean (hp : s.errs.poison = []) (hw : ∀ x ∈ s.fl.writes, x.bad = false) (ho : ∀ x ∈ s.fl.ops, x.row ≠ some true)
    (hc : ∀ x ∈ s.mem.copies, x.bad = []) (gid id blk wing : Nat) (p : Place) (n : Nat) : s.placeBad gid id blk wing p n = false := by
  have hfold : ∀ (wing : Nat) (l : List (Nat × Nat × Bool)), (∀ x ∈ l, x.2.2 = false) →
      l.foldl (fun l x => (if x.2.2 then writeSites wing x.1 x.2.1 else []) ++ l.filter (fun e => !coversPhys x.1 x.2.1 e)) [] = [] := by
    intro wing l hl
    induction l with
    | nil => rfl
    | cons x l ih =>
      rw [List.foldl_cons, hl x (List.mem_cons_self ..)]
      exact ih fun y hy => hl y (List.mem_cons_of_mem _ hy)
  have hown : ∀ x ∈ s.inCombiner gid id, x.2.2 = false := fun x hx => by
    obtain ⟨o, ho', hx⟩ := List.mem_flatMap.1 hx
    obtain ⟨e, -, rfl⟩ := List.mem_map.1 hx
    have : o ∈ s.fl.ops := (List.mem_filter.1 (List.mem_filter.1 ho').1).1
    exact beq_eq_false_iff_ne.2 (ho o this)
  have hbad : ∀ key a n, s.badAt wing key a n = [] := fun key a n => by
    unfold State.badAt
    split
    next c h =>
      have : c ∈ s.mem.copies := List.mem_of_find?_eq_some h
      rw [hc c this]; rfl
    · rw [hp]; rfl
  unfold State.placeBad
  cases p with
  | phys a key =>
    dsimp only
    unfold State.readsBad
    dsimp only
    rw [hbad, hfold, List.any_nil]
    intro x hx
    rcases List.mem_append.1 hx with hx | hx
    · obtain ⟨w, hw', rfl⟩ := List.mem_map.1 hx
      refine hw w ?_
      rcases List.mem_append.1 hw' with hw' | hw'
      · exact (List.mem_filter.1 (List.mem_filter.1 hw').1).1
      · exact (List.mem_filter.1 (List.mem_filter.1 hw').1).1
    · obtain ⟨y, hy, hx⟩ := List.mem_filterMap.1 hx
      obtain ⟨a, -, rfl⟩ := Option.map_eq_some_iff.1 hx
      exact hown y hy
  | scratch o => dsimp only; rw [hp]; rfl
  | stack o => rfl

/-- What is left of an operation of which elements are done with. -/
theorem State.elts_gone (s : State) (id : Nat) (p : Elt → Bool) {q : MemOp}
    (hq : ((s.modOp id (fun o => { o with elts := o.elts.filter p })).opDone id).op? id = some q) : ∀ e ∈ q.elts, p e = true := by
  obtain ⟨-, hops⟩ := (s.modOp id (fun o => { o with elts := o.elts.filter p })).opDone_keeps id
  obtain ⟨r, hr, hid, helts⟩ := hops q (List.mem_of_find?_eq_some hq)
  have hqid : q.id = id := beq_iff_eq.1 (List.find?_some (p := fun o : MemOp => o.id == id) hq)
  obtain ⟨o, -, rfl⟩ := List.mem_map.1 hr
  intro e he
  rw [← helts] at he
  split at he
  · exact (List.mem_filter.1 he).2
  next hn =>
    rw [if_neg hn] at hid
    exact absurd (beq_iff_eq.2 (hid.trans hqid)) hn

/-- A delivered operation ends: registers stand as they were, and so does all else but what ends with it. -/
theorem State.opDone_gang {o : MemOp} {f : MemOp → MemOp} (hg : s.gang? n = some g) :
    ∃ h, ((s.modOp o.id f).opDone o.id).gang? n = some h ∧ g.sameRegs h := by
  obtain ⟨h, hh, hk⟩ := ((s.modOp o.id f).keepsGangs_opDone o.id).gang n g hg
  exact ⟨h, hh, hk.sameRegs⟩

theorem State.opDone_mem (s : State) (id : Nat) : (s.opDone id).mem = s.mem := by
  have h := congrArg State.mem (s.opDone_keeps id).1
  exact h

theorem State.opDone_writes (s : State) (id : Nat) : (s.opDone id).fl.writes = s.fl.writes := by
  have h := congrArg (·.fl.writes) (s.opDone_keeps id).1
  exact h

end

/-! ### Load sectors -/

/-- The lines that a load touches before it reads. -/
def State.readsAt (s : State) (o : MemOp) (e : Elt) (w : Nat × Nat) : State :=
  match e.place with
  | .phys a key => s.touchLine w.2 (s.partOf w.1) key a o.ord
  | _ => s

/-- The value that a load's element gives (R187). -/
def State.readVal (s : State) (o : MemOp) (e : Elt) (w : Nat × Nat) : Nat :=
  match e.place with
  | .stack _ => e.data
  | _ => (s.readsAt o e w).viewPlace o.gang o.id w.1 w.2 e.place o.bytes

/-- The elements of the load that receive it. -/
def MemOp.sharing (o : MemOp) (e : Elt) : List Elt :=
  match e.place with
  | .stack _ => [e]
  | _ => o.elts.filter (fun x => x.place == e.place)

section
variable {s t : State} {g : Gang} {o : MemOp} {e : Elt} {w : Nat × Nat}

theorem MemOp.mem_sharing (he : e ∈ o.elts) : e ∈ o.sharing e := by
  unfold MemOp.sharing
  split
  · exact List.mem_singleton_self e
  · exact List.mem_filter.2 ⟨he, beq_self_eq_true _⟩

theorem State.touched_readsAt (hp : s.errs.poison = []) (o : MemOp) (e : Elt) (w : Nat × Nat) : s.Touched (s.readsAt o e w) := by
  unfold State.readsAt
  split
  · exact State.touched_touchLine hp ..
  · exact .refl s

/-- A load that meets no poison: its value reaches the lanes that share the place, and these elements are done with. -/
theorem State.loadIn_clean {sx : Bool} (hbad : (s.readsAt o e w).placeBad o.gang o.id w.1 w.2 e.place o.bytes = false)
    (hcmp : ∀ x, e.place = .stack x → e.cmp = 0) :
    s.loadIn o e sx w.1 w.2 =
      ((((o.sharing e).foldl (fun u x => u.give o x false (loadVal sx o.bytes (s.readVal o e w))) (s.readsAt o e w)).modOp o.id
        (fun p => { p with elts := p.elts.filter (fun x => !(o.sharing e).contains x) })).opDone o.id) := by
  unfold State.loadIn State.readVal MemOp.sharing
  unfold State.readsAt at hbad ⊢
  cases hp : e.place with
  | stack x =>
    simp only [hp] at hbad ⊢
    simp only [List.foldl_cons, List.foldl_nil, hp, hbad, hcmp x hp]
    rfl
  | phys a key =>
    simp only [hp] at hbad ⊢
    rw [hbad]
    refine congrArg (fun u : State => (u.modOp o.id _).opDone o.id) (foldl_eq_of_mem (fun u x hx => ?_) _)
    rw [beq_iff_eq.1 (List.mem_filter.1 hx).2]; rfl
  | scratch a =>
    simp only [hp] at hbad ⊢
    rw [hbad]
    refine congrArg (fun u : State => (u.modOp o.id _).opDone o.id) (foldl_eq_of_mem (fun u x hx => ?_) _)
    rw [beq_iff_eq.1 (List.mem_filter.1 hx).2]; rfl

theorem State.op?_id {op : Nat} (h : s.op? op = some o) : o.id = op :=
  beq_iff_eq.1 (List.find?_some (p := fun o : MemOp => o.id == op) h)

theorem MemOp.lane?_mem {lane : Nat} (h : o.lane? lane = some e) : e ∈ o.elts := List.mem_of_find?_eq_some h

theorem load_arrives {op lane : Nat} {sx : Bool} (hp : s.errs.poison = []) (ho : s.op? op = some o) (hk : o.kind = .load sx)
    (he : o.lane? lane = some e) (hw : s.wayOf o.gang = some w) (hg : s.gang? o.gang = some g)
    (hready : s.loadReady o e w.1 w.2 = true) (hheld : e.phys?.any (s.fabricHeld op) = false) (hgone : e.phys?.any s.gone = false)
    (hdie : s.dieOff w.2 = false) (hwrites : ∀ x ∈ s.fl.writes, x.bad = false) (hrows : ∀ x ∈ s.fl.ops, x.row ≠ some true)
    (hcopies : ∀ x ∈ s.mem.copies, x.bad = []) (hcmp : ∀ x, e.place = .stack x → e.cmp = 0) (hfile : o.file = .d)
    (hu : g.unraced) (hl : g.here e.lane) :
    Happens (.loadSectorArrival op lane) s (fun t => t.mem.bytes = s.mem.bytes ∧ t.mem.units = s.mem.units ∧
      (∀ p, t.op? op = some p → e ∉ p.elts) ∧
      ∃ h, t.gang? o.gang = some h ∧ h.getR .d (o.dest + e.hi.toNat) e.lane = loadVal sx o.bytes (s.readVal o e w)) := by
  have hin := MemOp.mem_sharing (MemOp.lane?_mem he)
  have hid := State.op?_id ho
  have htouch := State.touched_readsAt hp o e w
  have hclean : (s.readsAt o e w).placeBad o.gang o.id w.1 w.2 e.place o.bytes = false :=
    State.placeBad_clean (by rw [htouch.errs]; exact hp) (by rw [htouch.fl]; exact hwrites) (by rw [htouch.fl]; exact hrows)
      (htouch.copies hcopies) ..
  obtain ⟨⟨h, hh, hrec, hall⟩, hmem, -⟩ := State.gives_received hfile (loadVal sx o.bytes (s.readVal o e w)) (o.sharing e)
    (s.readsAt o e w) g (by unfold State.gang?; rw [htouch.gangs]; exact hg) hu
  refine ⟨s.loadIn o e sx w.1 w.2, ?_, ?_⟩
  · show event (s.loadArrives op lane) = _
    unfold State.loadArrives
    rw [ho, Option.bind_some, hk]
    dsimp only
    rw [he, Option.bind_some, hw, Option.bind_some, hready, hdie, hheld, hgone]
    rfl
  rw [State.loadIn_clean hclean hcmp]
  obtain ⟨k, hk', hregs⟩ := State.opDone_gang (o := o) (f := fun p => { p with elts := p.elts.filter (fun x => !(o.sharing e).contains x) }) hh
  refine ⟨?_, ?_, fun q hq hmem => ?_, k, hk', ?_⟩
  · rw [State.opDone_mem]
    exact (congrArg Mem.bytes hmem).trans htouch.bytes
  · rw [State.opDone_mem]
    exact (congrArg Mem.units hmem).trans htouch.units
  · rw [← hid] at hq
    have := State.elts_gone _ o.id (fun x => !(o.sharing e).contains x) hq e hmem
    rw [List.contains_iff_mem.2 hin] at this
    cases this
  · rw [hregs]
    exact hall e hin hl

end

/-! ### Stores (R187, R207) -/

section
variable {s t : State} {g : Gang} {o : MemOp} {e : Elt} {w : Nat × Nat} {n : Nat}

/-- A shading gang's end brings gangs and takes none (R301). -/
theorem State.gangs_shadeEnded (s : State) (b v : Nat) : ∃ l, (s.shadeEnded b v).gangs = s.gangs ++ l := by
  have hstart : ∀ (u : State) (o : Option State), (∀ t, o = some t → ∃ l, t.gangs = u.gangs ++ l) → ∃ l, (o.getD u).gangs = u.gangs ++ l :=
    fun u o ho => by
      cases o with
      | none => exact ⟨[], (List.append_nil _).symm⟩
      | some t => exact ho t rfl
  have hnext : ∀ (u t : State) l lv w, u.startNext l lv w = some t → ∃ l, t.gangs = u.gangs ++ l := fun u t l lv w h => by
    unfold State.startNext at h
    split at h
    · cases h
    · split at h <;> cases h
      exact ⟨_, rfl⟩
  unfold State.shadeEnded
  dsimp only
  split
  · exact ⟨[], (List.append_nil _).symm⟩
  next v' _ =>
    obtain ⟨l, hl⟩ := hstart _ _ fun t ht => hnext ((s.modView v (fun w => { w with running := w.running - 1 })).modBlock b
      (fun b => { b with ended := true })) t v'.launch v'.level v'.wing ht
    refine ⟨l, ?_⟩
    split
    · exact hl
    · exact hl

/-- The gang has nothing to release: no arrival of it is recorded and no exit effect is due (R220, R241). -/
def Gang.released (g : Gang) : Prop := g.arrivals = [] ∧ g.exitDue = false

theorem State.endGang_released (m : Nat) (hg : s.gang? n = some g) (hr : g.released) :
    ∃ h, (s.endGang m).gang? n = some h ∧ h.released := by
  unfold State.endGang
  split
  · exact ⟨g, hg, hr⟩
  · split
    · exact ⟨g, hg, hr⟩
    · have h1 : (s.modGang m (fun g => { g with life := .ended, pendTraps := [], arrivals := [] })).gang? n =
          some (if g.id = m then { g with life := .ended, pendTraps := [], arrivals := [] } else g) :=
        
          (State.gang?_modGang (f := fun g => { g with life := .ended, pendTraps := [], arrivals := [] }) fun _ => rfl).trans
            (by rw [hg, Option.map_some])
      have h2 : (if g.id = m then ({ g with life := .ended, pendTraps := [], arrivals := [] } : Gang) else g).released := by
        split
        · exact ⟨rfl, hr.2⟩
        · exact hr
      dsimp only
      split
      · obtain ⟨l, hl⟩ := State.gangs_shadeEnded (s.modGang m (fun g => { g with life := .ended, pendTraps := [], arrivals := [] })) _ _
        refine ⟨_, ?_, h2⟩
        unfold State.gang? at h1 ⊢
        rw [hl, List.find?_append, h1]; rfl
      · exact ⟨_, h1, h2⟩

theorem State.endToken_released (m tag : Nat) (hg : s.gang? n = some g) (hr : g.released) :
    (∃ h, (s.endToken m tag).gang? n = some h ∧ h.released) ∧
    ∀ i b, s.block? i = some b → ∃ e, (s.endToken m tag).block? i = some { b with ended := e } := by
  have hfold : ∀ (l : List Nat) (u : State), (∃ h, u.gang? n = some h ∧ h.released) →
      (∃ h, (l.foldl (fun s i => s.endGang i) u).gang? n = some h ∧ h.released) ∧ Ends u (l.foldl (fun s i => s.endGang i) u) := by
    intro l
    induction l with
    | nil => exact fun u hu => ⟨hu, .refl u⟩
    | cons i l ih =>
      rintro u ⟨h, hh, hr⟩
      obtain ⟨k1, k2⟩ := ih (u.endGang i) (State.endGang_released i hh hr)
      exact ⟨k1, (Ends.endGang i).trans k2⟩
  unfold State.endToken
  split
  · exact ⟨⟨g, hg, hr⟩, fun i b hb => ⟨b.ended, hb⟩⟩
  next k hk =>
    dsimp only
    obtain ⟨h1, h2⟩ := hfold ((s.gangs.filter (twinOf m k)).map (·.id)) { s with gangs := mapWhere (twinOf m k) (fun h =>
        match h.tracked.find? (fun t => t.op == tag) with
        | none => h
        | some t => { ((h.settleR tag).decK t.token s.pkg.clock) with tracked := h.tracked.filter (fun t => t.op != tag) }) s.gangs } (by
      refine ⟨_, (find?_mapWhere _ _ _ _ fun x _ => ?_).trans (congrArg (Option.map _) hg), ?_⟩
      · dsimp only; split <;> rfl
      · dsimp only
        split
        · split
          · exact hr
          · exact hr
        · exact hr)
    exact ⟨h1, h2.blocks⟩

/-- A gang with nothing to release releases nothing. -/
theorem State.settleReleases_released (hg : s.gang? n = some g) (hr : g.released) : s.settleReleases n = s := by
  have harr : s.settleArrivals n = s := by
    unfold State.settleArrivals
    rw [hg]
    dsimp only
    rw [hr.1]; rfl
  unfold State.settleReleases
  rw [harr]
  unfold State.settleExit
  rw [hg]
  dsimp only
  rw [hr.2]; rfl

/-- The end of an operation of a gang with nothing to release leaves blocks but for their ends. -/
theorem State.opDone_blocks {id : Nat} (ho : ∀ o, s.op? id = some o → o.gang = n) (hg : s.gang? n = some g) (hr : g.released) :
    ∀ i b, s.block? i = some b → ∃ e, (s.opDone id).block? i = some { b with ended := e } := by
  unfold State.opDone
  split
  · exact fun i b hb => ⟨b.ended, hb⟩
  next o hop =>
    split
    · exact fun i b hb => ⟨b.ended, hb⟩
    · dsimp only
      have h1 : ∃ u : State, u = (if o.token && (o.elts == [] || (o.kind == .store && decide (o.ord ≤ 1))) then
          (s.endToken o.gang o.at_).modOp id (fun o => { o with token := false }) else s) ∧
          (∃ h, u.gang? n = some h ∧ h.released) ∧ ∀ i b, s.block? i = some b → ∃ e, u.block? i = some { b with ended := e } := by
        refine ⟨_, rfl, ?_⟩
        split
        · exact State.endToken_released o.gang o.at_ hg hr
        · exact ⟨⟨g, hg, hr⟩, fun i b hb => ⟨b.ended, hb⟩⟩
      obtain ⟨u, hu, ⟨h, hh, hrel⟩, hblocks⟩ := h1
      rw [← hu, ho o hop]
      split
      · rw [State.settleReleases_released (s := u.dropOp id) hh hrel]
        exact hblocks
      · exact hblocks

/-- An operation without an element that is done with. -/
def MemOp.less (o : MemOp) (e : Elt) : MemOp := { o with elts := o.elts.erase e }

/-- A store whose element may leave leaves. -/
theorem storePerformed_eq {op lane : Nat} (ho : s.op? op = some o) (hk : o.kind = .store) (he : o.lane? lane = some e)
    (hw : s.wayOf o.gang = some w) (hready : s.storeReady o e w.1 w.2 = true) (hdie : s.dieOff w.2 = false)
    (hfar : 4 ≤ o.ord → e.phys?.any (s.fabricHeld op) = false ∧ e.phys?.any s.gone = false) :
    exec (.storePerformed op lane) s = .next ((s.storeOut o e w.1 w.2).opDone op) := by
  show event (s.storeMoves op lane) = _
  have hpair : (s.op? op).bind (fun o => if o.isStore then (o.lane? lane).map (fun e => (o, e)) else none) = some (o, e) := by
    have hst : o.isStore = true := beq_iff_eq.2 hk
    rw [ho, Option.bind_some, if_pos hst, he]; rfl
  unfold State.storeMoves
  rw [hpair]
  dsimp only
  rw [hw, Option.bind_some, hready, hdie]
  by_cases h4 : 4 ≤ o.ord
  · rw [decide_eq_true h4, (hfar h4).1, (hfar h4).2]; rfl
  · rw [decide_eq_false h4]; rfl

theorem store_performed {op lane : Nat} (ho : s.op? op = some o) (hk : o.kind = .store) (he : o.lane? lane = some e)
    (hw : s.wayOf o.gang = some w) (hready : s.storeReady o e w.1 w.2 = true) (hdie : s.dieOff w.2 = false)
    (hfar : 4 ≤ o.ord → e.phys?.any (s.fabricHeld op) = false ∧ e.phys?.any s.gone = false) :
    (∀ x b g, e.place = .scratch x → s.block? w.1 = some b → s.gang? o.gang = some g → g.arrivals = [] → g.exitDue = false →
      Happens (.storePerformed op lane) s (fun t => t.mem = s.mem ∧
      ∃ d, t.block? w.1 = some d ∧ d.scratch = mapSetAll b.scratch (leCells x o.bytes e.data))) ∧
    (∀ a k, e.place = .phys a k → o.ord ≤ 2 → Happens (.storePerformed op lane) s (fun t => t.mem = s.mem ∧
      ∃ m, t.fl.writes = s.fl.writes ++ [m] ∧ m.addr = a ∧ m.key = k ∧ m.bytes = o.bytes ∧ m.data = e.data ∧
        m.atWing = false ∧ m.block = w.1)) ∧
    (∀ a k, e.place = .phys a k → o.ord = 3 → s.homedAt w.2 a = false → Happens (.storePerformed op lane) s (fun t => t.mem = s.mem ∧
      ∃ m, t.fl.writes = s.fl.writes ++ [m] ∧ m.addr = a ∧ m.key = k ∧ m.bytes = o.bytes ∧ m.data = e.data ∧
        m.atWing = true ∧ m.wing = w.2)) ∧
    (∀ a k, e.place = .phys a k → (4 ≤ o.ord ∨ o.ord = 3 ∧ s.homedAt w.2 a = true) → Happens (.storePerformed op lane) s (fun t =>
      t.mem.bytes = (s.mem.writeN k a o.bytes e.data).bytes ∧ t.mem.units = (s.mem.writeN k a o.bytes e.data).units)) := by
  have hid := State.op?_id ho
  have hnext := storePerformed_eq ho hk he hw hready hdie hfar
  refine ⟨fun x b g hp hb hg ha hx => ?_, fun a k hp h2 => ?_, fun a k hp h3 hhome => ?_, fun a k hp h4 => ?_⟩
  · have hout : s.storeOut o e w.1 w.2 = (s.modOp o.id (·.less e)).scratchWrite w.1 x o.bytes e.data := by
      unfold State.storeOut; rw [hp]; rfl
    rw [hout] at hnext
    refine ⟨_, hnext, by rw [State.opDone_mem]; rfl, ?_⟩
    have hblock : ((s.modOp o.id (·.less e)).scratchWrite w.1 x o.bytes e.data).block? w.1 =
        some { b with scratch := mapSetAll b.scratch (leCells x o.bytes e.data) } :=
      State.block?_modBlock_same (s := s.modOp o.id (·.less e))
        (k := fun b => { b with scratch := mapSetAll b.scratch (leCells x o.bytes e.data) }) (fun _ => rfl) hb
    have hgang : ∀ q, ((s.modOp o.id (·.less e)).scratchWrite w.1 x o.bytes e.data).op? op = some q →
        q.gang = o.gang := fun q hq => by
      change (s.modOp o.id _).op? op = some q at hq
      rw [hid, State.op?_modOp (f := (·.less e)) fun _ => rfl, ho] at hq
      cases hq; rfl
    obtain ⟨d, hd⟩ := State.opDone_blocks (n := o.gang) hgang hg ⟨ha, hx⟩ _ _ hblock
    exact ⟨_, hd, rfl⟩
  · have hno : ¬(4 ≤ o.ord ∨ o.ord = 3 ∧ s.homedAt w.2 a = true) := by omega
    have h3 : (o.ord == 3) = false := beq_eq_false_iff_ne.2 (by omega)
    unfold State.storeOut at hnext
    simp only [hp] at hnext
    rw [if_neg hno] at hnext
    refine ⟨_, hnext, by rw [State.opDone_mem]; rfl, _, by rw [State.opDone_writes]; rfl, rfl, rfl, rfl, rfl, h3, rfl⟩
  · have hno : ¬(4 ≤ o.ord ∨ o.ord = 3 ∧ s.homedAt w.2 a = true) := fun h => by
      rcases h with h | ⟨-, h⟩
      · omega
      · rw [hhome] at h; cases h
    unfold State.storeOut at hnext
    simp only [hp] at hnext
    rw [if_neg hno] at hnext
    refine ⟨_, hnext, by rw [State.opDone_mem]; rfl, _, by rw [State.opDone_writes]; rfl, rfl, rfl, rfl, rfl, beq_iff_eq.2 h3, rfl⟩
  · unfold State.storeOut at hnext
    simp only [hp] at hnext
    rw [if_pos h4] at hnext
    refine ⟨_, hnext, ?_, ?_⟩
    · rw [State.opDone_mem]; rfl
    · rw [State.opDone_mem]; rfl

/-! ### Writes on their way (R207) -/

/-- A write beyond its wing reaches its home; another goes on to its wing. -/
theorem State.writeOut_mem (s : State) (w : Write) :
    if w.atWing || s.homedAt w.wing w.addr then
      (s.writeOut w).mem.bytes = (s.mem.writeN w.key w.addr w.bytes w.data).bytes ∧ (s.writeOut w).fl.writes = s.fl.writes.erase w
    else (s.writeOut w).mem = s.mem ∧ (s.writeOut w).fl.writes = s.fl.writes.erase w ++ [{ w with atWing := true }] := by
  have hpoison : ∀ (t : State) (wing a : Nat) (l : List ErrSite), (t.poisonHome wing a l).mem.bytes = t.mem.bytes := fun t wing a l =>
    (foldl_keeps (fun u : State => u.mem.bytes) State.addPoison (fun u e => by unfold State.addPoison; split <;> rfl) _ _).trans rfl
  unfold State.writeOut
  dsimp only
  by_cases hc : (w.atWing || s.homedAt w.wing w.addr) = true
  · rw [if_pos hc, if_pos hc]
    split
    · rw [hpoison, State.fl_poisonHome]
      exact ⟨rfl, rfl⟩
    · exact ⟨rfl, rfl⟩
  · rw [if_neg hc, if_neg hc]
    exact ⟨rfl, rfl⟩

theorem write_goesOn {op lane : Nat} {w : Write} (ho : s.op? op = none)
    (hw : s.fl.writes.find? (fun w => w.id == op && w.lane == lane) = some w) (hready : s.writeReady w = true)
    (hdie : s.dieOff w.wing = false) (hfar : w.atWing = true → s.fabricHeld op w.addr = false ∧ s.gone w.addr = false) :
    exec (.storePerformed op lane) s = .next (s.writeOut w) := by
  show event (s.storeMoves op lane) = _
  unfold State.storeMoves
  rw [ho, Option.bind_none]
  dsimp only
  rw [hw, Option.bind_some, hready, hdie]
  cases ha : w.atWing
  · rfl
  · rw [(hfar ha).1, (hfar ha).2]; rfl

/-! ### Atomics (R189, R190) -/

/-- Which bytes a write changes does not depend on the copies in the wings. -/
theorem Mem.writeN_copies (m : Mem) (l : List L2Copy) (k a n v : Nat) :
    ({ m with copies := l } : Mem).writeN k a n v = { m.writeN k a n v with copies := l } := by
  have hone : ∀ (m : Mem) (a : Nat) (b : BitVec 8), ({ m with copies := l } : Mem).write k a b = { m.write k a b with copies := l } :=
    fun m a b => by
      have hadopt : ({ m with copies := l } : Mem).adopt k a = { m.adopt k a with copies := l } := by
        have htag : ({ m with copies := l } : Mem).tag k = m.tag k := rfl
        unfold Mem.adopt
        rw [htag]
        dsimp only
        split <;> rfl
      unfold Mem.write
      rw [hadopt]
  have hall : ∀ (c : List (Nat × BitVec 8)) (m : Mem), c.foldl (fun acc p => acc.write k p.1 p.2) { m with copies := l } =
      { c.foldl (fun acc p => acc.write k p.1 p.2) m with copies := l } := by
    intro c
    induction c with
    | nil => exact fun m => rfl
    | cons p c ih =>
      intro m
      rw [List.foldl_cons, List.foldl_cons, hone, ih]
  exact hall _ m

theorem atomic_performs {op lane aop a k : Nat} {ret : Bool} (hpoison : s.errs.poison = []) (ho : s.op? op = some o)
    (hk : o.kind = .atomic aop ret) (he : o.lane? lane = some e) (hw : s.wayOf o.gang = some w)
    (hready : s.atomReady o e w.1 w.2 = true) (hheld : s.fabricHeld op a = false) (hgone : s.gone a = false) (hdie : s.dieOff w.2 = false)
    (hp : e.place = .phys a k) (hone : o.elts.filter (fun x => x.place == e.place) = [e]) :
    Happens (.atomicPerform op lane) s (fun t =>
      t.mem.bytes = (s.mem.writeN k a o.bytes (atomVal aop (8 * o.bytes) (s.mem.readN k a o.bytes) e.data e.cmp)).bytes ∧
      ∀ g, s.gang? o.gang = some g → ret = true → o.file = .d → g.unraced → g.here e.lane →
        ∃ h, t.gang? o.gang = some h ∧ h.getR .d (o.dest + e.hi.toNat) e.lane = BitVec.ofNat 64 (s.mem.readN k a o.bytes)) := by
  have hclean : s.physBad a o.bytes = false := by unfold State.physBad; rw [hpoison]; rfl
  have hphys : e.phys? = some a := by unfold Elt.phys?; rw [hp]
  obtain ⟨u, hu⟩ : ∃ u, u = (s.dropCopies (fun c => c.wing == w.2 && c.line == a / 256)).homeWrite w.2 k a o.bytes
      (atomVal aop (8 * o.bytes) (s.mem.readN k a o.bytes) e.data e.cmp) := ⟨_, rfl⟩
  have hbytes : u.mem.bytes = (s.mem.writeN k a o.bytes (atomVal aop (8 * o.bytes) (s.mem.readN k a o.bytes) e.data e.cmp)).bytes := by
    rw [hu]
    show (Mem.writeN { s.mem with copies := s.mem.copies.filter _ } k a o.bytes _).bytes = _
    rw [Mem.writeN_copies]
  have hgangs : u.gangs = s.gangs := by rw [hu]; rfl
  have hatom : s.atomOne o aop ret w.1 w.2 e = if ret then u.give o e false (BitVec.ofNat 64 (s.mem.readN k a o.bytes)) else u := by
    unfold State.atomOne
    simp only [hp, hclean, hu]
    rfl
  refine ⟨s.atomAll o e aop ret w.1 w.2, ?_, ?_⟩
  · show event (s.atomPerforms op lane) = _
    unfold State.atomPerforms
    rw [ho, Option.bind_some, hk]
    dsimp only
    rw [he, Option.bind_some, hw, Option.bind_some, hready, hdie, hphys]
    simp only [Option.any_some, hheld, hgone]
    rfl
  unfold State.atomAll
  rw [hone]
  dsimp only [List.foldl_cons, List.foldl_nil]
  rw [hatom]
  cases ret with
  | false =>
    rw [if_neg (by decide)]
    refine ⟨?_, fun g _ hret => nomatch hret⟩
    rw [State.opDone_mem]
    exact hbytes
  | true =>
    rw [if_pos rfl]
    have hgive : u.give o e false (BitVec.ofNat 64 (s.mem.readN k a o.bytes)) = u.deliver o.gang o.at_ (8 * o.bytes) o.file
        (o.dest + e.hi.toNat) e.lane (BitVec.ofNat 64 (s.mem.readN k a o.bytes)) := if_neg (by decide)
    rw [hgive]
    refine ⟨?_, fun g hg _ hfile hun hl => ?_⟩
    · rw [State.opDone_mem]
      exact (congrArg Mem.bytes (u.deliver_keeps ..).1).trans hbytes
    · rw [hfile]
      obtain ⟨h, hh, -, hval⟩ := State.deliver_received (s := u) (n := o.gang) (g := g)
        (by unfold State.gang?; rw [hgangs]; exact hg) hun o.at_ (8 * o.bytes) (o.dest + e.hi.toNat) e.lane
        (BitVec.ofNat 64 (s.mem.readN k a o.bytes))
      obtain ⟨h', hh', hregs⟩ := State.opDone_gang (o := o) (f := fun p => { p with elts := p.elts.filter (fun x => !([e].contains x)) }) hh
      exact ⟨h', hh', by rw [hregs]; exact hval hl⟩

end

/-! ### Register results (R80, R120) -/

section
variable {s : State} {g : Gang}

/-- A gang whose landed results are counted off. -/
def Gang.landed (g : Gang) (now : Nat) : Gang := { g with olds := g.olds.filter (fun o => decide (now < o.lands)) }

theorem results_land {id : Nat} (hg : s.gang? id = some g) (hl : g.olds.any (fun o => decide (o.lands ≤ s.pkg.clock)) = true) :
    Happens (.resultWriteback id) s (fun t => t.mem = s.mem ∧ ∃ h, t.gang? id = some h ∧ g.sameRegs h ∧
      h.olds = g.olds.filter (fun o => decide (s.pkg.clock < o.lands))) := by
  refine ⟨s.modGang id (·.landed s.pkg.clock), ?_, rfl, g.landed s.pkg.clock, ?_, fun _ _ _ => rfl, rfl⟩
  · show event _ = _
    rw [hg, Option.bind_some, if_pos hl]; rfl
  · rw [State.gang?_modGang_same (f := (·.landed s.pkg.clock)) fun _ => rfl, hg, Option.map_some]

/-- Some value that is left is delivered, and the others are left then. -/
theorem special_delivers {op : Nat} {o : SpecialOp} (hf : s.fl.specials.find? (fun o => o.id == op) = some o)
    (htwin : s.twinReady o.gang o.at_ = true) (hg : s.gang? o.gang = some g) (hu : g.unraced) (hlanes : ∀ p ∈ o.vals, g.here p.1)
    (hvals : o.vals ≠ []) (hdie : ∀ w, s.wayOf o.gang = some w → s.dieOff w.2 = false) :
    Happens (.specialFunctionDelivery op) s (fun t => t.mem = s.mem ∧ ∃ p l h, (p :: l).Perm o.vals ∧
      t.gang? o.gang = some h ∧ h.getR .d o.dest p.1 = p.2 ∧
      t.fl.specials = if l = [] then s.fl.specials.filter (fun x => x.id != op)
        else mapWhere (fun x => x.id == op) (fun x => { x with vals := l }) s.fl.specials) := by
  have hpos : 0 < o.vals.length := List.length_pos_iff.2 hvals
  obtain ⟨n, hn⟩ : ∃ n, n = (s.choose (max 1 o.vals.length)).1 := ⟨_, rfl⟩
  have hlt : n < o.vals.length := by
    have := Nat.mod_lt (Config.pick s.choice (max 1 o.vals.length)) (show 0 < max 1 o.vals.length by omega)
    rw [hn]
    refine Nat.lt_of_lt_of_le this ?_
    omega
  have hoff : (s.wayOf o.gang).any (fun w => s.dieOff w.2) = false := by
    cases hw : s.wayOf o.gang with
    | none => rfl
    | some w => exact hdie w hw
  obtain ⟨u, hu'⟩ : ∃ u, u = (s.choose (max 1 o.vals.length)).2.deliver o.gang o.at_ 64 .d o.dest o.vals[n].1 o.vals[n].2 := ⟨_, rfl⟩
  obtain ⟨hmem, hfl, -⟩ := (s.choose (max 1 o.vals.length)).2.deliver_keeps o.gang o.at_ 64 .d o.dest o.vals[n].1 o.vals[n].2
  obtain ⟨h, hh, -, hval⟩ := State.deliver_received (s := (s.choose (max 1 o.vals.length)).2) (n := o.gang) (g := g) hg hu o.at_ 64
    o.dest o.vals[n].1 o.vals[n].2
  rw [← hu'] at hmem hfl hh
  have hgot := hval (hlanes _ (List.getElem_mem hlt))
  have hone : (o.vals.drop n).take 1 = [o.vals[n]] := by rw [List.drop_eq_getElem_cons hlt]; rfl
  have hev : exec (.specialFunctionDelivery op) s = .next (if o.vals.eraseIdx n = [] then
      ({ u with fl := { u.fl with specials := u.fl.specials.filter (fun x => x.id != op) } } : State).endToken o.gang o.at_
      else { u with fl := { u.fl with specials := mapWhere (fun x => x.id == op) (fun x => { x with vals := o.vals.eraseIdx n })
                                                    u.fl.specials } }) := by
    show event _ = _
    rw [hf, Option.bind_some, htwin, hoff]
    simp only [← hn, hone, List.foldl_cons, List.foldl_nil, ← hu']
    rfl
  refine ⟨_, hev, ?_⟩
  have hperm := perm_of_eraseIdx hlt
  split
  next hnil =>
    obtain ⟨h', hh', hk⟩ := (State.keepsGangs_endToken
      { u with fl := { u.fl with specials := u.fl.specials.filter (fun x => x.id != op) } } o.gang o.at_).gang o.gang h hh
    have hapart := State.apart_endToken (s := { u with fl := { u.fl with specials := u.fl.specials.filter (fun x => x.id != op) } })
      o.gang o.at_
    refine ⟨?_, o.vals[n], o.vals.eraseIdx n, h', hperm, hh', ?_, ?_⟩
    · have hm := congrArg State.mem hapart
      exact Eq.trans hm hmem
    · rw [hk.sameRegs]; exact hgot
    · rw [if_pos hnil]
      have hs := congrArg (·.fl.specials) hapart
      exact Eq.trans hs (by show u.fl.specials.filter _ = _; rw [hfl]; rfl)
  next hnil =>
    refine ⟨hmem, o.vals[n], o.vals.eraseIdx n, h, hperm, hh, hgot, ?_⟩
    rw [if_neg hnil]
    show mapWhere _ _ u.fl.specials = _
    rw [hfl]; rfl

end

/-- Settles O45: each event's outcome follows from the rule for what it delivers. -/
theorem memoryEvents : Obligations.MemoryEvents := by
  intro s hp
  refine ⟨fun op lane o e sx w g ho hk he hw hg hready hheld hgone hdie hwrites hrows hcopies hcmp hfile hu hl =>
      load_arrives hp ho hk he hw hg hready hheld hgone hdie hwrites hrows hcopies hcmp hfile hu hl,
    fun op lane o e w ho hk he hw hready hdie hfar => store_performed ho hk he hw hready hdie hfar,
    fun op lane w ho hw hready hdie hfar => ⟨_, write_goesOn ho hw hready hdie hfar, s.writeOut_mem w⟩,
    fun op lane o e w aop ret a k ho hk he hw hready hheld hgone hdie hpl hone =>
      atomic_performs hp ho hk he hw hready hheld hgone hdie hpl hone,
    fun id g hg hl => results_land hg hl,
    fun op o g hf htwin hg hu hlanes hvals hdie => special_delivers hf htwin hg hu hlanes hvals hdie⟩

end Sys2Proof.Machine
end

section
/-!
The easel's cycle: its exchanges, the agent that it chooses, what it counts; starved barriers; compared twins (R66, R78, R244,
R248 to R252, R349).
-/

namespace Sys2Proof.Machine

/-! ### No settling takes or gives the issue -/

section
variable (s : State)

theorem State.issuing_endGang (n : Nat) : (s.endGang n).issuing = s.issuing := by
  have h := congrArg State.issuing (s.apart_endGang n)
  exact h

theorem State.issuing_takeTrap (aid : AgentId) (tr : Trap) (m : Mask) : (s.takeTrap aid tr m).issuing = s.issuing := by
  have hesc : ∀ g sl, (s.escalates g sl tr m).issuing = s.issuing := fun g sl => by
    unfold State.escalates
    dsimp only
    split
    · unfold State.endShading
      exact (State.issuing_endGang ..).trans rfl
    · rfl
  cases hg : s.gang? aid.gang with
  | none => unfold State.takeTrap; rw [hg]
  | some g =>
    rw [State.takeTrap_of hg]
    split
    · split
      · exact hesc ..
      · rfl
    · split
      · exact hesc ..
      · unfold State.cleanTrapState
        split <;> rfl

theorem State.issuing_trapAtNext (aid : AgentId) (tr : Trap) (same : Gang → Bool) : (s.trapAtNext aid tr same).issuing = s.issuing := by
  have hboth : ∀ (s : State) a b t u m n, ((s.takeTrap a t m).takeTrap b u n).issuing = s.issuing := fun s a b t u m n =>
    (State.issuing_takeTrap ..).trans (State.issuing_takeTrap ..)
  unfold State.trapAtNext
  split
  · rfl
  · split
    · exact s.issuing_takeTrap ..
    · dsimp only
      split
      · exact hboth ..
      · split
        · exact (hboth ..).trans rfl
        · exact hboth ..

theorem State.issuing_endBodies (aid : AgentId) : (s.endBodies aid).issuing = s.issuing := by
  unfold State.endBodies
  split
  · rfl
  · split
    · rfl
    · split
      · split
        · exact s.issuing_trapAtNext ..
        · rfl
      · rfl

theorem State.issuing_settleSlices (n : Nat) : (s.settleSlices n).issuing = s.issuing := by
  unfold State.settleSlices
  split
  · rfl
  · exact (foldl_keeps State.issuing (fun s i => s.newFence n (some i) 2 0 false) (fun s i => rfl) _ _).trans rfl

theorem State.issuing_switchAll (g : Gang) (sl : Option Nat) (l : List (Nat × Slice × Nat)) : (s.switchAll g sl l).issuing = s.issuing := by
  unfold State.switchAll
  dsimp only
  split
  · exact (State.issuing_settleSlices ..).trans rfl
  · exact (State.issuing_settleSlices ..).trans ((foldl_keeps State.issuing
      (fun s (p : Nat × Slice × Nat) => s.newFence g.id (some p.1) 2 0 false) (fun s p => rfl) _ _).trans rfl)

end

section
variable {s t : State}

theorem State.issuing_joinAgent {g : Gang} {sl : Option Nat} (h : s.joinAgent g sl = some t) : t.issuing = s.issuing := by
  have hraise : ∀ (tr : Trap) (same : Gang → Bool) (t : State),
      (if s.agentLevel g sl then some (s.trapAtNext ⟨g.id, sl⟩ tr same) else none) = some t → t.issuing = s.issuing := by
    intro tr same t h
    split at h <;> cases h
    exact s.issuing_trapAtNext ..
  unfold State.joinAgent at h
  dsimp only at h
  split at h
  · exact hraise _ _ _ h
  · split at h
    · exact hraise _ _ _ h
    · split at h <;> cases h
      exact s.issuing_switchAll ..

theorem State.issuing_settleAgent {n : Nat} {sl : Option Nat} (h : s.settleAgent n sl = some t) : t.issuing = s.issuing := by
  unfold State.settleAgent at h
  obtain ⟨g, -, h⟩ := Option.bind_eq_some_iff.1 h
  obtain ⟨x, -, h⟩ := Option.bind_eq_some_iff.1 h
  split at h
  · cases h
  · split at h
    · split at h <;> cases h
      exact s.issuing_endBodies ..
    · exact State.issuing_joinAgent h

theorem State.issuing_settleOne {n : Nat} (h : s.settleOne n = some t) : t.issuing = s.issuing := by
  unfold State.settleOne at h
  obtain ⟨g, -, h⟩ := Option.bind_eq_some_iff.1 h
  split at h
  · obtain ⟨sl, -, h⟩ := List.exists_of_findSome?_eq_some h
    exact State.issuing_settleAgent h
  · cases h

theorem State.issuing_settleGang (s : State) (n : Nat) : (s.settleGang n).issuing = s.issuing := by
  have hsteps : ∀ (k : Nat) (s : State), (settleSteps n k s).issuing = s.issuing := by
    intro k
    induction k with
    | zero => exact fun s => rfl
    | succ k ih =>
      intro s
      unfold settleSteps
      split
      next t h => exact (ih t).trans (State.issuing_settleOne h)
      · rfl
  unfold State.settleGang
  obtain ⟨e, he⟩ := (settleSteps n 256 s).consumed_eq s n
  rw [he]
  exact hsteps 256 s

theorem State.issuing_opened (s : State) (e : Nat) : (s.opened e).issuing = s.issuing := by
  have hwatch : (s.watch e).issuing = s.issuing := by
    unfold State.watch
    exact foldl_keeps State.issuing _ (fun s (g : Gang) => s.issuing_settleGang g.id) _ _
  have hfill : ∀ (n : Nat) (u : State), (u.fill e n).issuing = u.issuing := by
    intro n
    induction n with
    | zero => exact fun u => rfl
    | succ n ih =>
      intro u
      unfold State.fill
      dsimp only
      split
      · split
        · exact (ih u).symm ▸ rfl
        · exact ih u
      · exact ih u
  exact (hfill 8 _).trans hwatch

/-! ### A turn's end (R252) -/

/-- The turn that ends counts its reason, and passes. -/
theorem State.endTurn_counts (s : State) (e k : Nat) : (s.endTurn e k).gangs = s.gangs ∧ (s.endTurn e k).mem = s.mem ∧
    (s.endTurn e k).issuing = s.issuing ∧ mapGet (s.endTurn e k).counters (16 * e + k) = mapGet s.counters (16 * e + k) + 1 := by
  unfold State.endTurn
  dsimp only
  split
  · exact ⟨rfl, rfl, rfl, mapGet_mapSet_same⟩
  · exact ⟨rfl, rfl, rfl, mapGet_mapSet_same⟩

/-! ### Exchanges (R249, R250, R368) -/

theorem mem_of_leastGang {key : Gang → Nat × Nat × Nat} {g : Gang} : ∀ {l : List Gang}, leastGang key l = some g → g ∈ l
  | [], h => nomatch h
  | x :: l, h => by
    unfold leastGang at h
    split at h
    · cases h; exact List.mem_cons_self ..
    next y hy =>
      dsimp only at h
      split at h <;> cases h
      · exact List.mem_cons_of_mem _ (mem_of_leastGang hy)
      · exact List.mem_cons_self ..

/-- The gangs of an exchange, and how long they have waited and idled (R249, R250, R368). -/
theorem State.swap_spec {e : Nat} {c : Swap} {out enter : Gang} (h : s.swap e = some (c, out, enter)) :
    enter ∈ s.gangs ∧ out ∈ s.gangs ∧ enter.life = .pending ∧ out.life = .active ∧ ∃ r, enter.readySince = some r ∧
      (c = .promotion → 256 ≤ s.pkg.clock - r ∧ out.idleSince + 32 ≤ s.pkg.clock) ∧ (c = .limit → 4096 ≤ s.pkg.clock - r) := by
  have hact : ∀ (key : Gang → Nat × Nat × Nat) (p : Gang → Bool) g, leastGang key ((activeOn (s.onEasel e)).filter p) = some g →
      g ∈ s.gangs ∧ g.life = .active := fun key p g hg => by
    have h1 := (List.mem_filter.1 (mem_of_leastGang hg)).1
    obtain ⟨h2, h3⟩ := List.mem_filter.1 h1
    exact ⟨(List.mem_filter.1 h2).1, beq_iff_eq.1 h3⟩
  have hall : ∀ (key : Gang → Nat × Nat × Nat) g, leastGang key (activeOn (s.onEasel e)) = some g → g ∈ s.gangs ∧ g.life = .active :=
    fun key g hg => hact key (fun _ => true) g (by rw [List.filter_eq_self.2 fun _ _ => rfl]; exact hg)
  unfold State.swap at h
  obtain ⟨k, hk, h⟩ := Option.bind_eq_some_iff.1 h
  obtain ⟨hon, hwait⟩ := List.mem_filter.1 (mem_of_leastGang hk)
  obtain ⟨hpend, hready⟩ := Bool.and_eq_true_iff.1 hwait
  obtain ⟨r, hr⟩ := Option.isSome_iff_exists.1 hready
  have hin : k ∈ s.gangs := (List.mem_filter.1 hon).1
  dsimp only at h
  rw [hr, Option.getD_some] at h
  split at h
  next g hg =>
    cases h
    exact ⟨hin, (hact _ _ _ hg).1, beq_iff_eq.1 hpend, (hact _ _ _ hg).2, r, hr, nofun, nofun⟩
  · split at h
    next g hg =>
      cases h
      split at hg
      next hw =>
        obtain ⟨hleast, hidle⟩ := Option.filter_eq_some_iff.1 hg
        exact ⟨hin, (hall _ _ hleast).1, beq_iff_eq.1 hpend, (hall _ _ hleast).2, r, hr, fun _ => ⟨hw, of_decide_eq_true hidle⟩, nofun⟩
      · cases hg
    · split at h
      next hw =>
        obtain ⟨g, hg, hx⟩ := Option.map_eq_some_iff.1 h
        cases hx
        exact ⟨hin, (hall _ _ hg).1, beq_iff_eq.1 hpend, (hall _ _ hg).2, r, hr, nofun, fun _ => hw⟩
      · cases h

/-- A gang that leaves the active set (R249). -/
def Gang.leavesSet (g : Gang) : Gang := { g with life := .pending, cede := false, stallSince := none }

/-- A gang that enters it. -/
def Gang.entersSet (now : Nat) (g : Gang) : Gang := { g with life := .active, activeSince := now }

theorem State.gang?_of_mem {g : Gang} (h : g ∈ s.gangs) : ∃ k, s.gang? g.id = some k := by
  refine Option.isSome_iff_exists.1 (List.find?_isSome.2 ⟨g, h, beq_self_eq_true _⟩)

/-- What an exchange leaves. -/
theorem State.exchange_spec {e : Nat} {c : Swap} {out enter : Gang} (h : s.swap e = some (c, out, enter)) :
    Swapped enter out s.pkg.clock (s.exchange e (c, out, enter)) ∧ (s.exchange e (c, out, enter)).issuing = s.issuing ∧
    mapGet (s.exchange e (c, out, enter)).counters (16 * e + 10) = mapGet s.counters (16 * e + 10) + 1 := by
  obtain ⟨hin, hout, -, -, -⟩ := State.swap_spec h
  obtain ⟨k, hk⟩ := State.gang?_of_mem hin
  obtain ⟨l, hl⟩ := State.gang?_of_mem hout
  obtain ⟨u, hu⟩ : ∃ u : State, u = (s.modGang out.id Gang.leavesSet).modGang enter.id (Gang.entersSet s.pkg.clock) := ⟨_, rfl⟩
  have hx : s.exchange e (c, out, enter) = u.endTurn e 10 := by rw [hu]; rfl
  obtain ⟨hgangs, -, hissuing, hcount⟩ := u.endTurn_counts e 10
  have hlook : ∀ n, u.gang? n = (s.gang? n).map (fun g => (fun g => if g.id = enter.id then Gang.entersSet s.pkg.clock g else g)
      (if g.id = out.id then g.leavesSet else g)) := fun n => by
    rw [hu, State.gang?_modGang (f := Gang.entersSet s.pkg.clock) fun _ => rfl, State.gang?_modGang (f := Gang.leavesSet) fun _ => rfl,
      Option.map_map]; rfl
  rw [hx]
  refine ⟨⟨?_, fun hne => ?_⟩, by rw [hissuing, hu]; rfl, by rw [hcount, hu]; rfl⟩
  · have hid : (if k.id = out.id then k.leavesSet else k).id = enter.id := by
      split
      · exact (show k.leavesSet.id = k.id from rfl).trans (State.gang?_id hk)
      · exact State.gang?_id hk
    refine ⟨_, by unfold State.gang?; rw [hgangs]; exact (hlook enter.id).trans (by rw [hk, Option.map_some]), ?_, ?_⟩
    · dsimp only
      rw [if_pos hid]; rfl
    · dsimp only
      rw [if_pos hid]; rfl
  · have hid : l.id = out.id := State.gang?_id hl
    have hstays : ¬l.leavesSet.id = enter.id := fun h => hne (hid.symm.trans h)
    refine ⟨l.leavesSet, ?_, rfl, rfl⟩
    unfold State.gang?
    rw [hgangs]
    refine (hlook out.id).trans ?_
    rw [hl, Option.map_some]
    dsimp only
    rw [if_pos hid, if_neg hstays]

/-! ### The agent that is next (R66, R78, R248) -/

section
variable {aid : AgentId} {g : Gang} {x : Slice} {b : Block} {h : LaunchHdr}

theorem State.front_issues (hg : s.gang? aid.gang = some g) (hx : g.lead aid.slice = some x) (hb : s.block? g.block = some b)
    (hh : s.hdrOf b = some h) (hn : s.nextTrap g aid.slice b.part h x = none) (hin : x.point.inside = true) :
    s.front aid = { s with issuing := some aid } := by
  unfold State.front
  simp only [hg, hx, hb, hh, hn, hin, Option.bind_some, Option.map_some, if_true]

/-- A header that breaks R78 traps. -/
theorem State.front_traps (hg : s.gang? aid.gang = some g) (hx : g.lead aid.slice = some x) (hb : s.block? g.block = some b)
    (hh : s.hdrOf b = some h) (hn : s.nextTrap g aid.slice b.part h x = none) (hout : x.point.inside = false)
    (hbad : s.headerCause b.part h x.point.pc ≠ 0) (halone : s.otherCopy g = none) :
    s.front aid = s.takeTrap aid ⟨0x01, x.point.pc, g.activeOf aid.slice, 0, s.headerCause b.part h x.point.pc⟩ (g.replayOf aid.slice) := by
  unfold State.front
  simp only [hg, hx, hb, hh, hn, hout, Option.bind_some, Option.map_some]
  rw [if_neg (by decide), if_pos hbad]
  unfold State.trapAtNext
  rw [hg]
  dsimp only
  rw [halone]

/-- A slice where its agent stands enters the clause (R66). -/
def Slice.entersClause (p : Point) (hd : Header) (y : Slice) : Slice :=
  if y.point = p then { y with point := Point.enter p.pc hd } else y

theorem State.front_enters {hd : Header} (hg : s.gang? aid.gang = some g) (hx : g.lead aid.slice = some x)
    (hb : s.block? g.block = some b) (hh : s.hdrOf b = some h) (hn : s.nextTrap g aid.slice b.part h x = none)
    (hout : x.point.inside = false) (hgood : s.headerCause b.part h x.point.pc = 0) (hhd : s.headerAt b.part x.point.pc = some hd)
    (hpoison : s.errs.poison = []) :
    s.front aid = { s.modGang aid.gang (fun g => g.modAgent aid.slice (Slice.entersClause x.point hd)) with issuing := some aid } := by
  have hk : s.badK g hd.wait.toNat = none := if_pos hpoison
  unfold State.front
  simp only [hg, hx, hb, hh, hn, hout, Option.bind_some, Option.map_some]
  rw [if_neg (by decide), if_neg (by rw [hgood]; decide), hhd]
  dsimp only
  rw [hk]
  rfl

end

/-! ### Starved barriers (R244) -/

theorem barStarved_traps {n o m : Nat} {sl : Option Nat} {g : Gang} {b : Block} {x : Slice} (hg : s.gang? n = some g)
    (hb : s.block? g.block = some b) (hx : g.lead sl = some x) (hbar : s.barrier? b.id x = some (o, m)) (hst : s.starved b = true)
    (hrun : g.runners.contains sl = true) (halone : s.shadowOf n = none) :
    exec (.barStarved n sl) s = .next (s.takeTrap ⟨n, sl⟩ ⟨0x0F, x.point.pc, g.activeOf sl, 0xFFF0000000000000 + o, m⟩ (g.replayOf sl)) := by
  show event (s.barStarves n sl) = _
  unfold State.barStarves
  rw [hg, Option.bind_some, hb, Option.bind_some, hx, Option.bind_some, hbar, Option.bind_some, hst, hrun, halone]
  rfl

/-! ### Twins (R349) -/

/-- A gang of which one signature is done with. -/
def Gang.dropTwin (g : Gang) (key : Nat) : Gang := { g with twin := g.twin.filter (fun t => t.slice != key) }

/-- A gang of which one signature has been found the same as its shadow's. -/
def Gang.passTwin (g : Gang) (key : Nat) : Gang :=
  { g with twin := mapWhere (fun t => t.slice == key) (fun t => { t with ok := true }) g.twin }

/-- An escalated trap of a gang in no handler parks its agent and touches no other gang (R325). -/
theorem State.takeTrap_parks {aid : AgentId} {t : Trap} {m : Mask} {g : Gang} (hg : s.gang? aid.gang = some g) (hts : g.trapState = none)
    (hesc : alwaysEscalates t.code = true) (hkind : ∀ v px i, g.kind ≠ .shading v px i) :
    s.takeTrap aid t m = s.modGang g.id (fun g => g.escalate aid.slice t m s.pkg.clock) := by
  rw [State.takeTrap_of hg, hts, ← State.escalates_of hkind]
  exact if_pos (.inr hesc)

/-- The gang with its agent parked: one copy of a twin after a mismatch. -/
theorem Gang.escalate_spec (g : Gang) (key : Nat) (sl : Option Nat) (t : Trap) (m : Mask) (now : Nat) :
    g.sameRegs ((g.dropTwin key).escalate sl t m now) ∧
    ((g.dropTwin key).escalate sl t m now).twin.find? (fun t => t.slice == key) = none ∧
    ((g.dropTwin key).escalate sl t m now).regs = (g.dropTwin key).regs.take t ∧
    g.become ((g.dropTwin key).escalate sl t m now) sl (fun _ x y => (∃ w, y.hold = .escalated t.code w) ∧ y.point = x.point ∧
      y.active = x.active ∧ y.replay = some m) := by
  have hsame := (g.dropTwin key).same_escalate (T := fun _ => True) sl (t := t) trivial m now
  refine ⟨fun r x l => hsame.getR r x l, ?_, rfl, fun i hi x hx => ⟨_, (Gang.slice?_modAgent ..).trans ((if_pos hi).trans
    (congrArg (Option.map _) hx)), ⟨_, rfl⟩, rfl, rfl, rfl⟩⟩
  obtain ⟨l, hl⟩ := (g.dropTwin key).modAgent_shape sl (fun x => { x with
    hold := .escalated t.code (wordless t.code t.pc t.aux (((g.dropTwin key).members sl).filterMap (g.dropTwin key).slice?)), replay := some m })
  show List.find? _ ((g.dropTwin key).modAgent sl _).twin = none
  rw [hl, List.find?_eq_none]
  intro t ht
  simpa using (List.mem_filter.1 ht).2

theorem twin_compares {n key : Nat} {g h : Gang} {a b : TwinSig} (hg : s.gang? n = some g) (hs : s.shadowOf n = some h)
    (ha : g.twin.find? (fun t => t.slice == key) = some a) (hb : h.twin.find? (fun t => t.slice == key) = some b) (hok : a.ok = false) :
    Happens (.twinStoreCompare n key) s (fun t => t.mem = s.mem ∧
      (twinSame a b = true → ∃ k, t.gang? n = some k ∧ k.regs = g.regs ∧
        k.twin.find? (fun t => t.slice == key) = some { a with ok := true }) ∧
      (twinSame a b = false → s.gang? h.id = some h → h.id ≠ n → g.trapState = none → h.trapState = none →
        (∀ v px i, g.kind ≠ .shading v px i) → ∀ c ∈ [g, h], ∃ k, t.gang? c.id = some k ∧ c.sameRegs k ∧
          k.twin.find? (fun t => t.slice == key) = none ∧ k.regs.trapCode = 0x11 ∧ k.regs.trapPc = BitVec.ofNat 64 a.pc ∧
          k.regs.trapLanes = a.mask.setWidth 64 ∧ k.regs.trapAux = BitVec.ofNat 64
            (((lanesOf (a.mask &&& b.mask)).find? (fun l => a.data.filter (fun x => x.1 == l) != b.data.filter (fun x => x.1 == l))).getD 0xFF) ∧
          let sl := if key = 8 then none else some key
          c.become k sl (fun _ x y => (∃ w, y.hold = .escalated 0x11 w) ∧ y.point = x.point ∧ y.active = x.active ∧
            y.replay = some (c.replayOf sl)))) := by
  have hkind : h.kind = .shadow n := by
    have := List.find?_some (p := fun h : Gang => h.kind == .shadow n && h.life != .ended) hs
    exact beq_iff_eq.1 (Bool.and_eq_true_iff.1 this).1
  cases hsame : twinSame a b with
  | true =>
    refine ⟨s.modGang n (·.passTwin key), ?_, rfl, fun _ => ⟨g.passTwin key, ?_, rfl, ?_⟩, nofun⟩
    · show event (s.twinCompare n key) = _
      unfold State.twinCompare
      rw [hg, Option.bind_some, hs, Option.bind_some, ha, hb]
      dsimp only
      rw [hok, hsame]
      rfl
    · rw [State.gang?_modGang_same (f := (·.passTwin key)) fun _ => rfl, hg, Option.map_some]
    · show List.find? _ (mapWhere _ _ g.twin) = _
      have hslice : (a.slice == key) = true := List.find?_some (p := fun t : TwinSig => t.slice == key) ha
      rw [find?_mapWhere _ _ (fun t : TwinSig => { t with ok := true }) _ fun _ _ => rfl, ha, Option.map_some, if_pos hslice]
  | false =>
    obtain ⟨sl, hsl⟩ : ∃ sl, sl = if key = 8 then none else some key := ⟨_, rfl⟩
    obtain ⟨tr, htr⟩ : ∃ tr : Trap, tr = ⟨0x11, a.pc, a.mask, 0, (twinDiff a b).headD 0xFF⟩ := ⟨_, rfl⟩
    obtain ⟨u, hu⟩ : ∃ u : State, u = (s.modGang n (·.dropTwin key)).modGang h.id (·.dropTwin key) := ⟨_, rfl⟩
    have hframe : ∀ m k, ((u.takeTrap ⟨n, sl⟩ tr m).takeTrap ⟨h.id, sl⟩ tr k).mem = u.mem := fun m k =>
      (Frame.takeTrap (W := nothing) (T := fun _ => True) _ trivial _).mem.trans (Frame.takeTrap (W := nothing) (T := fun _ => True) _ trivial _).mem
    refine ⟨(u.takeTrap ⟨n, sl⟩ tr (u.replayOf ⟨n, sl⟩)).takeTrap ⟨h.id, sl⟩ tr (u.replayOf ⟨h.id, sl⟩), ?_, ?_, nofun,
      fun _ hh hne hgt hht hgk => ?_⟩
    · show event (s.twinCompare n key) = _
      unfold State.twinCompare
      rw [hg, Option.bind_some, hs, Option.bind_some, ha, hb]
      dsimp only
      rw [hok, hsame, hsl, htr, hu]
      rfl
    · rw [hframe, hu]; rfl
    · have hgid := State.gang?_id hg
      have hug : u.gang? n = some (g.dropTwin key) := by
        rw [hu, State.gang?_modGang (f := (·.dropTwin key)) fun _ => rfl, State.gang?_modGang_same (f := (·.dropTwin key)) fun _ => rfl,
          hg, Option.map_some, Option.map_some,
          if_neg fun e => hne (e.symm.trans hgid)]
      have huh : u.gang? h.id = some (h.dropTwin key) := by
        rw [hu, State.gang?_modGang_same (f := (·.dropTwin key)) fun _ => rfl, State.gang?_modGang (f := (·.dropTwin key)) fun _ => rfl,
          hh, Option.map_some, Option.map_some, if_neg hne]
      have hcode : alwaysEscalates tr.code = true := by rw [htr]; rfl
      have haux : (twinDiff a b).headD 0xFF = ((lanesOf (a.mask &&& b.mask)).find? (fun l =>
          a.data.filter (fun x => x.1 == l) != b.data.filter (fun x => x.1 == l))).getD 0xFF := by
        unfold twinDiff
        rw [← List.head?_filter, List.headD_eq_head?_getD]
      have h1 := State.takeTrap_parks (s := u) (aid := ⟨n, sl⟩) (t := tr) (m := u.replayOf ⟨n, sl⟩) hug hgt hcode hgk
      have hstay : (u.takeTrap ⟨n, sl⟩ tr (u.replayOf ⟨n, sl⟩)).gang? h.id = some (h.dropTwin key) := by
        rw [h1, State.gang?_modGang fun g => (g.same_escalate (T := fun _ => True) _ trivial _ _).id, huh, Option.map_some,
          if_neg fun e => hne (e.trans hgid)]
      have h2 := State.takeTrap_parks (s := u.takeTrap ⟨n, sl⟩ tr (u.replayOf ⟨n, sl⟩)) (aid := ⟨h.id, sl⟩) (t := tr)
        (m := u.replayOf ⟨h.id, sl⟩) hstay hht hcode (fun v px i e => by
          have := hkind.symm.trans e
          cases this)
      have hrg : u.replayOf ⟨n, sl⟩ = g.replayOf sl := by unfold State.replayOf; rw [hug]; rfl
      have hrh : u.replayOf ⟨h.id, sl⟩ = h.replayOf sl := by unfold State.replayOf; rw [huh]; rfl
      have hparks : ∀ (c : Gang) now, ∃ k, k = (c.dropTwin key).escalate sl tr (c.replayOf sl) now ∧ c.sameRegs k ∧
          k.twin.find? (fun t => t.slice == key) = none ∧ k.regs.trapCode = 0x11 ∧ k.regs.trapPc = BitVec.ofNat 64 a.pc ∧
          k.regs.trapLanes = a.mask.setWidth 64 ∧ k.regs.trapAux = BitVec.ofNat 64 ((twinDiff a b).headD 0xFF) ∧
          c.become k sl (fun _ x y => (∃ w, y.hold = .escalated 0x11 w) ∧ y.point = x.point ∧ y.active = x.active ∧
            y.replay = some (c.replayOf sl)) := fun c now => by
        obtain ⟨k1, k2, k3, k4⟩ := c.escalate_spec key sl tr (c.replayOf sl) now
        refine ⟨_, rfl, k1, k2, ?_, ?_, ?_, ?_, ?_⟩
        · rw [k3, htr]; rfl
        · rw [k3, htr]; rfl
        · rw [k3, htr]; rfl
        · rw [k3, htr]; rfl
        · rw [show tr.code = 0x11 by rw [htr]] at k4
          exact k4
      rw [← haux, ← hsl]
      intro c hc
      rcases List.mem_cons.1 hc with rfl | hc
      · obtain ⟨k, hk, hrest⟩ := hparks c u.pkg.clock
        refine ⟨k, ?_, hrest⟩
        rw [h2, hgid, State.gang?_modGang fun g => (g.same_escalate (T := fun _ => True) _ trivial _ _).id, h1,
          State.gang?_modGang fun g => (g.same_escalate (T := fun _ => True) _ trivial _ _).id, hug, Option.map_some, Option.map_some,
          if_pos rfl, hrg, hk]
        refine congrArg some (if_neg fun e => ?_)
        exact hne (e.symm.trans (((Gang.same_escalate (T := fun _ => True) _ _ trivial _ _).id).trans hgid))
      · obtain rfl := List.mem_singleton.1 hc
        obtain ⟨k, hk, hrest⟩ := hparks c (u.takeTrap ⟨n, sl⟩ tr (u.replayOf ⟨n, sl⟩)).pkg.clock
        refine ⟨k, ?_, hrest⟩
        rw [h2, State.gang?_modGang fun g => (g.same_escalate (T := fun _ => True) _ trivial _ _).id, hstay, Option.map_some,
          if_pos rfl, hrh, hk]

end

section
variable {s v : State} {e : Nat}

/-! ### The turn (R248 to R252) -/

theorem State.easelTurn_swaps {x : Swap × Gang × Gang} (h : (s.opened e).swap e = some x) :
    s.easelTurn e = (s.opened e).exchange e x := by
  unfold State.easelTurn
  dsimp only
  rw [h]

theorem State.easelTurn_issues {aid : AgentId} (h : (s.opened e).swap e = none)
    (hv : v = if (nextIn ((s.opened e).onEasel e)).isNone then (s.opened e).uncede e else s.opened e) (hc : v.chosen e = some aid) :
    s.easelTurn e = v.front aid := by
  unfold State.easelTurn
  dsimp only
  rw [h, ← hv]
  dsimp only
  rw [hc]

theorem State.easelTurn_stalls (h : (s.opened e).swap e = none)
    (hv : v = if (nextIn ((s.opened e).onEasel e)).isNone then (s.opened e).uncede e else s.opened e) (hc : v.chosen e = none) :
    s.easelTurn e = v.endTurn e (v.reason e) := by
  unfold State.easelTurn
  dsimp only
  rw [h, ← hv]
  dsimp only
  rw [hc]

theorem easelCycle_next (h : s.onTurn e = true) : exec (.easelCycle e) s = .next (s.easelTurn e) := by
  show event (if s.onTurn e then some (s.easelTurn e) else none) = _
  rw [if_pos h]; rfl

theorem State.issuing_ceded (s : State) (e : Nat) (p : Bool) : (if p then s.uncede e else s).issuing = s.issuing := by
  split <;> rfl

theorem State.issuing_of_onTurn (h : s.onTurn e = true) : (s.opened e).issuing = none := by
  obtain ⟨h1, -⟩ := Bool.and_eq_true_iff.1 h
  rw [State.issuing_opened]
  exact Option.isNone_iff_eq_none.1 (Bool.and_eq_true_iff.1 h1).2

/-- The chosen agent enters its next clause (R66). -/
theorem easelCycle_enters {aid : AgentId} {g : Gang} {x : Slice} {b : Block} {h : LaunchHdr} {hd : Header}
    (hnext : exec (.easelCycle e) s = .next (v.front aid)) (hg : v.gang? aid.gang = some g) (hx : g.lead aid.slice = some x)
    (hb : v.block? g.block = some b) (hh : v.hdrOf b = some h) (hn : v.nextTrap g aid.slice b.part h x = none)
    (hout : x.point.inside = false) (hgood : v.headerCause b.part h x.point.pc = 0) (hhd : v.headerAt b.part x.point.pc = some hd)
    (hpoison : v.errs.poison = []) :
    Happens (.easelCycle e) s (fun t => t.issuing = some aid ∧ t.mem = v.mem ∧ ∃ k, t.gang? aid.gang = some k ∧
      g.sameRegs k ∧ g.become k aid.slice (fun _ y z => z = y.entersClause x.point hd)) := by
  have hsame : ∀ g : Gang, Gang.Same (fun _ => True) g (g.modAgent aid.slice (·.entersClause x.point hd)) := fun g => g.same_modAgent aid.slice _
  rw [State.front_enters hg hx hb hh hn hout hgood hhd hpoison] at hnext
  refine ⟨_, hnext, rfl, rfl, g.modAgent aid.slice (·.entersClause x.point hd), ?_, fun r y l => (hsame g).getR r y l,
    fun i hi y hy => ⟨_, (Gang.slice?_modAgent ..).trans ((if_pos hi).trans (congrArg (Option.map _) hy)), rfl⟩⟩
  show (v.modGang aid.gang (fun g => g.modAgent aid.slice (·.entersClause x.point hd))).gang? aid.gang = _
  rw [State.gang?_modGang_same fun g => (hsame g).id, hg, Option.map_some]

end

/-- Settles O49: the cycle of the easel by what it finds when it opens, and the other events by their rules. -/
theorem easelEvents : Obligations.EaselEvents := by
  intro s e
  refine ⟨fun hturn => ⟨fun hswap => ⟨fun aid g x b h hc hg hx hb hh hn => ?_, fun hc => ?_⟩, fun c out enter hswap => ?_⟩,
    fun c out enter h => ?_, fun n sl g b x o m hg hb hx hbar hst hrun halone =>
    barStarved_traps hg hb hx hbar hst hrun halone, fun n key g h a b hg hs ha hb hok => twin_compares hg hs ha hb hok⟩
  · have hnext := (easelCycle_next hturn).trans (congrArg _ (State.easelTurn_issues hswap rfl hc))
    exact ⟨fun hin => hnext.trans (congrArg _ (State.front_issues hg hx hb hh hn hin)),
      fun hout hbad halone => hnext.trans (congrArg _ (State.front_traps hg hx hb hh hn hout hbad halone)),
      fun hd hout hgood hhd hpoison => easelCycle_enters hnext hg hx hb hh hn hout hgood hhd hpoison⟩
  · have hnext := (easelCycle_next hturn).trans (congrArg _ (State.easelTurn_stalls hswap rfl hc))
    obtain ⟨h1, h2, h3, h4⟩ := State.endTurn_counts _ e (State.reason _ e)
    exact ⟨_, hnext, h1, h2, h3.trans ((State.issuing_ceded ..).trans (State.issuing_of_onTurn hturn)), h4⟩
  · obtain ⟨h1, h2, h3⟩ := State.exchange_spec hswap
    have hby : ∀ d, c = d → event (s.swapTurn e d) = .next ((s.opened e).exchange e (c, out, enter)) := fun d hd => by
      unfold State.swapTurn
      rw [hturn, hswap]
      exact congrArg event (if_pos hd)
    exact ⟨⟨_, (easelCycle_next hturn).trans (congrArg _ (State.easelTurn_swaps hswap)), h1, h2.trans (State.issuing_of_onTurn hturn), h3⟩,
      fun hd => ⟨_, hby _ hd, h1⟩, fun hd => ⟨_, hby _ hd, h1⟩⟩
  · obtain ⟨-, -, h1, h2, h3⟩ := State.swap_spec h
    exact ⟨h1, h2, h3⟩

end Sys2Proof.Machine
end

section
/-!
What the settling of graphs, the return of records and the ends of gangs leave of the submission queues and of the blocks
(R46, R254, R258, R262, R299, R301).
-/

namespace Sys2Proof.Machine

/-- The queues stand as they stood; a block may have ended, and new blocks bear new numbers. -/
structure Pooled (s t : State) : Prop where
  queues : t.funcs.map (·.queues) = s.funcs.map (·.queues)
  fresh : s.fresh ≤ t.fresh
  blocks : ∀ d ∈ t.blocks, s.fresh ≤ d.id ∨ ∃ b ∈ s.blocks, b.id = d.id ∧ b.resident = d.resident ∧ (b.ended = true → d.ended = true)

section
variable {s t u : State}

theorem Pooled.of_same (hb : t.blocks = s.blocks) (hq : t.funcs.map (·.queues) = s.funcs.map (·.queues)) (hf : s.fresh ≤ t.fresh) :
    Pooled s t := ⟨hq, hf, fun d hd => .inr ⟨d, hb ▸ hd, rfl, rfl, id⟩⟩

theorem Pooled.refl (s : State) : Pooled s s := .of_same rfl rfl (Nat.le_refl _)

theorem Pooled.trans (a : Pooled s t) (b : Pooled t u) : Pooled s u where
  queues := b.queues.trans a.queues
  fresh := Nat.le_trans a.fresh b.fresh
  blocks := fun d hd => by
    rcases b.blocks d hd with h | ⟨x, hx, hid, hres, hend⟩
    · exact .inl (Nat.le_trans a.fresh h)
    · rcases a.blocks x hx with h | ⟨y, hy, hid', hres', hend'⟩
      · exact .inl (hid ▸ h)
      · exact .inr ⟨y, hy, hid'.trans hid, hres'.trans hres, fun h => hend (hend' h)⟩

theorem Pooled.after (h : Pooled t u) (hb : t.blocks = s.blocks) (hq : t.funcs.map (·.queues) = s.funcs.map (·.queues))
    (hf : s.fresh ≤ t.fresh) : Pooled s u := (Pooled.of_same hb hq hf).trans h

theorem Pooled.foldl {α : Type} (f : State → α → State) (hf : ∀ (s : State) a, Pooled s (f s a)) (l : List α) (s : State) :
    Pooled s (l.foldl f s) := by
  induction l generalizing s with
  | nil => exact .refl s
  | cons a l ih => exact (hf s a).trans (ih _)

/-- Where fewer blocks are left. -/
theorem Pooled.fewer (hb : ∀ d ∈ t.blocks, d ∈ s.blocks) (hq : t.funcs = s.funcs) (hf : t.fresh = s.fresh) : Pooled s t :=
  ⟨by rw [hq], Nat.le_of_eq hf.symm, fun d hd => .inr ⟨d, hb d hd, rfl, rfl, id⟩⟩

/-! ### Gangs that end (R46, R301) -/

theorem Pooled.startNext {l lv w : Nat} (h : s.startNext l lv w = some t) : Pooled s t := by
  unfold State.startNext at h
  split at h
  · cases h
  · split at h <;> cases h
    refine ⟨rfl, Nat.le_add_right .., fun d hd => ?_⟩
    rcases List.mem_append.1 hd with hd | hd
    · exact .inr ⟨d, hd, rfl, rfl, id⟩
    · obtain rfl := List.mem_singleton.1 hd
      exact .inl (Nat.le_add_right ..)

theorem Pooled.shadeEnded (s : State) (b v : Nat) : Pooled s (s.shadeEnded b v) := by
  have hend : Pooled s ((s.modView v (fun w => { w with running := w.running - 1 })).modBlock b (fun b => { b with ended := true })) := by
    refine ⟨rfl, Nat.le_refl _, fun d hd => .inr ?_⟩
    obtain ⟨x, hx, rfl⟩ := List.mem_map.1 hd
    refine ⟨x, hx, ?_⟩
    split
    · exact ⟨rfl, rfl, fun _ => rfl⟩
    · exact ⟨rfl, rfl, id⟩
  unfold State.shadeEnded
  dsimp only
  split
  · exact hend
  next v' _ =>
    have hnext : ∀ u : State, Pooled s u → Pooled s ((u.startNext v'.launch v'.level v'.wing).getD u) := fun u hu => by
      cases h : u.startNext v'.launch v'.level v'.wing with
      | none => exact hu
      | some t => exact hu.trans (.startNext h)
    split
    · exact (hnext _ hend).trans (.of_same rfl rfl (Nat.le_refl _))
    · exact hnext _ hend

theorem Pooled.endGang (s : State) (n : Nat) : Pooled s (s.endGang n) := by
  unfold State.endGang
  split
  · exact .refl s
  · split
    · exact .refl s
    · dsimp only
      split
      · exact .after (.shadeEnded ..) rfl rfl (Nat.le_refl _)
      · exact .of_same rfl rfl (Nat.le_refl _)

theorem Pooled.endToken (s : State) (n tag : Nat) : Pooled s (s.endToken n tag) := by
  unfold State.endToken
  split
  · exact .refl s
  · exact .after (.foldl _ (fun s i => .endGang s i) _ _) rfl rfl (Nat.le_refl _)

theorem Pooled.deliver (s : State) (n tag w : Nat) (f : RFile) (r lane : Nat) (v : Reg) : Pooled s (s.deliver n tag w f r lane v) := by
  unfold State.deliver
  split
  · exact .refl s
  · dsimp only
    split <;> exact .of_same rfl rfl (Nat.le_refl _)

/-! ### Records (R262, R263, R299) -/

theorem Pooled.grantOne {n : Nat × Nat} (h : s.grantOne n = some t) : Pooled s t := by
  unfold State.grantOne at h
  obtain ⟨nd, -, h⟩ := Option.bind_eq_some_iff.1 h
  split at h
  · cases h
  next q rest _ =>
    dsimp only at h
    split at h <;> cases h
    refine .trans ?_ (.endToken ..)
    exact .after (.foldl _ (fun s (p : Nat × Nat) => .deliver s q.gang q.op 64 .d q.dest p.1 (BitVec.ofNat 64 p.2)) _ _) rfl rfl (Nat.le_refl _)

theorem Pooled.serveGrants (n : Nat × Nat) (k : Nat) (s : State) : Pooled s (State.serveGrants n k s) := by
  induction k generalizing s with
  | zero => exact .refl s
  | succ k ih =>
    unfold State.serveGrants
    split
    next t h => exact (Pooled.grantOne h).trans (ih t)
    · exact .refl s

theorem Pooled.returnRecs (s : State) (gr : Nat) (p : Nat → RecState → Bool) : Pooled s (s.returnRecs gr p) := by
  unfold State.returnRecs
  split
  · exact .refl s
  · refine .foldl _ (fun s i => ?_) _ _
    split
    · exact .refl s
    · dsimp only
      split
      · exact .refl s
      · exact .after (.serveGrants ..) rfl rfl (Nat.le_refl _)

/-! ### Nodes and graphs (R258, R265) -/

theorem Pooled.launchHeat (s : State) (gr i : Nat) : Pooled s (s.launchHeat gr i) := by
  unfold State.launchHeat
  split
  · split
    · exact .refl s
    · split
      · exact .refl s
      · exact .of_same rfl rfl (Nat.le_succ _)
  · exact .refl s

theorem Pooled.settleNode (s : State) (g : Graph) (i : Nat) : Pooled s (s.settleNode g i) := by
  have hrelease : ∀ nd, Pooled s (s.releaseNode g i nd) := fun nd => by
    unfold State.releaseNode
    split
    · exact .of_same rfl rfl (Nat.le_refl _)
    · exact .of_same rfl rfl (Nat.le_succ _)
  unfold State.settleNode
  dsimp only
  split
  next nd _ =>
    split
    · exact .refl s
    · split
      · split
        · exact .refl s
        · split
          · exact .of_same rfl rfl (Nat.le_refl _)
          · split
            · exact hrelease nd
            · exact .refl s
      · split
        · have hback : Pooled s ((s.modNode g.id i (fun nd => { nd with open_ := [], deadline := none })).returnRecs g.id
              (fun a r => nd.open_.contains a && r == .queued i nd.seq)) := .after (.returnRecs ..) rfl rfl (Nat.le_refl _)
          split
          · exact hback.trans (.of_same rfl rfl (Nat.le_refl _))
          · exact hback
        · split
          · exact .refl s
          · split
            · exact .launchHeat ..
            · split
              · exact .of_same rfl rfl (Nat.le_refl _)
              · exact .refl s
  · exact .refl s

theorem Pooled.settleNodes (gr k : Nat) (s : State) : Pooled s (State.settleNodes gr k s) := by
  induction k generalizing s with
  | zero => exact .refl s
  | succ k ih =>
    unfold State.settleNodes
    split
    · exact .refl s
    · exact (Pooled.foldl _ (fun s i => .settleNode s ..) _ _).trans (ih _)

theorem State.physWrite_keeps (s : State) (k a n v : Nat) : ∃ m e, s.physWrite k a n v = { s with mem := m, errs := e } := ⟨_, _, rfl⟩

/-- What the dispatch core writes is memory, and what it overwrites is poisoned no more. -/
theorem State.coreWrite_keeps (s : State) (part a : Nat) (ws : List Nat) : ∃ m e, s.coreWrite part a ws = { s with mem := m, errs := e } := by
  have hfold : ∀ (k p : Nat) (l : List (Nat × Nat)) (u : State), (∃ m e, u = { s with mem := m, errs := e }) →
      ∃ m e, l.foldl (fun s w => s.physWrite k (p + 8 * w.1) 8 w.2) u = { s with mem := m, errs := e } := by
    intro k p l
    induction l with
    | nil => exact fun u hu => hu
    | cons w l ih =>
      rintro u ⟨m, e, hu⟩
      obtain ⟨m', e', hw⟩ := u.physWrite_keeps k (p + 8 * w.1) 8 w.2
      rw [List.foldl_cons, hw, hu]
      exact ih _ ⟨m', e', rfl⟩
  unfold State.coreWrite
  split
  · exact hfold _ _ _ s ⟨s.mem, s.errs, rfl⟩
  · exact ⟨s.mem, s.errs, rfl⟩

theorem State.queues_raiseIrq (s : State) (part v : Nat) : (s.raiseIrq part v).funcs.map (·.queues) = s.funcs.map (·.queues) := by
  have hmod : ∀ (l : List Func) (f : Func → Func), (∀ x, (f x).queues = x.queues) → (l.modify part f).map (·.queues) = l.map (·.queues) := by
    intro l f hf
    refine List.ext_getElem? fun i => ?_
    rw [List.getElem?_map, List.getElem?_map, List.getElem?_modify]
    cases l[i]? with
    | none => rfl
    | some x =>
      by_cases h : part = i
      · simp only [h, if_true, Option.map_some, Functor.map, hf]
      · simp only [h, if_false, Option.map_some, Functor.map]
  unfold State.raiseIrq
  dsimp only
  split
  · exact hmod s.funcs _ fun _ => rfl
  · exact hmod s.funcs _ fun _ => rfl

theorem Pooled.raiseIrq (s : State) (part v : Nat) : Pooled s (s.raiseIrq part v) := by
  refine .of_same ?_ (s.queues_raiseIrq part v) ?_
  · unfold State.raiseIrq
    dsimp only
    split <;> rfl
  · unfold State.raiseIrq
    dsimp only
    split <;> exact Nat.le_refl _

theorem Pooled.completeGraph (s : State) (g : Graph) (st n d : Nat) : Pooled s (s.completeGraph g st n d) := by
  unfold State.completeGraph
  dsimp only
  obtain ⟨m, e, h⟩ := s.coreWrite_keeps g.part g.compl [g.tag * 2 ^ 32 + st, n, d, s.pkg.nano]
  rw [h]
  have hdone : Pooled s ((({ s with mem := m, errs := e } : State).modGraph g.id (fun h => { h with done := true, reserve := none })).forgetGraphs) :=
    .of_same rfl rfl (Nat.le_refl _)
  split
  · exact hdone.trans (.raiseIrq ..)
  · exact hdone

theorem Pooled.settleGraph (s : State) (gr : Nat) : Pooled s (s.settleGraph gr) := by
  unfold State.settleGraph
  split
  · exact .refl s
  next g _ =>
    dsimp only
    have hnodes : Pooled s ((State.settleNodes gr (g.nodes.length + 1) s).modGraph gr (fun h => { h with failure := h.failsFrom g })) :=
      (Pooled.settleNodes ..).trans (.of_same rfl rfl (Nat.le_refl _))
    split
    · exact hnodes
    · split
      · split
        · exact hnodes.trans (.completeGraph ..)
        · exact hnodes.trans (.completeGraph ..)
      · exact hnodes

/-! ### Blocks that have gone (R46, R258, R338) -/

/-- Every block of this number has ended and is resident no more. -/
def State.Gone (s : State) (n : Nat) : Prop := n < s.fresh ∧ ∀ d ∈ s.blocks, d.id = n → d.ended = true ∧ d.resident = false

theorem Pooled.gone (a : Pooled s t) {n : Nat} (h : s.Gone n) : t.Gone n := by
  obtain ⟨hlt, hall⟩ := h
  refine ⟨Nat.lt_of_lt_of_le hlt a.fresh, fun d hd hid => ?_⟩
  rcases a.blocks d hd with hnew | ⟨b, hb, hbid, hres, hend⟩
  · omega
  · obtain ⟨h1, h2⟩ := hall b hb (hbid.trans hid)
    exact ⟨hend h1, hres ▸ h2⟩

theorem Pooled.recsBack (s : State) (b : Block) : Pooled s (s.recsBack b) := by
  unfold State.recsBack
  split
  · exact .returnRecs ..
  · exact .refl s

theorem Pooled.launchOver (s : State) (l : Launch) : Pooled s (s.launchOver l) := by
  unfold State.launchOver
  split
  · exact .refl s
  · dsimp only
    split
    · exact .of_same rfl rfl (Nat.le_refl _)
    · exact .after (.settleGraph ..) rfl rfl (Nat.le_refl _)

theorem Pooled.offRequest (s : State) (n : Nat) (f : Mailbox → Mailbox) : Pooled s (s.offRequest n f) := by
  unfold State.offRequest
  split
  · exact .of_same rfl rfl (Nat.le_refl _)
  · exact .refl s

theorem Pooled.forget (s : State) (n : Nat) : Pooled s (s.forget n) := by
  unfold State.forget
  split
  · exact .refl s
  · exact .fewer (fun d hd => (List.mem_filter.1 hd).1) rfl rfl

/-- A block that is done with. -/
def Block.over (b : Block) : Block := { b with ended := true, resident := false }

theorem State.gone_over {n : Nat} (h : n < s.fresh) : (s.modBlock n Block.over).Gone n := by
  refine ⟨h, fun d hd hid => ?_⟩
  obtain ⟨x, -, rfl⟩ := List.mem_map.1 hd
  split at hid
  next hx => rw [if_pos hx]; exact ⟨rfl, rfl⟩
  next hx => exact absurd (beq_iff_eq.2 hid) hx

theorem State.gone_blockGone {b : Block} (h : b.id < s.fresh) : (s.blockGone b).Gone b.id := by
  unfold State.blockGone
  dsimp only
  have hback : Pooled (s.modBlock b.id Block.over) (((((s.modBlock b.id Block.over).recsBack b).forget b.id).modLaunch b.launch
      (fun l => { l with blocksLeft := l.blocksLeft - 1 })).trimNests) :=
    ((Pooled.recsBack ..).trans (.forget ..)).trans (.of_same rfl rfl (Nat.le_refl _))
  split
  · exact (hback.trans ((Pooled.launchOver ..).trans (.settleGraph ..))).gone (State.gone_over h)
  · exact hback.gone (State.gone_over h)

theorem State.gone_flushedOver {b : Block} (h : b.id < s.fresh) : (s.flushedOver b).Gone b.id := by
  have hoff := (Pooled.offRequest s b.id (fun m => { m with flushed := m.flushed + 1 })).fresh
  have hlt := Nat.lt_of_lt_of_le h hoff
  unfold State.flushedOver
  dsimp only
  split
  · exact State.gone_blockGone hlt
  · split
    · exact State.gone_blockGone hlt
    · have hrecs : ∀ (u : State) (gr : Nat) (l : List Nat) (p q : RecState), Pooled u (l.foldl (fun s a => s.setRec gr a p q) u) :=
        fun u gr l p q => .foldl (fun s a => s.setRec gr a p q) (fun s a => .of_same rfl rfl (Nat.le_refl _)) l u
      have hnew : ∀ (u : State) f, Pooled u ((u.newId.2.modLaunch b.launch f).trimNests) := fun u f => .of_same rfl rfl (Nat.le_succ _)
      refine Pooled.gone (.trans (.trans ?_ (.recsBack ..)) (hnew ..)) (State.gone_over hlt)
      split
      · exact hrecs ..
      · exact .refl _

theorem State.gone_endsBlock {b : Block} (h : b.id < s.fresh) (he : s.endsBlock b = some t) : t.Gone b.id := by
  have hlt : ∀ f, b.id < (s.offRequest b.id f).fresh := fun f => Nat.lt_of_lt_of_le h (Pooled.offRequest s b.id f).fresh
  unfold State.endsBlock at he
  split at he
  · cases he
  · cases he
    split
    · exact State.gone_blockGone (hlt _)
    · exact State.gone_flushedOver h
    · exact State.gone_blockGone (hlt _)

end

end Sys2Proof.Machine
end

section
/-!
The ready pool's events: doorbells, submissions that are refused, placement, the ends of blocks, heats (R40, R44 to R46, R254,
R257 to R260, R265).
-/

namespace Sys2Proof.Machine

section
variable {s t u : State}

/-! ### Queues (R254) -/

theorem State.queue?_modQueue {part q : Nat} {x : SubQueue} (h : s.queue? part q = some x) (f : SubQueue → SubQueue) :
    (s.modQueue part q f).queue? part q = some (f x) := by
  obtain ⟨fn, hfn, hq⟩ := Option.bind_eq_some_iff.1 h
  show ((s.funcs.modify part (fun x => { x with queues := x.queues.modify q f }))[part]?).bind _ = _
  rw [List.getElem?_modify_eq, hfn]
  show (fn.queues.modify q f)[q]? = _
  rw [List.getElem?_modify_eq, hq]
  rfl

theorem State.func_queue {part q : Nat} {x : SubQueue} (h : s.queue? part q = some x) : (s.func part).queues[q]? = some x := by
  obtain ⟨fn, hfn, hq⟩ := Option.bind_eq_some_iff.1 h
  unfold State.func
  rw [List.getD_eq_getElem?_getD, hfn]
  exact hq

theorem Pooled.queue? (a : Pooled s t) (part q : Nat) : t.queue? part q = s.queue? part q := by
  have h : ∀ u : State, u.queue? part q = ((u.funcs.map (·.queues))[part]?).bind (·[q]?) := fun u => by
    unfold State.queue?
    rw [List.getElem?_map]
    cases u.funcs[part]? <;> rfl
  rw [h, h, a.queues]

theorem doorbell_rings {part q tail : Nat} {x : SubQueue} (hl : s.lives) (hq : s.queue? part q = some x) (hready : s.pkg.clientReady = true)
    (hup : s.pkg.clientUp = true) (hr : s.resetting part = false) : Happens (.doorbell part q tail) s (fun t => t.mem = s.mem ∧
      t.queue? part q = some (if x.entries ≤ tail then { x with err := true } else { x with tail := tail })) := by
  refine ⟨s.modQueue part q (·.ring tail), ?_, rfl, State.queue?_modQueue hq _⟩
  show alive s (if s.pkg.clientUp then some (s.doorbell part q tail) else none) = _
  rw [hup, if_pos rfl, alive_next hl]
  unfold State.doorbell State.hostWrites
  rw [hready, hr]
  rfl

/-- A queue that is empty again (R254). -/
def SubQueue.emptied (x : SubQueue) : SubQueue := { x with head := 0, tail := 0, err := false }

theorem queue_resets {part q : Nat} {x : SubQueue} (hr : s.runs) (hq : s.queue? part q = some x) (he : x.err = true) :
    Happens (.queueReset part q) s (fun t => t.mem = s.mem ∧ t.queue? part q = some { x with head := 0, tail := 0, err := false }) := by
  refine ⟨s.modQueue part q SubQueue.emptied, ?_, rfl, State.queue?_modQueue hq _⟩
  show running s (((s.func part).queues[q]?).bind (fun x =>
    if x.err then some (s.modQueue part q (fun x => { x with head := 0, tail := 0, err := false })) else none)) = _
  rw [State.func_queue hq, Option.bind_some, he, if_pos rfl, running_next hr.1 hr.2]
  rfl

/-! ### Refused graphs (R257, R258) -/

theorem State.graph?_append {l : List Graph} {h : Graph} (hl : ∀ g ∈ l, g.id ≠ h.id) (hu : u.graphs = l ++ [h]) : u.graph? h.id = some h := by
  unfold State.graph?
  rw [hu, List.find?_append, List.find?_eq_none.2 fun g hg => by simpa using hl g hg]
  simp

/-- A graph of which only its completion record is left to write. -/
def State.refusedGraph (s : State) (part : Nat) (e : SubEntry) (w : Nat) : Graph :=
  { id := s.fresh, part := part, tag := e.tag, prio := e.prio, irq := e.irq, vector := e.vector, compl := e.compl, nodes := []
    failure := some (0xFFFF, 2, w), reserve := none, done := false }

/-- The state in which a submitted graph settles. -/
def State.submitted (s : State) (g : Graph) : State := { s with fresh := s.fresh + 1, graphs := s.graphs ++ [g] }

theorem State.submit_settles (s : State) (part : Nat) (e : SubEntry) : ∃ g, s.submit part e = (s.submitted g).settleGraph s.fresh ∧
    (∀ w, s.graphHeadBad part e.graph = some w → g = s.refusedGraph part e w) := by
  unfold State.submit
  refine ⟨_, rfl, fun w hw => ?_⟩
  have hbad : ∀ ds, s.graphBad part e.graph ds = some (0xFFFF, w) := fun ds => by unfold State.graphBad; rw [hw]
  dsimp only
  rw [hbad]
  rfl

/-- A graph without nodes completes with its failure (R258). -/
theorem State.settleGraph_refused {h : Graph} {f : Nat × Nat × Nat} (hg : s.graph? h.id = some h) (hn : h.nodes = []) (hf : h.failure = some f)
    (hd : h.done = false) (hw : s.recordWaits h = false) :
    s.settleGraph h.id = (s.modGraph h.id (fun k => { k with failure := some f })).completeGraph h f.2.1 f.1 f.2.2 := by
  have hfail : ∀ k : Graph, k.failsFrom h = some f := fun k => by unfold Graph.failsFrom; rw [hf]; rfl
  have hsame : ({ h with failure := some f } : Graph) = h := by rw [← hf]
  have hnodes : State.settleNodes h.id (h.nodes.length + 1) s = s := by
    rw [hn]
    unfold State.settleNodes
    rw [hg]
    dsimp only
    rw [hn]
    rfl
  have hlook : (s.modGraph h.id (fun k => { k with failure := some f })).graph? h.id = some h := by
    have h1 : (s.modGraph h.id (fun k => { k with failure := some f })).graph? h.id = (s.graph? h.id).map (fun x =>
        if x.id == h.id then { x with failure := some f } else x) :=
      find?_mapWhere _ _ (fun k : Graph => { k with failure := some f }) _ fun _ _ => rfl
    rw [h1, hg, Option.map_some, if_pos (beq_self_eq_true _), hsame]
  have hover : h.over = true := by unfold Graph.over; rw [hn]; rfl
  unfold State.settleGraph
  rw [hg]
  dsimp only
  rw [hnodes]
  simp only [hfail]
  rw [hlook]
  dsimp only
  have hwait : (s.modGraph h.id (fun k => { k with failure := some f })).recordWaits h = false := hw
  rw [hover, hd, hwait, hf]
  rfl

/-- A graph whose completion record has been written (R258). -/
def Graph.completed (g : Graph) : Graph := { g with done := true, reserve := none }

/-- The state in which a graph's completion record has been written, before its message. -/
def State.recorded (s : State) (g : Graph) (ws : List Nat) : State :=
  ((s.coreWrite g.part g.compl ws).modGraph g.id Graph.completed).forgetGraphs

/-- A completion record is all that a completed graph writes; graphs that are done stay while launches of theirs are left (R258). -/
theorem State.completeGraph_spec (s : State) (g : Graph) (st n d : Nat) :
    (s.completeGraph g st n d).mem = (s.coreWrite g.part g.compl [g.tag * 2 ^ 32 + st, n, d, s.pkg.nano]).mem ∧
    ∀ k ∈ (s.completeGraph g st n d).graphs, ∃ x ∈ s.graphs, (x.id = g.id → k.id = x.id ∧ k.done = true) ∧ (x.id ≠ g.id → k = x) ∧
      (k.done = true → ∃ l ∈ s.launches, l.ofGraph k.id = true) := by
  have hirq : ∀ (u : State) v, (u.raiseIrq g.part v).mem = u.mem ∧ (u.raiseIrq g.part v).graphs = u.graphs := fun u v => by
    unfold State.raiseIrq
    dsimp only
    split <;> exact ⟨rfl, rfl⟩
  obtain ⟨ws, hws⟩ : ∃ ws, ws = [g.tag * 2 ^ 32 + st, n, d, s.pkg.nano] := ⟨_, rfl⟩
  obtain ⟨m, e, hw⟩ := s.coreWrite_keeps g.part g.compl ws
  have hgraphs : ∀ k ∈ (s.recorded g ws).graphs, ∃ x ∈ s.graphs, (x.id = g.id → k.id = x.id ∧ k.done = true) ∧
      (x.id ≠ g.id → k = x) ∧ (k.done = true → ∃ l ∈ s.launches, l.ofGraph k.id = true) := by
    unfold State.recorded
    rw [hw]
    intro k hk
    obtain ⟨hk, hkeep⟩ := List.mem_filter.1 hk
    obtain ⟨x, hx, rfl⟩ := List.mem_map.1 hk
    refine ⟨x, hx, fun h => ?_, fun h => if_neg (by simpa using h), fun hdone => ?_⟩
    · rw [if_pos (by simpa using h)]
      exact ⟨rfl, rfl⟩
    · rw [hdone] at hkeep
      obtain ⟨l, hl, hof⟩ := List.any_eq_true.1 hkeep
      exact ⟨l, (List.mem_filter.1 hl).1, hof⟩
  have hcomplete : s.completeGraph g st n d = if g.irq then (s.recorded g ws).raiseIrq g.part g.vector else s.recorded g ws := by
    rw [hws]; rfl
  rw [hcomplete, ← hws]
  split
  · obtain ⟨h1, h2⟩ := hirq (s.recorded g ws) g.vector
    rw [h1, h2]
    exact ⟨rfl, hgraphs⟩
  · exact ⟨rfl, hgraphs⟩

/-- The dispatch core's writes hang on memory, its pages and keys, and where code runs; on no graph, queue or number. -/
theorem State.coreWrite_with (s : State) (gs : List Graph) (fs : List Func) (n part a : Nat) (ws : List Nat) :
    ({ s with graphs := gs, funcs := fs, fresh := n } : State).coreWrite part a ws =
      { s.coreWrite part a ws with graphs := gs, funcs := fs, fresh := n } := by
  have hone : ∀ (u : State) k p v, ({ u with graphs := gs, funcs := fs, fresh := n } : State).physWrite k p 8 v =
      { u.physWrite k p 8 v with graphs := gs, funcs := fs, fresh := n } := fun u k p v => rfl
  have hall : ∀ (k p : Nat) (l : List (Nat × Nat)) (u : State),
      l.foldl (fun s w => s.physWrite k (p + 8 * w.1) 8 w.2) { u with graphs := gs, funcs := fs, fresh := n } =
      { l.foldl (fun s w => s.physWrite k (p + 8 * w.1) 8 w.2) u with graphs := gs, funcs := fs, fresh := n } := by
    intro k p l
    induction l with
    | nil => exact fun u => rfl
    | cons w l ih =>
      intro u
      rw [List.foldl_cons, List.foldl_cons, hone, ih]
  have htr : ({ s with graphs := gs, funcs := fs, fresh := n } : State).translate part a 0 = s.translate part a 0 := rfl
  unfold State.coreWrite
  rw [htr]
  cases s.translate part a 0 with
  | ok p k => exact hall k p _ s
  | fault => rfl
  | refused x => rfl

theorem entry_read {part q : Nat} {x : SubQueue} (hq : s.queue? part q = some x) (herr : x.err = false) (hne : x.head ≠ x.tail)
    (hlive : (s.part part).state = 1) (hfw : s.fw.restarting = false) (hturn : s.dispatchTurn part = true)
    (hreads : s.coreReads part (x.base + 64 * x.head) 64 = true) :
    let e := entryAt (s.coreRead part) (x.base + 64 * x.head) x.cap
    Happens (.submissionEntryRead part q) s (fun t =>
      t.queue? part q = some { x with head := (x.head + 1) % x.entries } ∧
      ∀ w, s.graphHeadBad part e.graph = some w → (∀ g ∈ s.graphs, g.id < s.fresh) →
        s.mem.pages.any (fun p => p.part == part && p.moving.isSome && pageCovers p.spec e.compl) = false →
        (∀ l ∈ s.launches, l.node.all (fun n => decide (n.1 < s.fresh)) = true) →
        (∀ g ∈ t.graphs, g ∈ s.graphs) ∧ t.mem = (s.coreWrite part e.compl [e.tag * 2 ^ 32 + 2, 0xFFFF, w, s.pkg.nano]).mem) := by
  intro e
  obtain ⟨u, hu⟩ : ∃ u, u = s.modQueue part q (fun x => { x with head := (x.head + 1) % x.entries }) := ⟨_, rfl⟩
  obtain ⟨g, hg, hrefused⟩ := u.submit_settles part e
  have hnext : exec (.submissionEntryRead part q) s = .next ((u.submitted g).settleGraph u.fresh) := by
    show event (s.readEntry part q) = _
    unfold State.readEntry
    rw [State.func_queue hq, Option.bind_some, ← hg, hu]
    dsimp only
    rw [hturn, herr, beq_eq_false_iff_ne.2 hne, hlive, hfw, hreads]
    rfl
  refine ⟨_, hnext, ?_, fun w hw hgraphs hpages hlaunches => ?_⟩
  · rw [(Pooled.settleGraph ..).queue?]
    show (u.queue? part q) = _
    rw [hu]
    exact State.queue?_modQueue hq _
  · have hgw := hrefused w (by rw [hu]; exact hw)
    have hids : ∀ k ∈ u.graphs, k.id ≠ g.id := fun k hk => by
      have : k.id < s.fresh := hgraphs k (by rw [hu] at hk; exact hk)
      rw [hgw, hu]
      exact Nat.ne_of_lt this
    have hofnone : ∀ l ∈ s.launches, l.ofGraph u.fresh = false := fun l hl => by
      have hnode := hlaunches l hl
      unfold Launch.ofGraph
      cases hn : l.node with
      | none => rfl
      | some n =>
        rw [hn] at hnode
        have : n.1 < s.fresh := of_decide_eq_true hnode
        rw [hu]
        exact beq_eq_false_iff_ne.2 (Nat.ne_of_lt this)
    have hfresh : g.id = u.fresh := by rw [hgw]; rfl
    have hlook : (u.submitted g).graph? g.id = some g := State.graph?_append hids rfl
    have hlaunch : (u.submitted g).launches = s.launches := by rw [hu]; rfl
    have hwaits : (u.submitted g).recordWaits g = false := by
      unfold State.recordWaits
      rw [Bool.or_eq_false_iff]
      refine ⟨List.any_eq_false.2 fun b _ => ?_, ?_⟩
      · have hno : ((u.submitted g).launch? b.launch).any (·.ofGraph g.id) = false := by
          cases hl : (u.submitted g).launch? b.launch with
          | none => rfl
          | some l =>
            have hmem : l ∈ s.launches := by rw [← hlaunch]; exact List.mem_of_find?_eq_some hl
            rw [hfresh]
            exact hofnone l hmem
        rw [hno, Bool.and_false]
        decide
      · rw [hgw, hu]
        exact hpages
    rw [← hfresh, State.settleGraph_refused (f := (0xFFFF, 2, w)) hlook (by rw [hgw]; rfl) (by rw [hgw]; rfl) (by rw [hgw]; rfl) hwaits]
    obtain ⟨hmem, hleft⟩ := State.completeGraph_spec ((u.submitted g).modGraph g.id (fun k => { k with failure := some (0xFFFF, 2, w) }))
      g 2 0xFFFF w
    refine ⟨fun k hk => ?_, ?_⟩
    · obtain ⟨y, hy, hsame, hother, hdone⟩ := hleft k hk
      have hcase : y.id = g.id ∨ y ∈ s.graphs := by
        obtain ⟨z, hz, rfl⟩ := List.mem_map.1 hy
        rcases List.mem_append.1 hz with hz | hz
        · right
          rw [if_neg (by simpa using hids z hz)]
          rw [hu] at hz
          exact hz
        · left
          obtain rfl := List.mem_singleton.1 hz
          split <;> rfl
      by_cases hid : y.id = g.id
      · obtain ⟨hkid, hkdone⟩ := hsame hid
        obtain ⟨l, hl, hof⟩ := hdone hkdone
        have hl' : l ∈ s.launches := by rw [← hlaunch]; exact hl
        rw [hkid, hid, hfresh, hofnone l hl'] at hof
        cases hof
      · rw [hother hid]
        exact hcase.resolve_left hid
    · rw [hmem]
      have hwith : ((u.submitted g).modGraph g.id (fun k => { k with failure := some (0xFFFF, 2, w) })) = { s with
          graphs := ((u.submitted g).modGraph g.id (fun k => { k with failure := some (0xFFFF, 2, w) })).graphs
          funcs := u.funcs, fresh := s.fresh + 1 } := by rw [hu]; rfl
      rw [hwith, State.coreWrite_with, hgw]
      rfl

/-! ### The end of a block (R46) -/

theorem block_ends {b : Block} (hb : s.block? b.id = some b) (hid : b.id < s.fresh) (hend : b.ended = false) (hres : b.resident = true)
    (hown : s.isOwn b = true) (hgangs : ∀ g ∈ s.gangsOf b.id, g.life = .ended) (hquiet : s.blockQuiet b.id = true) :
    Happens (.blockEnd b.id) s (fun t => ∀ d, t.block? b.id = some d → d.ended = true ∧ d.resident = false) := by
  have hall : (s.gangsOf b.id).all (fun g => g.life == .ended) = true := List.all_eq_true.2 fun g hg => beq_iff_eq.2 (hgangs g hg)
  obtain ⟨t, ht⟩ : ∃ t, s.endsBlock b = some t := by
    unfold State.endsBlock
    rw [hend, hres, hown, hall, hquiet]
    exact ⟨_, rfl⟩
  refine ⟨t, ?_, fun d hd => (State.gone_endsBlock hid ht).2 d (List.mem_of_find?_eq_some hd) ?_⟩
  · show event ((s.block? b.id).bind s.endsBlock) = _
    rw [hb, Option.bind_some, ht]; rfl
  · exact beq_iff_eq.1 (List.find?_some (p := fun b' : Block => b'.id == b.id) hd)

/-! ### Launches (R259, R265) -/

theorem State.launch?_modLaunch_same {n : Nat} {l : Launch} {f : Launch → Launch} (hf : ∀ l, (f l).id = l.id) (hl : s.launch? n = some l) :
    (s.modLaunch n f).launch? n = some (f l) := by
  have h1 : (s.modLaunch n f).launch? n = (s.launch? n).map (fun x => if x.id == n then f x else x) :=
    find?_mapWhere _ _ f _ fun x _ => by rw [hf]
  rw [h1, hl, Option.map_some, if_pos (List.find?_some (p := fun l : Launch => l.id == n) hl)]

/-- A launch whose head block keeps a wing (R259). -/
def Launch.holds (l : Launch) (w : Nat) : Launch := { l with wingHeld := some w }

theorem head_waits {l : Launch} {t0 w : Nat} (hl : s.launch? l.id = some l) (hwait : l.waiting = some t0) (hnone : l.wingHeld = none)
    (hdue : t0 + 1000000 ≤ s.pkg.nano) (hturn : s.dispatchTurn l.part = true) (hhead : (s.headOf l.part l.prio).map (·.id) = some l.id)
    (hw : s.soonestWing l = some w) :
    Happens (.headOfLevelTimeout l.id) s (fun t => t.launch? l.id = some { l with wingHeld := some w } ∧ t.mem = s.mem) := by
  have hhead' : s.isHead l = true := beq_iff_eq.2 hhead
  refine ⟨s.modLaunch l.id (·.holds w), ?_, State.launch?_modLaunch_same (f := (·.holds w)) (fun _ => rfl) hl, rfl⟩
  show event ((s.launch? l.id).bind s.headWaits) = _
  rw [hl, Option.bind_some]
  unfold State.headWaits
  rw [hwait, hnone]
  dsimp only
  rw [decide_eq_true hdue, hhead', hturn, hw]
  rfl

theorem State.graph?_modGraph_same {n : Nat} {g : Graph} {f : Graph → Graph} (hf : ∀ g, (f g).id = g.id) (hg : s.graph? n = some g) :
    (s.modGraph n f).graph? n = some (f g) := by
  have h1 : (s.modGraph n f).graph? n = (s.graph? n).map (fun x => if x.id == n then f x else x) :=
    find?_mapWhere _ _ f _ fun x _ => by rw [hf]
  rw [h1, hg, Option.map_some, if_pos (List.find?_some (p := fun g : Graph => g.id == n) hg)]

theorem State.node?_modNode_same {gr i : Nat} {g : Graph} {nd : Node} {f : Node → Node} (hg : s.graph? gr = some g)
    (hn : g.node? i = some nd) : (s.modNode gr i f).node? (gr, i) = some (f nd) := by
  unfold State.node? State.modNode
  rw [State.graph?_modGraph_same (f := fun g => { g with nodes := g.nodes.modify i f }) (fun _ => rfl) hg, Option.bind_some]
  show (g.nodes.modify i f)[i]? = _
  rw [List.getElem?_modify_eq]
  unfold Graph.node? at hn
  rw [hn]; rfl

/-- A node whose open heat has launched. -/
def Node.launched (nd : Node) : Node := { nd with open_ := [], deadline := none, seq := nd.seq + 1, heatsLive := nd.heatsLive + 1 }

/-- The launch of an open heat as one consumer block (R265). -/
def State.heatLaunch (s : State) (gr n : Nat) (g : Graph) (nd : Node) (h : LaunchHdr) : Launch :=
  let at_ := s.heatSlot g.part gr n nd.seq
  { id := s.fresh, hdrAddr := nd.launchAddr, hdr := { h with argbase := at_ }, part := g.part, prio := g.prio, node := some (gr, n)
    heat := some (nd.seq, at_, nd.open_), next := 0, total := 1, again := [], released := s.pkg.clock, waiting := none
    wingHeld := none, blocksLeft := 1, nests := [] }

theorem heat_launches {gr n t0 : Nat} {g : Graph} {nd : Node} {h : LaunchHdr} (hg : s.graph? gr = some g) (hn : g.node? n = some nd)
    (hh : nd.hdr = some h) (hopen : nd.open_ ≠ []) (hdl : nd.deadline = some t0) (hdue : t0 ≤ s.pkg.clock)
    (hturn : s.dispatchTurn g.part = true) : Happens (.heatTimeout gr n) s (fun t =>
      (∃ l, t.launches = s.launches ++ [l] ∧ l.node = some (gr, n) ∧ l.total = 1 ∧
        l.heat = some (nd.seq, s.heatSlot g.part gr n nd.seq, nd.open_) ∧ l.hdr = { h with argbase := s.heatSlot g.part gr n nd.seq }) ∧
      (∃ d, t.node? (gr, n) = some d ∧ d.open_ = [] ∧ d.deadline = none ∧ d.seq = nd.seq + 1) ∧ t.mem = s.mem) := by
  have hnode : s.node? (gr, n) = some nd := by unfold State.node?; rw [hg, Option.bind_some]; exact hn
  obtain ⟨l, hl⟩ : ∃ l, l = s.heatLaunch gr n g nd h := ⟨_, rfl⟩
  obtain ⟨u, hu⟩ : ∃ u : State, u = { s with fresh := s.fresh + 1, launches := s.launches ++ [l] } := ⟨_, rfl⟩
  have hlaunch : s.launchHeat gr n = u.modNode gr n Node.launched := by
    unfold State.launchHeat
    rw [hg, hnode]
    dsimp only
    rw [hh]
    dsimp only
    rw [if_neg hopen, hu, hl]
    rfl
  refine ⟨u.modNode gr n Node.launched, ?_, ⟨l, by rw [hu]; rfl, by rw [hl]; rfl, by rw [hl]; rfl, by rw [hl]; rfl,
    by rw [hl]; rfl⟩, ⟨nd.launched, ?_, rfl, rfl, rfl⟩,
    by rw [hu]; rfl⟩
  · show event ((s.node? (gr, n)).bind _) = _
    rw [hnode, Option.bind_some, hdl]
    dsimp only
    rw [hg, if_pos ⟨hdue, hopen, hturn⟩, hlaunch]
    rfl
  · exact State.node?_modNode_same (s := u) (f := Node.launched) (by rw [hu]; exact hg) hn

end

end Sys2Proof.Machine
end

section
/-!
Where and how a single block starts, the block of a heat with its heat block and its records among them (R40, R44, R45, R259, R260, R265).
-/

namespace Sys2Proof.Machine

section
variable {s t : State} {l : Launch} {c : Nat}

/-! ### The choice of the place (R259, R260) -/

theorem mem_of_leastBy {key : Nat → Nat} {x : Nat} : ∀ {l : List Nat}, leastBy key l = some x → x ∈ l
  | [], h => nomatch h
  | y :: l, h => by
    unfold leastBy at h
    split at h
    next z hz =>
      split at h <;> cases h
      · exact List.mem_cons_of_mem _ (mem_of_leastBy hz)
      · exact List.mem_cons_self ..
    · cases h; exact List.mem_cons_self ..

/-- The chosen cluster takes the block. -/
theorem State.fits_bestCluster {held : Bool} {cs : List Nat} (h : s.bestCluster l held cs = some c) : s.fitsOn l c held = true := by
  have hmem := mem_of_leastBy h
  have hfit : c ∈ cs.filter (fun c => s.fitsOn l c held) := by
    split at hmem
    · exact hmem
    · exact (List.mem_filter.1 hmem).1
  exact (List.mem_filter.1 hfit).2

/-- The next block of a launch of single blocks starts on the chosen cluster. -/
theorem State.startUnit_single {ws : List Nat} (hin : s.regionsIn l = true) (harea : s.heatArea l = true) (hspan : l.hdr.spanco = 0)
    (hwing : l.hdr.wingco = 0) (hagain : l.again = []) (hleft : l.next < l.total)
    (hbest : s.bestCluster l false (ws.flatMap clustersOf) = some c) :
    s.startUnit l ws = some ((s.startBlock l l.next c false).placed l [l.next]) := by
  have hcohort : l.hdr.cohort = 1 := by unfold LaunchHdr.cohort; rw [hspan, hwing]; rfl
  have hunit : l.unit = [l.next] := by
    unfold Launch.unit
    rw [hcohort, hagain]
    dsimp only
    rw [show min 1 (l.total - l.next) = 1 by omega]
    rfl
  unfold State.startUnit
  rw [hin, harea, hunit, hspan, hwing]
  dsimp only
  rw [hbest]
  rfl

theorem placement_next (hl : s.launch? l.id = some l) (hfw : s.fw.restarting = false) (hturn : s.dispatchTurn l.part = true)
    (hagain : l.again = []) (hleft : l.next < l.total) (hspan : l.hdr.spanco = 0) (hwing : l.hdr.wingco = 0)
    (hhead : (s.headOf l.part l.prio).map (·.id) = some l.id) (habove : s.headsAbove l.part l.prio = [])
    (hin : s.regionsIn l = true) (harea : s.heatArea l = true)
    (hbest : s.bestCluster l false ((s.freeWings l).flatMap clustersOf) = some c) :
    exec (.blockPlacement l.id) s = .next ((s.startBlock l l.next c false).placed l [l.next]) := by
  have hwaits : l.waits = true := by unfold Launch.waits; rw [decide_eq_true hleft, Bool.or_true]
  have hhead' : s.isHead l = true := beq_iff_eq.2 hhead
  show event ((s.launch? l.id).bind _) = _
  rw [hl, Option.bind_some, hfw, hwaits, hturn]
  unfold State.place
  rw [habove, hhead', if_pos rfl, State.startUnit_single hin harea hspan hwing hagain hleft hbest]
  rfl

/-! ### The start of a block (R40, R44, R45) -/

/-- The block that starts. -/
def State.starting (s : State) (l : Launch) (n c : Nat) (held : Bool) : Block :=
  { newBlock s.fresh l.id l.part n c l.hdr.argbase s.pkg.clock with held := held }

/-- The records of a heat are delivered to the block that starts (R265). -/
def State.delivered (s : State) (l : Launch) (id : Nat) : State :=
  match l.node, l.heat with
  | some n, some x => x.2.2.foldl (fun (s : State) a => s.setRec n.1 a (.queued n.2 x.1) (.delivered id)) s
  | _, _ => s

theorem State.delivered_keeps (s : State) (l : Launch) (id : Nat) : ∃ gs, s.delivered l id = { s with graphs := gs } := by
  have hfold : ∀ (gr : Nat) (p q : RecState) (rs : List Nat) (u : State), (∃ gs, u = { s with graphs := gs }) →
      ∃ gs, rs.foldl (fun s a => s.setRec gr a p q) u = { s with graphs := gs } := by
    intro gr p q rs
    induction rs with
    | nil => exact fun u hu => hu
    | cons r rs ih =>
      rintro u ⟨gs, rfl⟩
      exact ih _ ⟨_, rfl⟩
  unfold State.delivered
  split
  · exact hfold _ _ _ _ s ⟨s.graphs, rfl⟩
  · exact ⟨s.graphs, rfl⟩

theorem State.writeHeat_keeps (s : State) (l : Launch) : ∃ m e, s.writeHeat l = { s with mem := m, errs := e } := by
  unfold State.writeHeat
  split
  · exact s.coreWrite_keeps ..
  · exact ⟨s.mem, s.errs, rfl⟩

/-- What the start of a block leaves: memory with the heat block, the block, its gangs, and the records delivered. -/
theorem State.startBlock_spec (s : State) (l : Launch) (n c : Nat) :
    ((s.startBlock l n c false).placed l [n]).mem.bytes = (s.writeHeat l).mem.bytes ∧
    ((s.startBlock l n c false).placed l [n]).blocks = s.blocks ++ [s.starting l n c false] ∧
    ((s.startBlock l n c false).placed l [n]).gangs = s.gangs ++ blockGangs l.hdr s.fresh c (s.fresh + 1) s.pkg.clock ∧
    ((s.startBlock l n c false).placed l [n]).graphs = (s.delivered l s.fresh).graphs ∧
    (∀ m, s.launch? l.id = some m → ∃ k, ((s.startBlock l n c false).placed l [n]).launch? l.id = some k ∧
      k.next = if m.again = [] then m.next + 1 else m.next) := by
  obtain ⟨m, e, hw⟩ := s.writeHeat_keeps l
  obtain ⟨v, hv⟩ : ∃ v : State, v = { (s.writeHeat l).forgetCode with
      blocks := s.blocks ++ [s.starting l n c false], gangs := s.gangs ++ blockGangs l.hdr s.fresh c (s.fresh + 1) s.pkg.clock
      fresh := s.fresh + 1 + (blockGangs l.hdr s.fresh c (s.fresh + 1) s.pkg.clock).length } := ⟨_, rfl⟩
  have hstart : s.startBlock l n c false = ((v.delivered l s.fresh).modLaunch l.id (fun l => l.nestOn c false)).acquire (wingOf c) 4 := by
    rw [hv]; rfl
  obtain ⟨gs, hgs⟩ := v.delivered_keeps l s.fresh
  have hlaunches : v.launches = s.launches := by rw [hv, hw]; rfl
  have hgraphs : (v.delivered l s.fresh).graphs = (s.delivered l s.fresh).graphs := by
    have hfold : ∀ (gr : Nat) (p q : RecState) (rs : List Nat) (u w : State), u.graphs = w.graphs →
        (rs.foldl (fun s a => s.setRec gr a p q) u).graphs = (rs.foldl (fun s a => s.setRec gr a p q) w).graphs := by
      intro gr p q rs
      induction rs with
      | nil => exact fun u w h => h
      | cons r rs ih =>
        intro u w h
        exact ih _ _ (congrArg (mapWhere _ _) h)
    have hv' : v.graphs = s.graphs := by rw [hv, hw]; rfl
    unfold State.delivered
    split
    · exact hfold _ _ _ _ _ _ hv'
    · exact hv'
  rw [hstart]
  refine ⟨?_, ?_, ?_, hgraphs, fun m hm => ?_⟩
  · show (v.delivered l s.fresh).mem.bytes = _
    rw [hgs, hv]; rfl
  · show (v.delivered l s.fresh).blocks = _
    rw [hgs, hv]
  · show (v.delivered l s.fresh).gangs = _
    rw [hgs, hv]
  · have h1 : (v.delivered l s.fresh).launch? l.id = some m := by
      rw [hgs]
      show v.launches.find? _ = _
      rw [hlaunches]; exact hm
    have h2 := State.launch?_modLaunch_same (f := fun l => l.nestOn c false) (fun _ => rfl) h1
    have h3 := State.launch?_modLaunch_same (s := ((v.delivered l s.fresh).modLaunch l.id (fun l => l.nestOn c false)).acquire (wingOf c) 4)
      (f := fun l => { l with again := l.again.filter (fun p => !([n] : List Nat).contains p.2)
                              next := if l.again = [] then l.next + ([n] : List Nat).length else l.next
                              waiting := none, wingHeld := none }) (fun _ => rfl) h2
    exact ⟨_, h3, rfl⟩

/-- The gangs of a block without shadows, at their start (R40, R45). -/
theorem blockGangs_start {h : LaunchHdr} (ht : h.twin = false) (id c first now : Nat) :
    (blockGangs h id c first now).length = h.gangs ∧ ∀ g ∈ blockGangs h id c first now, g.life = .pending ∧ g.whole = true ∧
      g.d = [] ∧ g.q = [] ∧ g.p = [] ∧ g.signature = 0xFFFFFFFF ∧ g.easel / 4 = c ∧ ∀ x ∈ g.slices, x.point = .atHeader h.entry := by
  unfold blockGangs
  rw [ht]
  refine ⟨by simp, fun g hg => ?_⟩
  obtain ⟨i, -, rfl⟩ := List.mem_map.1 hg
  refine ⟨rfl, rfl, rfl, rfl, rfl, rfl, ?_, fun x hx => ?_⟩
  · show (4 * c + i % 4) / 4 = c
    omega
  · obtain ⟨j, -, rfl⟩ := List.mem_map.1 hx
    rfl

/-! ### Records that a heat delivers (R262, R265) -/

theorem Node.recAt_setRec (n : Node) (a b : Nat) (r : RecState) : (n.setRec a r).recAt b = if b = a then r else n.recAt b := by
  have hrest : (n.recs.filter (fun p => p.1 != a)).find? (fun p => p.1 == b) = if b = a then none else n.recs.find? (fun p => p.1 == b) := by
    rw [List.find?_filter]
    split
    next h =>
      rw [h]
      exact List.find?_eq_none.2 fun p _ => by simp
    next h =>
      refine congrArg (fun f => List.find? f n.recs) (funext fun p => ?_)
      by_cases hp : p.1 = b
      · simp [hp, h]
      · simp [hp]
  unfold Node.setRec Node.recAt
  dsimp only
  split
  next hfree =>
    rw [hrest]
    split
    · rw [hfree]; rfl
    · rfl
  · rw [List.find?_cons]
    by_cases h : b = a
    · simp [h]
    · have hne : (a == b) = false := beq_eq_false_iff_ne.2 (Ne.symm h)
      rw [if_neg h, hne]
      dsimp only
      rw [hrest, if_neg h]

theorem State.recIs_iff {gr a : Nat} {r : RecState} :
    s.recIs gr a (· == r) = true ↔ ∃ g, s.graph? gr = some g ∧ ∃ n ∈ g.nodes, n.recAt a = r := by
  unfold State.recIs
  cases h : s.graph? gr with
  | none => simp
  | some g => simp

/-- Of a node's record what `setRec` makes of it. -/
theorem State.recIs_setRec {gr a b : Nat} {p q r r' : RecState} (h : s.recIs gr b (· == r) = true)
    (hr : ∀ n : Node, n.recAt b = r → (if n.recAt a == p then n.setRec a q else n).recAt b = r') :
    (s.setRec gr a p q).recIs gr b (· == r') = true := by
  obtain ⟨g, hg, n, hn, hrec⟩ := State.recIs_iff.1 h
  refine State.recIs_iff.2 ⟨{ g with nodes := mapWhere (fun (n : Node) => n.recAt a == p) (fun n => n.setRec a q) g.nodes }, ?_,
    if n.recAt a == p then n.setRec a q else n, List.mem_map.2 ⟨n, hn, rfl⟩, hr n hrec⟩
  exact State.graph?_modGraph_same (f := fun g => { g with nodes := mapWhere (fun (n : Node) => n.recAt a == p) (fun n => n.setRec a q) g.nodes })
    (fun _ => rfl) hg

/-- Every queued record of a list is delivered. -/
theorem State.recIs_delivers {gr b : Nat} {p q : RecState} (hpq : p ≠ q) (rs : List Nat) (s : State)
    (h : (s.recIs gr b (· == p) = true ∧ b ∈ rs) ∨ s.recIs gr b (· == q) = true) :
    (rs.foldl (fun s a => s.setRec gr a p q) s).recIs gr b (· == q) = true := by
  induction rs generalizing s with
  | nil => exact h.resolve_left fun h => nomatch h.2
  | cons a rs ih =>
    rw [List.foldl_cons]
    refine ih _ ?_
    have hset : ∀ n : Node, n.recAt a = p → (if n.recAt a == p then n.setRec a q else n).recAt a = q := fun n hn => by
      rw [if_pos (beq_iff_eq.2 hn), Node.recAt_setRec, if_pos rfl]
    have hkeep : ∀ (r : RecState) (n : Node), n.recAt b = r → (n.recAt a = p → b ≠ a) →
        (if n.recAt a == p then n.setRec a q else n).recAt b = r := fun r n hn hne => by
      split
      next hp => rw [Node.recAt_setRec, if_neg (hne (beq_iff_eq.1 hp)), hn]
      · exact hn
    rcases h with ⟨hp, hb⟩ | hq
    · by_cases hba : b = a
      · subst hba
        exact .inr (State.recIs_setRec hp hset)
      · exact .inl ⟨State.recIs_setRec hp fun n hn => hkeep p n hn fun _ => hba, (List.mem_cons.1 hb).resolve_left hba⟩
    · refine .inr (State.recIs_setRec hq fun n hn => hkeep q n hn fun hp hba => hpq ?_)
      rw [← hp, ← hba, hn]

/-! ### The two placements -/

theorem State.writeHeat_of {n : Nat × Nat} {nd : Node} {h : LaunchHdr} {seq a : Nat} {recs : List Nat} (hheat : l.heat = some (seq, a, recs))
    (hn : l.node = some n) (hnode : s.node? n = some nd) (hh : nd.hdr = some h) :
    s.writeHeat l = s.coreWrite l.part a (heatWords seq h.argbase recs) := by
  unfold State.writeHeat
  rw [hheat, hn, Option.bind_some, hnode, Option.bind_some, hh]

theorem block_placed (hl : s.launch? l.id = some l) (hfw : s.fw.restarting = false) (hturn : s.dispatchTurn l.part = true)
    (hagain : l.again = []) (hleft : l.next < l.total) (hspan : l.hdr.spanco = 0) (hwing : l.hdr.wingco = 0) (hnode : l.node = none)
    (hheat : l.heat = none) (hhead : (s.headOf l.part l.prio).map (·.id) = some l.id) (habove : s.headsAbove l.part l.prio = [])
    (hbest : s.bestCluster l false ((s.freeWings l).flatMap clustersOf) = some c) (htwin : l.hdr.twin = false) :
    Happens (.blockPlacement l.id) s (fun t => s.fitsOn l c false = true ∧ t.mem.bytes = s.mem.bytes ∧
      (∃ b, t.blocks = s.blocks ++ [b] ∧ b.launch = l.id ∧ b.number = l.next ∧ b.cluster = c ∧ b.part = l.part ∧
        b.resident = true ∧ b.scratch = [] ∧ b.tiles = []) ∧
      (∃ gs, t.gangs = s.gangs ++ gs ∧ gs.length = l.hdr.gangs ∧ ∀ g ∈ gs, g.life = .pending ∧ g.whole = true ∧
        g.d = [] ∧ g.q = [] ∧ g.p = [] ∧ g.signature = 0xFFFFFFFF ∧ g.easel / 4 = c ∧
        ∀ x ∈ g.slices, x.point = .atHeader l.hdr.entry) ∧
      ∃ m, t.launch? l.id = some m ∧ m.next = l.next + 1) := by
  have hin : s.regionsIn l = true := by unfold State.regionsIn; rw [hnode]; simp
  have harea : s.heatArea l = true := by unfold State.heatArea; rw [hheat]; rfl
  have hplain : s.writeHeat l = s := by unfold State.writeHeat; rw [hheat]
  obtain ⟨hmem, hblocks, hgangs, -, hlaunch⟩ := s.startBlock_spec l l.next c
  obtain ⟨k, hk, hknext⟩ := hlaunch l hl
  obtain ⟨hlen, hall⟩ := blockGangs_start htwin s.fresh c (s.fresh + 1) s.pkg.clock
  rw [hagain, if_pos rfl] at hknext
  rw [hplain] at hmem
  exact ⟨_, placement_next hl hfw hturn hagain hleft hspan hwing hhead habove hin harea hbest, State.fits_bestCluster hbest, hmem,
    ⟨_, hblocks, rfl, rfl, rfl, rfl, rfl, rfl, rfl⟩, ⟨_, hgangs, hlen, hall⟩, k, hk, hknext⟩

theorem heat_placed {n : Nat × Nat} {nd : Node} {h : LaunchHdr} {seq a : Nat} {recs : List Nat} (hl : s.launch? l.id = some l)
    (hfw : s.fw.restarting = false) (hturn : s.dispatchTurn l.part = true) (hagain : l.again = []) (hleft : l.next < l.total)
    (hspan : l.hdr.spanco = 0) (hwing : l.hdr.wingco = 0) (hheat : l.heat = some (seq, a, recs)) (hn : l.node = some n)
    (hnode : s.node? n = some nd) (hh : nd.hdr = some h) (hreads : s.coreReads l.part a 80 = true)
    (hhead : (s.headOf l.part l.prio).map (·.id) = some l.id) (habove : s.headsAbove l.part l.prio = [])
    (hbest : s.bestCluster l false ((s.freeWings l).flatMap clustersOf) = some c) :
    Happens (.blockPlacement l.id) s (fun t => t.mem.bytes = (s.coreWrite l.part a (heatWords seq h.argbase recs)).mem.bytes ∧
      ∃ b, t.blocks = s.blocks ++ [b] ∧ b.launch = l.id ∧ b.cluster = c ∧ b.argbase = l.hdr.argbase ∧ b.resident = true ∧
        ∀ r ∈ recs, s.recIs n.1 r (· == .queued n.2 seq) = true → t.recIs n.1 r (· == .delivered b.id) = true) := by
  have hin : s.regionsIn l = true := by unfold State.regionsIn; rw [hheat, Option.isSome_some, Bool.true_or, Bool.true_or]
  have harea : s.heatArea l = true := by unfold State.heatArea; rw [hheat, Option.all_some]; exact hreads
  have hwrites : s.writeHeat l = s.coreWrite l.part a (heatWords seq h.argbase recs) := State.writeHeat_of hheat hn hnode hh
  have hdelivers : s.delivered l s.fresh = recs.foldl (fun u a => u.setRec n.1 a (.queued n.2 seq) (.delivered s.fresh)) s := by
    unfold State.delivered
    rw [hheat, hn]
  obtain ⟨hmem, hblocks, -, hgraphs, -⟩ := s.startBlock_spec l l.next c
  rw [hwrites] at hmem
  refine ⟨_, placement_next hl hfw hturn hagain hleft hspan hwing hhead habove hin harea hbest, hmem, _, hblocks, rfl, rfl, rfl, rfl,
    fun r hr hq => ?_⟩
  have hrec : ∀ u v : State, u.graphs = v.graphs → u.recIs n.1 r (· == .delivered s.fresh) = v.recIs n.1 r (· == .delivered s.fresh) :=
    fun u v h => by unfold State.recIs State.graph?; rw [h]
  refine (hrec _ _ hgraphs).trans ?_
  rw [hdelivers]
  exact State.recIs_delivers (p := .queued n.2 seq) (q := .delivered s.fresh) nofun recs s (.inl ⟨hq, hr⟩)

end

/-- Settles O50: each of the pool's events by its rule. -/
theorem poolEvents : Obligations.PoolEvents := by
  intro s
  refine ⟨fun part q tail x hl hq hready hup hr => doorbell_rings hl hq hready hup hr, fun part q x hr hq he => queue_resets hr hq he,
    fun part q x hq herr hne hlive hfw hturn hreads => entry_read hq herr hne hlive hfw hturn hreads,
    fun l c hl hfw hturn hagain hleft hspan hwing hnode hheat hhead habove hbest htwin =>
      block_placed hl hfw hturn hagain hleft hspan hwing hnode hheat hhead habove hbest htwin,
    fun l c n nd h seq a recs hl hfw hturn hagain hleft hspan hwing hheat hn hnode hh hreads hhead habove hbest _ =>
      heat_placed hl hfw hturn hagain hleft hspan hwing hheat hn hnode hh hreads hhead habove hbest,
    fun l t0 w hl hwait hnone hdue hturn hhead hw => head_waits hl hwait hnone hdue hturn hhead hw,
    fun b hb hid hend hres hown hgangs hquiet => block_ends hb hid hend hres hown hgangs hquiet,
    fun gr n g nd h t0 hg hn hh hopen hdl hdue hturn => heat_launches hg hn hh hopen hdl hdue hturn⟩

end Sys2Proof.Machine
end

section
/-!
Isolation: the partition table, keys and scrubs, and the resets of partitions and of the client link (R5, R22, R304 to R306, R311, R319).
-/

namespace Sys2Proof.Machine

/-! ### Entries and functions of partitions -/

theorem getD_modify {α : Type} (l : List α) (d : α) (i n : Nat) (f : α → α) :
    (l.modify i f).getD n d = if n = i ∧ i < l.length then f (l.getD i d) else l.getD n d := by
  rw [List.getD_eq_getElem?_getD, List.getD_eq_getElem?_getD, List.getD_eq_getElem?_getD]
  by_cases h : n = i
  · subst h
    rw [List.getElem?_modify_eq]
    by_cases hl : n < l.length
    · rw [if_pos ⟨rfl, hl⟩, List.getElem?_eq_getElem hl]; rfl
    · rw [if_neg fun h => hl h.2, List.getElem?_eq_none (Nat.le_of_not_lt hl)]; rfl
  · simp [h, Ne.symm h]

section
variable {s t u : State} {part n : Nat}

theorem State.part_modPart (f : PartEntry → PartEntry) :
    (s.modPart part f).part n = if n = part ∧ part < s.parts.length then f (s.part part) else s.part n := getD_modify ..

theorem State.func_modFunc (f : Func → Func) :
    (s.modFunc part f).func n = if n = part ∧ part < s.funcs.length then f (s.func part) else s.func n := getD_modify ..

theorem State.part_modPart_same (f : PartEntry → PartEntry) (h : part < s.parts.length) : (s.modPart part f).part part = f (s.part part) :=
  State.part_modPart f |>.trans (if_pos ⟨rfl, h⟩)

theorem State.part_modPart_other (f : PartEntry → PartEntry) (h : n ≠ part) : (s.modPart part f).part n = s.part n :=
  State.part_modPart f |>.trans (if_neg fun e => h e.1)

theorem State.func_modFunc_same (f : Func → Func) (h : part < s.funcs.length) : (s.modFunc part f).func part = f (s.func part) :=
  State.func_modFunc f |>.trans (if_pos ⟨rfl, h⟩)

theorem State.func_modFunc_other (f : Func → Func) (h : n ≠ part) : (s.modFunc part f).func n = s.func n :=
  State.func_modFunc f |>.trans (if_neg fun e => h e.1)

/-! ### The partition table (R305) -/

theorem State.sealClock_keeps (s : State) : s.sealClock.mem = s.mem ∧ s.sealClock.parts = s.parts := by
  unfold State.sealClock
  split <;> exact ⟨rfl, rfl⟩

/-- An entry that a refused write gave a cause (R305). -/
def PartEntry.refused (p : PartEntry) (c : Nat) : PartEntry := { p with cause := c }

theorem State.tableWrite_spec {word v : Nat} (hlen : part < s.parts.length) : (s.tableWrite part word v).mem = s.mem ∧
    (∀ n, n ≠ part → (s.tableWrite part word v).part n = s.part n) ∧
    (s.refusals part word v = [] → (s.tableWrite part word v).part part = (s.part part).put word v) ∧
    (s.refusals part word v ≠ [] → ∃ c ∈ s.refusals part word v, (s.tableWrite part word v).part part = { s.part part with cause := c }) := by
  unfold State.tableWrite
  cases h : s.refusals part word v with
  | nil =>
    dsimp only
    obtain ⟨hmem, hparts⟩ := (s.modPart part (fun _ => (s.part part).put word v)).sealClock_keeps
    have hpart : ∀ n, (s.modPart part (fun _ => (s.part part).put word v)).sealClock.part n =
        (s.modPart part (fun _ => (s.part part).put word v)).part n := fun n => congrArg (·.getD n PartEntry.zero) hparts
    have hboth : ∀ w : State, w.mem = (s.modPart part (fun _ => (s.part part).put word v)).sealClock.mem →
        w.parts = (s.modPart part (fun _ => (s.part part).put word v)).sealClock.parts → w.mem = s.mem ∧
        (∀ n, n ≠ part → w.part n = s.part n) ∧ (([] : List Nat) = [] → w.part part = (s.part part).put word v) ∧
        (([] : List Nat) ≠ [] → ∃ c ∈ ([] : List Nat), w.part part = { s.part part with cause := c }) := fun w hm hp => by
      have hw : ∀ n, w.part n = (s.modPart part (fun _ => (s.part part).put word v)).part n := fun n =>
        (congrArg (·.getD n PartEntry.zero) hp).trans (hpart n)
      exact ⟨hm.trans hmem, fun n hn => (hw n).trans (State.part_modPart_other _ hn), fun _ =>
        (hw part).trans (State.part_modPart_same _ hlen), fun h => absurd rfl h⟩
    split
    · exact hboth _ rfl rfl
    · exact hboth _ rfl rfl
  | cons c l =>
    dsimp only
    obtain ⟨i, hi⟩ : ∃ i, i = (s.choose (l.length + 1)).1 := ⟨_, rfl⟩
    have hlt : i < (c :: l).length := by
      rw [hi]
      exact Nat.mod_lt _ (Nat.succ_pos _)
    refine ⟨rfl, fun n hn => State.part_modPart_other (s := (s.choose (l.length + 1)).2) _ hn, nofun, fun _ =>
      ⟨(c :: l)[i], List.getElem_mem hlt, ?_⟩⟩
    rw [← hi, List.getD_eq_getElem?_getD, List.getElem?_eq_getElem hlt, Option.getD_some]
    exact State.part_modPart_same (s := (s.choose (l.length + 1)).2) (·.refused (c :: l)[i]) hlen

/-! ### Scrubs (R311) -/

theorem mapGet_filter_none {w : Nat} {m : SMap w} {p : Nat × BitVec w → Bool} {a : Nat} (h : ∀ x ∈ m, x.1 = a → p x = false) :
    mapGet (m.filter p) a = 0 := by
  induction m with
  | nil => rfl
  | cons x m ih =>
    rw [List.filter_cons]
    have hrest := ih fun y hy => h y (List.mem_cons_of_mem _ hy)
    split
    next hx =>
      refine (if_neg fun e => ?_).trans hrest
      rw [h x (List.mem_cons_self ..) e] at hx
      cases hx
    · exact hrest

theorem mapGet_map_at {w : Nat} {m : SMap w} {us : List Nat} {a : Nat} {v : BitVec w} (ha : a ∈ us) (hm : ∃ x ∈ m, x.1 = a) :
    mapGet (m.map (fun x => if us.contains x.1 then (x.1, v) else x)) a = v := by
  induction m with
  | nil => obtain ⟨x, hx, -⟩ := hm; cases hx
  | cons x m ih =>
    rw [List.map_cons]
    by_cases hx : x.1 = a
    · rw [if_pos (List.contains_iff_mem.2 (hx ▸ ha))]
      exact if_pos hx
    · have hkey : (if us.contains x.1 then (x.1, v) else x).1 ≠ a := by split <;> exact hx
      refine (if_neg hkey).trans (ih ?_)
      obtain ⟨y, hy, hya⟩ := hm
      rcases List.mem_cons.1 hy with rfl | hy
      · exact absurd hya hx
      · exact ⟨y, hy, hya⟩

theorem scrub_ends {key : Nat} (hl : s.lives) (hk : key < 128) (hs : s.mem.scrubs.contains key = true)
    (hr : s.mem.rekeys.contains key = false) : Happens (.backgroundScrubEnd key) s (fun t => t.mem.scrubs = s.mem.scrubs.filter (· != key) ∧
      ∀ a, a / 64 ∈ s.mem.stale key → t.mem.read key a = 0) := by
  refine ⟨s.scrubEnds key, ?_, ?_⟩
  · show alive s (if s.mem.scrubs.contains key then some (s.scrubEnds key) else none) = _
    rw [hs, if_pos rfl, alive_next hl]
  have hmem : (s.scrubEnds key).mem = { (s.scrubUnits key).mem with scrubs := (s.scrubUnits key).mem.scrubs.filter (· != key) } := by
    unfold State.scrubEnds
    dsimp only
    rw [if_neg (by rw [show (s.scrubUnits key).mem.rekeys = s.mem.rekeys from rfl, hr]; decide)]
  refine ⟨by rw [hmem]; rfl, fun a ha => ?_⟩
  rw [hmem]
  have hunit : (mapGet (s.scrubUnits key).mem.units (a / 64)).toNat = s.mem.tag key := by
    obtain ⟨x, hx, hxa⟩ := List.mem_map.1 ha
    rw [show mapGet (s.scrubUnits key).mem.units (a / 64) = BitVec.ofNat 32 (s.mem.tag key) from
      mapGet_map_at ha ⟨x, (List.mem_filter.1 hx).1, hxa⟩, Mem.tag_fits hk]
  refine (Mem.read_plain (.inr hunit)).trans ?_
  show mapGet (s.mem.bytes.filter (fun b => !(s.mem.stale key).contains (b.1 / 64))) a = 0
  refine mapGet_filter_none fun x _ hxa => ?_
  rw [hxa, List.contains_iff_mem.2 ha]; rfl

/-! ### Resets (R22, R319) -/

theorem State.offRequests_keep (l : List Nat) (f : Mailbox → Mailbox) (s : State) :
    ∃ m, l.foldl (fun s b => s.offRequest b f) s = { s with mailbox := m } := by
  induction l generalizing s with
  | nil => exact ⟨s.mailbox, rfl⟩
  | cons b l ih =>
    have h1 : ∃ m, s.offRequest b f = { s with mailbox := m } := by
      unfold State.offRequest
      split
      · exact ⟨_, rfl⟩
      · exact ⟨s.mailbox, rfl⟩
    obtain ⟨m, hm⟩ := h1
    obtain ⟨m', hm'⟩ := ih { s with mailbox := m }
    exact ⟨m', by rw [List.foldl_cons, hm, hm']⟩

/-- A partition's work is gone; tables, functions and epochs stay. -/
theorem State.dropPart_spec (s : State) (part : Nat) : (s.dropPart part).parts = s.parts ∧ (s.dropPart part).funcs = s.funcs ∧
    (s.dropPart part).pkg = s.pkg ∧ (s.dropPart part).mem.epochs = s.mem.epochs ∧ (s.dropPart part).mem.scrubs = s.mem.scrubs ∧
    (∀ b ∈ (s.dropPart part).blocks, b.part ≠ part) ∧ (∀ l ∈ (s.dropPart part).launches, l.part ≠ part) ∧
    (∀ g ∈ (s.dropPart part).graphs, g.part ≠ part) := by
  obtain ⟨m, hm⟩ := State.offRequests_keep ((s.blocks.filter (fun b => b.part == part)).map (·.id)) id s
  unfold State.dropPart
  dsimp only
  rw [hm]
  exact ⟨rfl, rfl, rfl, rfl, rfl, fun b hb => by simpa using (List.mem_filter.1 hb).2, fun l hl => by simpa using (List.mem_filter.1 hl).2,
    fun g hg => by simpa using (List.mem_filter.1 hg).2⟩

theorem State.rekey_keeps (s : State) (k : Nat) : ∃ m, s.rekey k = { s with mem := m } := by
  unfold State.rekey
  split <;> exact ⟨_, rfl⟩

theorem State.rekeys_keep (l : List Nat) (s : State) : ∃ m, l.foldl (fun s k => s.rekey k) s = { s with mem := m } := by
  induction l generalizing s with
  | nil => exact ⟨s.mem, rfl⟩
  | cons k l ih =>
    obtain ⟨m, hm⟩ := s.rekey_keeps k
    obtain ⟨m', hm'⟩ := ih { s with mem := m }
    exact ⟨m', by rw [List.foldl_cons, hm, hm']⟩

/-- Rekeying one key id leaves another's epoch and scrub. -/
theorem State.rekey_other {k j : Nat} (h : j ≠ k) (s : State) : mapGet (s.rekey k).mem.epochs j = mapGet s.mem.epochs j ∧
    (s.rekey k).mem.scrubs.contains j = s.mem.scrubs.contains j := by
  unfold State.rekey
  split
  · exact ⟨rfl, rfl⟩
  · exact ⟨mapGet_mapSet_other h, by simp [List.contains_eq_mem, h]⟩

theorem State.rekeys_epoch {k : Nat} (l : List Nat) (hl : l.Nodup) (s : State) (hs : s.mem.scrubs.contains k = false) :
    mapGet (l.foldl (fun s k => s.rekey k) s).mem.epochs k = if k ∈ l then mapGet s.mem.epochs k + 1 else mapGet s.mem.epochs k := by
  have hnone : ∀ (l : List Nat) (s : State), k ∉ l → mapGet (l.foldl (fun s k => s.rekey k) s).mem.epochs k = mapGet s.mem.epochs k := by
    intro l
    induction l with
    | nil => exact fun s _ => rfl
    | cons j l ih =>
      intro s hk
      rw [List.foldl_cons, ih _ fun h => hk (List.mem_cons_of_mem _ h)]
      exact (State.rekey_other (k := j) (j := k) (fun h => hk (h ▸ List.mem_cons_self ..)) s).1
  induction l generalizing s with
  | nil => rfl
  | cons j l ih =>
    obtain ⟨hj, hl⟩ := List.nodup_cons.1 hl
    rw [List.foldl_cons]
    by_cases h : k = j
    · subst h
      rw [hnone l _ hj, if_pos (List.mem_cons_self ..)]
      unfold State.rekey
      rw [hs, if_neg (by decide)]
      exact mapGet_mapSet_same
    · obtain ⟨hep, hsc⟩ := State.rekey_other h s
      rw [ih hl _ (hsc.trans hs), hep]
      simp only [List.mem_cons, h, false_or]

/-- A reset that begins (R319). -/
theorem State.resetPart_spec (hp : part < s.parts.length) (hf : part < s.funcs.length) (hr : s.resetting part = false) :
    (s.resetPart part).resetting part = true ∧ ((s.resetPart part).func part).pending = [] ∧
    (∀ b ∈ (s.resetPart part).blocks, b.part ≠ part) ∧ (∀ l ∈ (s.resetPart part).launches, l.part ≠ part) ∧
    (∀ g ∈ (s.resetPart part).graphs, g.part ≠ part) ∧
    (∀ k, k < 128 → (s.part part).hasKey k = true → s.mem.scrubs.contains k = false →
      mapGet (s.resetPart part).mem.epochs k = mapGet s.mem.epochs k + 1) := by
  obtain ⟨hparts, hfuncs, -, hep, hsc, hblocks, hlaunches, hgraphs⟩ := s.dropPart_spec part
  obtain ⟨v, hv⟩ : ∃ v : State, v = (s.dropPart part).modFunc part (fun f => { f with pending := [] }) := ⟨_, rfl⟩
  obtain ⟨m, hm⟩ := State.rekeys_keep (s.part part).keyIds v
  have hreset : s.resetPart part = (({ v with mem := m } : State).modPart part (fun p =>
      { p with state := if ({ v with mem := m } : State).rekeyWaits p then 3 else 2 })) := by
    unfold State.resetPart
    rw [hr, ← hm, hv]
    rfl
  have hvp : v.parts = s.parts := by rw [hv]; exact hparts
  have hvf : v.funcs = (s.funcs).modify part (fun f => { f with pending := [] }) := by rw [hv, ← hfuncs]; rfl
  refine ⟨?_, ?_, ?_, ?_, ?_, fun k hk hhas hscrub => ?_⟩
  · unfold State.resetting
    rw [hreset, State.part_modPart_same (s := { v with mem := m }) _ (show part < v.parts.length by rw [hvp]; exact hp)]
    dsimp only
    split <;> rfl
  · rw [hreset]
    show (v.funcs.getD part Func.zero).pending = []
    rw [hvf, getD_modify, if_pos ⟨rfl, hf⟩]
  · rw [hreset, hv]; exact hblocks
  · rw [hreset, hv]; exact hlaunches
  · rw [hreset, hv]; exact hgraphs
  · have hmem : (s.resetPart part).mem = ((s.part part).keyIds.foldl (fun s k => s.rekey k) v).mem := by rw [hreset, hm]; rfl
    have hvm : v.mem = (s.dropPart part).mem := by rw [hv]; rfl
    have hin : k ∈ (s.part part).keyIds := List.mem_filter.2 ⟨List.mem_range.2 hk, hhas⟩
    have hnodup : (s.part part).keyIds.Nodup := List.Pairwise.filter _ List.nodup_range
    rw [hmem, State.rekeys_epoch _ hnodup v (by rw [hvm, hsc]; exact hscrub), if_pos hin, hvm, hep]

/-- Other partitions' entries and functions stay. -/
theorem State.resetPart_other (s : State) (part : Nat) : (s.resetPart part).parts.length = s.parts.length ∧
    (s.resetPart part).funcs.length = s.funcs.length ∧ (s.resetPart part).pkg = s.pkg ∧
    ∀ n, n ≠ part → (s.resetPart part).part n = s.part n ∧ (s.resetPart part).func n = s.func n := by
  obtain ⟨hparts, hfuncs, hpkg, -⟩ := s.dropPart_spec part
  unfold State.resetPart
  split
  · exact ⟨rfl, rfl, rfl, fun n _ => ⟨rfl, rfl⟩⟩
  · dsimp only
    obtain ⟨m, hm⟩ := State.rekeys_keep (s.part part).keyIds ((s.dropPart part).modFunc part (fun f => { f with pending := [] }))
    rw [hm]
    refine ⟨?_, ?_, hpkg, fun n hn => ⟨?_, ?_⟩⟩
    · show (List.modify (s.dropPart part).parts part _).length = _
      rw [List.length_modify, hparts]
    · show (List.modify (s.dropPart part).funcs part _).length = _
      rw [List.length_modify, hfuncs]
    · refine (State.part_modPart_other _ hn).trans ?_
      show (s.dropPart part).parts.getD n PartEntry.zero = _
      rw [hparts]; rfl
    · show (List.modify (s.dropPart part).funcs part _).getD n Func.zero = _
      rw [getD_modify, if_neg fun h => hn h.1, hfuncs]; rfl

theorem configRequest_retried {fn : Nat} (hl : s.lives) (h1 : 1 ≤ fn) (h16 : fn ≤ 16) (hup : s.pkg.clientUp = true)
    (hretry : s.pkg.clientReady = false ∨ s.resetting (fn - 1) = true) :
    Happens (.functionLevelReset fn) s (fun t => t = { s with out := s.out ++ [.config fn true] }) := by
  have hc : s.configRetry fn = true := by
    unfold State.configRetry
    rcases hretry with h | h
    · rw [h]; rfl
    · rw [h, decide_eq_true h1, Bool.and_true, Bool.or_true]
  refine ⟨s.emit (.config fn true), ?_, rfl⟩
  show alive s (if s.pkg.clientUp ∧ 1 ≤ fn ∧ fn ≤ 16 then some (if s.configRetry fn then s.emit (.config fn true) else s.resetPart (fn - 1))
    else none) = _
  rw [if_pos ⟨hup, h1, h16⟩, hc, if_pos rfl, alive_next hl]

theorem function_resets {fn : Nat} (hl : s.lives) (hp : s.parts.length = 16) (hf : s.funcs.length = 16) (h1 : 1 ≤ fn) (h16 : fn ≤ 16)
    (hup : s.pkg.clientUp = true) (hready : s.pkg.clientReady = true) (hr : s.resetting (fn - 1) = false) :
    Happens (.functionLevelReset fn) s (fun t =>
      t.resetting (fn - 1) = true ∧ (t.func (fn - 1)).pending = [] ∧ (∀ b ∈ t.blocks, b.part ≠ fn - 1) ∧
      (∀ l ∈ t.launches, l.part ≠ fn - 1) ∧ (∀ g ∈ t.graphs, g.part ≠ fn - 1) ∧
      ∀ k, k < 128 → (s.part (fn - 1)).hasKey k = true → s.mem.scrubs.contains k = false →
        mapGet t.mem.epochs k = mapGet s.mem.epochs k + 1) := by
  have hc : s.configRetry fn = false := by unfold State.configRetry; rw [hready, hr, Bool.and_false]; rfl
  refine ⟨s.resetPart (fn - 1), ?_, State.resetPart_spec (by omega) (by omega) hr⟩
  show alive s (if s.pkg.clientUp ∧ 1 ≤ fn ∧ fn ≤ 16 then some (if s.configRetry fn then s.emit (.config fn true) else s.resetPart (fn - 1))
    else none) = _
  rw [if_pos ⟨hup, h1, h16⟩, hc, if_neg (by decide), alive_next hl]

/-- A function as it stands after a reset (R319). -/
def Func.Fresh (f : Func) : Prop := f.unmasked = [] ∧ f.pending = [] ∧ ∀ q ∈ f.queues, q.head = 0 ∧ q.tail = 0 ∧ q.err = false

theorem Func.reset_fresh (f : Func) : f.reset.Fresh ∧ f.reset.msix = [] := by
  refine ⟨⟨rfl, rfl, fun q hq => ?_⟩, rfl⟩
  obtain ⟨x, -, rfl⟩ := List.mem_map.1 hq
  exact ⟨rfl, rfl, rfl⟩

/-- An entry whose reset has ended (R319). -/
def PartEntry.off (p : PartEntry) : PartEntry := { p with state := 0, cfg := if p.enabled then p.cfg - 2 ^ 25 else p.cfg }

theorem reset_ends (hl : s.lives) (hp : s.parts.length = 16) (hf : s.funcs.length = 16) (hst : (s.part part).state = 2) :
    Happens (.partitionResetEnd part) s (fun t => t.mem = s.mem ∧
      (t.part part).state = 0 ∧ (t.func part).unmasked = [] ∧ (t.func part).pending = [] ∧ (t.func part).msix = [] ∧
      ∀ q ∈ (t.func part).queues, q.head = 0 ∧ q.tail = 0 ∧ q.err = false) := by
  have hlt : part < 16 := by
    refine Classical.byContradiction fun h => ?_
    have hzero : s.part part = PartEntry.zero := by
      unfold State.part
      rw [List.getD_eq_getElem?_getD, List.getElem?_eq_none (by omega)]; rfl
    rw [hzero] at hst
    cases hst
  have hfunc : ((s.modPart part PartEntry.off).modFunc part Func.reset).func part = (s.func part).reset :=
    State.func_modFunc_same (s := s.modPart part PartEntry.off) Func.reset (by show part < s.funcs.length; omega)
  obtain ⟨⟨hun, hpend, hq⟩, hmsix⟩ := (s.func part).reset_fresh
  refine ⟨(s.modPart part PartEntry.off).modFunc part Func.reset, ?_, rfl, ?_, ?_, ?_, ?_, ?_⟩
  · show alive s (if (s.part part).state = 2 then some (s.resetEnds part) else none) = _
    rw [if_pos hst, alive_next hl]; rfl
  · show ((s.modPart part PartEntry.off).part part).state = 0
    rw [State.part_modPart_same _ (by omega)]; rfl
  · rw [hfunc]; exact hun
  · rw [hfunc]; exact hpend
  · rw [hfunc]; exact hmsix
  · rw [hfunc]; exact hq

/-- One partition's share in a reset of the client link (R22). -/
def State.linkResets (s : State) (n : Nat) : State :=
  if (s.part n).state = 1 then s.resetPart n else if s.resetting n then s else s.modFunc n Func.reset

theorem State.linkResets_other (s : State) (k : Nat) : (s.linkResets k).parts.length = s.parts.length ∧
    (s.linkResets k).funcs.length = s.funcs.length ∧ (s.linkResets k).pkg = s.pkg ∧
    ∀ n, n ≠ k → (s.linkResets k).part n = s.part n ∧ (s.linkResets k).func n = s.func n := by
  unfold State.linkResets
  split
  · exact s.resetPart_other k
  · split
    · exact ⟨rfl, rfl, rfl, fun n _ => ⟨rfl, rfl⟩⟩
    · exact ⟨rfl, List.length_modify .., rfl, fun n hn => ⟨rfl, State.func_modFunc_other _ hn⟩⟩

theorem State.linkResets_same (hp : n < s.parts.length) (hf : n < s.funcs.length) :
    ((s.part n).state = 1 → (s.linkResets n).resetting n = true) ∧ ((s.part n).state = 0 → ((s.linkResets n).func n).Fresh) := by
  unfold State.linkResets
  refine ⟨fun h => ?_, fun h => ?_⟩
  · rw [if_pos h]
    exact (State.resetPart_spec hp hf (by unfold State.resetting; rw [h]; rfl)).1
  · have hr : s.resetting n = false := by unfold State.resetting; rw [h]; rfl
    rw [if_neg (by rw [h]; decide), hr, if_neg (by decide), State.func_modFunc_same _ hf]
    exact (Func.reset_fresh _).1

/-- Every partition of a list takes its share, and no other's is touched. -/
theorem State.linkResets_all (l : List Nat) (hl : l.Nodup) (s : State) (hp : ∀ n ∈ l, n < s.parts.length) (hf : ∀ n ∈ l, n < s.funcs.length) :
    (l.foldl State.linkResets s).pkg = s.pkg ∧
    (∀ n, n ∉ l → (l.foldl State.linkResets s).part n = s.part n ∧ (l.foldl State.linkResets s).func n = s.func n) ∧
    ∀ n ∈ l, ((s.part n).state = 1 → (l.foldl State.linkResets s).resetting n = true) ∧
      ((s.part n).state = 0 → ((l.foldl State.linkResets s).func n).Fresh) := by
  induction l generalizing s with
  | nil => exact ⟨rfl, fun n _ => ⟨rfl, rfl⟩, nofun⟩
  | cons k l ih =>
    obtain ⟨hk, hl⟩ := List.nodup_cons.1 hl
    obtain ⟨hpl, hfl, hpkg, hother⟩ := s.linkResets_other k
    obtain ⟨ipkg, iout, iin⟩ := ih hl (s.linkResets k) (fun n hn => by rw [hpl]; exact hp n (List.mem_cons_of_mem _ hn))
      (fun n hn => by rw [hfl]; exact hf n (List.mem_cons_of_mem _ hn))
    obtain ⟨hone, hzero⟩ := State.linkResets_same (hp k (List.mem_cons_self ..)) (hf k (List.mem_cons_self ..))
    refine ⟨ipkg.trans hpkg, fun n hn => ?_, fun n hn => ?_⟩
    · obtain ⟨h1, h2⟩ := iout n fun h => hn (List.mem_cons_of_mem _ h)
      obtain ⟨h3, h4⟩ := hother n fun h => hn (h ▸ List.mem_cons_self ..)
      exact ⟨h1.trans h3, h2.trans h4⟩
    · rcases List.mem_cons.1 hn with rfl | hn
      · obtain ⟨h1, h2⟩ := iout n hk
        refine ⟨fun h => ?_, fun h => h2 ▸ hzero h⟩
        have := hone h
        unfold State.resetting at this ⊢
        rw [List.foldl_cons, h1]; exact this
      · rw [List.foldl_cons, ← (hother n fun h => hk (h ▸ hn)).1]
        exact iin n hn

theorem link_resets (hl : s.lives) (hp : s.parts.length = 16) (hf : s.funcs.length = 16) :
    Happens .clientLinkReset s (fun t => t.pkg.clientUp = true ∧
      ∀ n, n < 16 → ((s.part n).state = 1 → t.resetting n = true) ∧
        ((s.part n).state = 0 → (t.func n).unmasked = [] ∧ (t.func n).pending = [] ∧
          ∀ q ∈ (t.func n).queues, q.head = 0 ∧ q.tail = 0 ∧ q.err = false)) := by
  obtain ⟨hpkg, -, hall⟩ := State.linkResets_all (List.range 16) List.nodup_range { s with pkg := { s.pkg with clientUp := true } }
    (fun n hn => by show n < s.parts.length; have := List.mem_range.1 hn; omega)
    (fun n hn => by show n < s.funcs.length; have := List.mem_range.1 hn; omega)
  refine ⟨(List.range 16).foldl State.linkResets { s with pkg := { s.pkg with clientUp := true } }, ?_, by rw [hpkg], fun n hn =>
    hall n (List.mem_range.2 hn)⟩
  show alive s (some s.linkReset) = _
  rw [alive_next hl]
  rfl

end

end Sys2Proof.Machine
end

section
/-!
Isolation: interrupts, pages, devices and the register window (R19, R20, R22, R177, R199, R304, R315, R318, R334, R335).
-/

namespace Sys2Proof.Machine

section
variable {s t u : State} {part : Nat}

/-! ### Interrupts (R318) -/

theorem State.raiseIrq_keeps (s : State) (part v : Nat) : (s.raiseIrq part v).mem = s.mem ∧ (s.raiseIrq part v).pkg = s.pkg ∧
    ∀ n, ((s.raiseIrq part v).func n).unmasked = (s.func n).unmasked := by
  have hmod : ∀ (w : State) (f : Func → Func), w.funcs = s.funcs → (∀ x, (f x).unmasked = x.unmasked) →
      ∀ n, ((w.modFunc part f).func n).unmasked = (s.func n).unmasked := fun w f hw hf n => by
    have hsame : ∀ m, w.func m = s.func m := fun m => by unfold State.func; rw [hw]
    rw [State.func_modFunc]
    split
    next h => rw [hf, hsame, h.1]
    · rw [hsame]
  unfold State.raiseIrq
  dsimp only
  split
  · exact ⟨rfl, rfl, hmod (s.emit _) _ rfl fun _ => rfl⟩
  · exact ⟨rfl, rfl, hmod s _ rfl fun _ => rfl⟩

/-- No partition has sent more than a limit that its budget meets. -/
def State.Within (s : State) (b : Nat → Nat) : Prop := ∀ n, (s.func n).budget ≤ b n ∧ (s.func n).sent ≤ b n

theorem State.Within.raiseIrq {b : Nat → Nat} (h : s.Within b) (part v : Nat) : (s.raiseIrq part v).Within b := by
  have hmod : ∀ (w : State) (f : Func → Func), w.funcs = s.funcs → (f (s.func part)).budget = (s.func part).budget →
      (f (s.func part)).sent ≤ b part → (w.modFunc part f).Within b := fun w f hw hb hs n => by
    have hsame : ∀ m, w.func m = s.func m := fun m => by unfold State.func; rw [hw]
    rw [State.func_modFunc]
    split
    next hn => rw [hsame, hb, hn.1]; exact ⟨(h part).1, hs⟩
    · rw [hsame]; exact h n
  unfold State.raiseIrq
  dsimp only
  split
  next hc =>
    have hroom := of_decide_eq_true (Bool.and_eq_true_iff.1 hc).2
    exact hmod (s.emit _) _ rfl rfl (Nat.lt_of_lt_of_le hroom (h part).1)
  · exact hmod s _ rfl rfl (h part).2

/-- Any turns of messages keep within the budgets. -/
theorem State.Within.rounds {b : Nat → Nat} (due : List (List Nat)) (ks : List Nat) (h : s.Within b) :
    ∃ t, t = ks.foldl (fun s k => (List.range 16).foldl (fun s part => match (due.getD part [])[k]? with
      | some v => s.raiseIrq part v
      | none => s) s) s ∧ t.Within b ∧ t.mem = s.mem ∧ t.pkg = s.pkg := by
  have hone : ∀ (k : Nat) (ps : List Nat) (u : State), u.Within b → ∃ t, t = ps.foldl (fun s part => match (due.getD part [])[k]? with
      | some v => s.raiseIrq part v
      | none => s) u ∧ t.Within b ∧ t.mem = u.mem ∧ t.pkg = u.pkg := by
    intro k ps
    induction ps with
    | nil => exact fun u hu => ⟨u, rfl, hu, rfl, rfl⟩
    | cons p ps ih =>
      intro u hu
      rw [List.foldl_cons]
      split
      next v _ =>
        obtain ⟨t, ht, hw, hm, hp⟩ := ih (u.raiseIrq p v) (hu.raiseIrq p v)
        obtain ⟨h1, h2, -⟩ := u.raiseIrq_keeps p v
        exact ⟨t, ht, hw, hm.trans h1, hp.trans h2⟩
      · exact ih u hu
  induction ks generalizing s with
  | nil => exact ⟨s, rfl, h, rfl, rfl⟩
  | cons k ks ih =>
    obtain ⟨u, hu, huw, hum, hup⟩ := hone k (List.range 16) s h
    obtain ⟨t, ht, htw, htm, htp⟩ := ih huw
    exact ⟨t, by rw [List.foldl_cons, ← hu]; exact ht, htw, htm.trans hum, htp.trans hup⟩

/-- A function at the start of a window: nothing sent, and the budget as the table now has it (R306). -/
def Func.inWindow (f : Func) (p : PartEntry) : Func := { f with sent := 0, budget := p.irqBudget }

/-- The state at the start of a window. -/
def State.windowStarts (s : State) : State :=
  { s with funcs := ((List.range s.funcs.length).zip s.funcs).map (fun p => p.2.inWindow (s.part p.1))
           pkg := { s.pkg with irqWin := s.pkg.nano / 10000 } }

theorem State.within_windowStarts (s : State) : s.windowStarts.Within (fun n => (s.part n).irqBudget) := by
  have hlen : s.windowStarts.funcs.length = s.funcs.length := by
    show (((List.range s.funcs.length).zip s.funcs).map _).length = _
    rw [List.length_map, List.length_zip, List.length_range, Nat.min_self]
  intro n
  unfold State.func
  rw [List.getD_eq_getElem?_getD]
  by_cases hn : n < s.windowStarts.funcs.length
  · rw [List.getElem?_eq_getElem hn, Option.getD_some]
    have hget : s.windowStarts.funcs[n] = (s.funcs[n]'(hlen ▸ hn)).inWindow (s.part n) := by
      simp only [State.windowStarts, List.getElem_map, List.getElem_zip, List.getElem_range]
    rw [hget]
    exact ⟨Nat.le_refl _, Nat.zero_le _⟩
  · rw [List.getElem?_eq_none (Nat.le_of_not_lt hn)]
    exact ⟨Nat.zero_le _, Nat.zero_le _⟩

theorem window_opens (hl : s.lives) (hw : s.pkg.irqWin < s.pkg.nano / 10000) :
    Happens .irqWindow s (fun t => t.pkg.irqWin = s.pkg.nano / 10000 ∧ t.mem = s.mem ∧
      ∀ n, (t.func n).sent ≤ (s.part n).irqBudget) := by
  obtain ⟨t, ht, htw, htm, htp⟩ := s.within_windowStarts.rounds ((List.range 16).map s.windowStarts.irqsDue)
    (List.range (((List.range 16).map s.windowStarts.irqsDue).foldl (fun n l => max n l.length) 0))
  refine ⟨t, ?_, by rw [htp]; rfl, by rw [htm]; rfl, fun n => (htw n).2⟩
  show alive s (if s.pkg.irqWin < s.pkg.nano / 10000 then some s.newWindow else none) = _
  rw [if_pos hw, alive_next hl, ht]
  rfl

/-- A function of which an entry is unmasked. -/
def Func.unmask (f : Func) (v : Nat) : Func := { f with unmasked := if f.unmasked.contains v then f.unmasked else f.unmasked ++ [v] }

theorem unmask_refused {v : Nat} (hl : s.lives) (hp : part < 16) (hv : v < 2048) (hup : s.pkg.clientUp = true)
    (hready : s.pkg.clientReady = false) :
    Happens (.msixUnmask part v) s (fun t => t = { s with out := s.out ++ [.unsupported (part + 1) (0x200C + 16 * v)] }) := by
  refine ⟨s.emit (.unsupported (part + 1) (0x200C + 16 * v)), ?_, rfl⟩
  show alive s (if s.pkg.clientUp ∧ part < 16 ∧ v < 2048 then
        some (s.hostWrites part (0x200C + 16 * v) (fun s => s.unmask part v)) else none) = _
  rw [if_pos ⟨hup, hp, hv⟩, alive_next hl]
  unfold State.hostWrites
  rw [hready]
  rfl

theorem entry_unmasks {v : Nat} (hl : s.lives) (hf : s.funcs.length = 16) (hp : part < 16) (hv : v < 2048) (hup : s.pkg.clientUp = true)
    (hready : s.pkg.clientReady = true) (hr : s.resetting part = false) :
    Happens (.msixUnmask part v) s (fun t => t.mem = s.mem ∧
      (t.func part).unmasked.contains v = true ∧ ((s.func part).pending.contains v = false → t.out = s.out)) := by
  have hfunc : (s.modFunc part (·.unmask v)).func part = (s.func part).unmask v := State.func_modFunc_same _ (by omega)
  have hin : ((s.modFunc part (·.unmask v)).func part).unmasked.contains v = true := by
    rw [hfunc]
    unfold Func.unmask
    dsimp only
    split
    · assumption
    · simp
  have hun : s.unmask part v = if (s.func part).pending.contains v then (s.modFunc part (·.unmask v)).raiseIrq part v
      else s.modFunc part (·.unmask v) := rfl
  refine ⟨s.unmask part v, ?_, ?_⟩
  · show alive s (if s.pkg.clientUp ∧ part < 16 ∧ v < 2048 then
        some (s.hostWrites part (0x200C + 16 * v) (fun s => s.unmask part v)) else none) = _
    rw [if_pos ⟨hup, hp, hv⟩, alive_next hl]
    unfold State.hostWrites
    rw [hready, hr]
    rfl
  · rw [hun]
    split
    next hpend =>
      obtain ⟨h1, -, h3⟩ := (s.modFunc part (·.unmask v)).raiseIrq_keeps part v
      exact ⟨h1, by rw [h3]; exact hin, fun h => by rw [h] at hpend; cases hpend⟩
    · exact ⟨rfl, hin, fun _ => rfl⟩

/-! ### Pages (R177, R334) -/

/-- A page that is to move (R334). -/
def Page.leaving (q : Page) (pbase : Nat) : Page := { q with moving := some pbase }

/-- A page at its new home. -/
def Page.moved (q : Page) (pbase : Nat) : Page := { q with spec := { q.spec with pbase := pbase }, moving := none }

theorem mapGet_listed {w : Nat} {m : SMap w} {a : Nat} (h : mapGet m a ≠ 0) : ∃ x ∈ m, x.1 = a := by
  induction m with
  | nil => exact absurd rfl h
  | cons x m ih =>
    by_cases hx : x.1 = a
    · exact ⟨x, List.mem_cons_self .., hx⟩
    · obtain ⟨y, hy, hya⟩ := ih fun e => h ((if_neg hx).trans e)
      exact ⟨y, List.mem_cons_of_mem _ hy, hya⟩

/-- Bytes written with what their addresses stand for read so. -/
theorem Mem.read_writes {key : Nat} (hk : key < 128) (f : Nat → BitVec 8) (l : List (Nat × BitVec 8)) (hl : ∀ c ∈ l, c.2 = f c.1)
    (m : Mem) (a : Nat) : (l.foldl (fun m c => m.write key c.1 c.2) m).read key a = if a ∈ l.map (·.1) then f a else m.read key a := by
  induction l generalizing m with
  | nil => rfl
  | cons c l ih =>
    rw [List.foldl_cons, ih fun x hx => hl x (List.mem_cons_of_mem _ hx), List.map_cons]
    by_cases h : a ∈ l.map (·.1)
    · rw [if_pos h, if_pos (List.mem_cons_of_mem _ h)]
    · rw [if_neg h]
      by_cases hc : a = c.1
      · rw [if_pos (by rw [hc]; exact List.mem_cons_self ..), hc, Mem.read_write_same hk, hl c (List.mem_cons_self ..)]
      · rw [if_neg (by rw [List.mem_cons]; exact fun hn => hn.elim hc h), Mem.read_write_other hk hc]

/-- A page's sizes are multiples of a unit's, and its home begins at one. -/
theorem pageValid_aligned {p : PageSpec} (h : pageValid p = true) : p.size % 64 = 0 ∧ p.pbase % 64 = 0 := by
  unfold pageValid at h
  simp only [Bool.and_eq_true, Bool.or_eq_true, beq_iff_eq] at h
  obtain ⟨⟨⟨hsize, -⟩, hbase⟩, -⟩ := h
  have hs : p.size % 64 = 0 := by omega
  exact ⟨hs, Nat.mod_eq_zero_of_dvd (Nat.dvd_trans (Nat.dvd_of_mod_eq_zero hs) (Nat.dvd_of_mod_eq_zero hbase))⟩

/-- The written bytes of a page stand at its new home as they stood at its old (R334). -/
theorem Mem.read_movePage {m : Mem} {p : PageSpec} {pbase i : Nat} (hv : pageValid p = true) (hk : p.key < 128) (hi : i < p.size)
    (hu : (mapGet m.units ((p.pbase + i) / 64)).toNat ≠ 0) : (m.movePage p pbase).read p.key (pbase + i) = m.read p.key (p.pbase + i) := by
  obtain ⟨hsize, hbase⟩ := pageValid_aligned hv
  obtain ⟨x, hx, hxa⟩ := mapGet_listed (m := m.units) (a := (p.pbase + i) / 64) fun h => hu (by rw [h]; rfl)
  unfold Mem.movePage
  dsimp only
  rw [Mem.read_writes hk (fun a => m.read p.key (p.pbase + (a - pbase)))]
  · rw [if_pos, Nat.add_sub_cancel_left]
    refine List.mem_map.2 ⟨(pbase + (64 * x.1 + (p.pbase + i) % 64 - p.pbase), m.read p.key (64 * x.1 + (p.pbase + i) % 64)), ?_, ?_⟩
    · refine List.mem_flatMap.2 ⟨x, List.mem_filter.2 ⟨hx, ?_⟩,
        List.mem_map.2 ⟨(p.pbase + i) % 64, List.mem_range.2 (Nat.mod_lt _ (by decide)), rfl⟩⟩
      rw [hxa, decide_eq_true (by omega), decide_eq_true (by omega)]
      rfl
    · dsimp only
      rw [hxa]
      omega
  · intro c hc
    obtain ⟨y, hy, hc⟩ := List.mem_flatMap.1 hc
    obtain ⟨j, -, rfl⟩ := List.mem_map.1 hc
    have hlo : p.pbase / 64 ≤ y.1 := of_decide_eq_true (Bool.and_eq_true_iff.1 (List.mem_filter.1 hy).2).1
    dsimp only
    rw [show p.pbase + (pbase + (64 * y.1 + j - p.pbase) - pbase) = 64 * y.1 + j by omega]

theorem Mem.rehome_pages (m : Mem) (p : PageSpec) (pbase : Nat) : (m.rehome p pbase).pages = m.pages := by
  show (m.movePage p pbase).pages = _
  unfold Mem.movePage
  exact (foldl_keeps Mem.pages (fun m (c : Nat × BitVec 8) => m.write p.key c.1 c.2) (fun m c => m.adopt_pages p.key c.1) _ _).trans rfl

theorem page_migrates {vbase pbase : Nat} {p : Page} (hl : s.lives) (hb : 5 ≤ s.pkg.boot)
    (hp : s.mem.pages.find? (fun p => p.part == part && p.spec.vbase == vbase) = some p) (hlock : s.locked part p.spec = false)
    (hv : pageValid p.spec = true) (hk : p.spec.key < 128) (hnew : pageValid { p.spec with pbase := pbase } = true)
    (hb1 : backed s pbase = true) (hb2 : backed s (pbase + p.spec.size - 1) = true) (hne : pbase ≠ p.spec.pbase)
    (hmov : p.moving = none ∨ p.moving = some pbase ∧ s.pageBusy p.spec = false) :
    Happens (.pageMigration part vbase pbase) s (fun t =>
      (s.pageBusy p.spec = true → t.mem.bytes = s.mem.bytes ∧ ∃ q,
        t.mem.pages.find? (fun p => p.part == part && p.spec.vbase == vbase) = some q ∧ q.spec = p.spec ∧ q.moving = some pbase) ∧
      (s.pageBusy p.spec = false → (∃ q, t.mem.pages.find? (fun p => p.part == part && p.spec.vbase == vbase) = some q ∧
        q.spec = { p.spec with pbase := pbase } ∧ q.moving = none) ∧
        ∀ i, i < p.spec.size → (mapGet s.mem.units ((p.spec.pbase + i) / 64)).toNat ≠ 0 →
          t.mem.read p.spec.key (pbase + i) = s.mem.read p.spec.key (p.spec.pbase + i))) := by
  have hmine : (p.part == part && p.spec.vbase == vbase) = true :=
    List.find?_some (p := fun p : Page => p.part == part && p.spec.vbase == vbase) hp
  have hvbase : p.spec.vbase = vbase := beq_iff_eq.1 (Bool.and_eq_true_iff.1 hmine).2
  have hnext : exec (.pageMigration part vbase pbase) s = event (s.migrate part vbase pbase) := by
    show running s (s.migrate part vbase pbase) = _
    unfold running
    rw [if_pos (by rw [State.lives_iff.1 hl]; simpa using hb)]
  have hmove : p.moving.any (· != pbase) = false ∧ (p.moving.isSome && s.pageBusy p.spec) = false := by
    rcases hmov with h | ⟨h, hq⟩
    · rw [h]; exact ⟨rfl, rfl⟩
    · rw [h, hq]; exact ⟨by simp, rfl⟩
  have hmigrate : s.migrate part vbase pbase = if s.pageBusy p.spec then
      some { s with mem := { s.mem with pages := mapWhere (fun q => q.part == part && q.spec.vbase == vbase) (·.leaving pbase) s.mem.pages } }
      else some (s.movePage part p.spec pbase) := by
    unfold State.migrate
    rw [hp, Option.bind_some, hlock, hnew, hb1, hb2, hmove.1, hmove.2]
    rfl
  rw [hmigrate] at hnext
  cases hbusy : s.pageBusy p.spec with
  | true =>
    rw [hbusy, if_pos rfl] at hnext
    refine ⟨_, hnext, fun _ => ⟨rfl, p.leaving pbase, ?_, rfl, rfl⟩, nofun⟩
    show (mapWhere _ (·.leaving pbase) s.mem.pages).find? _ = _
    rw [find?_mapWhere _ _ (fun q : Page => q.leaving pbase) _ fun _ _ => rfl, hp, Option.map_some, if_pos hmine]
  | false =>
    rw [hbusy, if_neg (by decide)] at hnext
    refine ⟨_, hnext, nofun, fun _ => ?_⟩
    unfold State.movePage
    dsimp only
    rw [if_neg hne]
    refine ⟨⟨p.moved pbase, ?_, rfl, rfl⟩, fun i hi hu => ?_⟩
    · show (mapWhere (fun q => q.part == part && q.spec.vbase == p.spec.vbase) (·.moved pbase) (s.mem.rehome p.spec pbase).pages).find? _ = _
      rw [Mem.rehome_pages, hvbase, find?_mapWhere _ _ (fun q : Page => q.moved pbase) _ fun _ _ => rfl, hp, Option.map_some, if_pos hmine]
    · exact (Mem.read_congr rfl rfl fun _ _ => rfl).trans (Mem.read_movePage hv hk hi hu)

/-! ### Devices (R19) -/

theorem State.cleanRun_mem (s : State) (a n : Nat) : (s.cleanRun a n).mem = s.mem := by
  unfold State.cleanRun
  split
  · rfl
  · exact foldl_keeps State.mem (fun s m => s.clearPoison (coversPhys a m)) (fun s m => rfl) _ _

theorem Mem.writeN_one (m : Mem) (key a : Nat) (v : BitVec 8) : m.writeN key a 1 v.toNat = m.write key a v := by
  have hcell : leCells a 1 v.toNat = [(a, v)] := by simp [leCells]
  unfold Mem.writeN
  rw [hcell]
  rfl

theorem device_writes {dev a n x k : Nat} {v : BitVec 8} (hl : s.lives) (h : s.deviceByte dev a 1 = some (x, k)) :
    Happens (.rootPortDeviceAccess dev a (some [v]) n) s (fun t => t.mem.bytes = (s.mem.write k x v).bytes ∧
      t.mem.units = (s.mem.write k x v).units) := by
  refine ⟨(s.physWrite k x 1 v.toNat).cleanRun x 1, ?_, ?_⟩
  · show alive s (some (s.deviceAccess dev a (some [v]) n)) = _
    rw [alive_next hl]
    unfold State.deviceAccess
    simp only [List.length_singleton, List.range_one, List.map_cons, List.map_nil, Nat.add_zero, h]
    rfl
  · have hmem := (s.physWrite k x 1 v.toNat).cleanRun_mem x 1
    refine ⟨(congrArg Mem.bytes hmem).trans ?_, (congrArg Mem.units hmem).trans ?_⟩
    · show (s.mem.writeN k x 1 v.toNat).bytes = _
      rw [Mem.writeN_one]
    · show (s.mem.writeN k x 1 v.toNat).units = _
      rw [Mem.writeN_one]

theorem device_misses {dev a n : Nat} {v : BitVec 8} (hl : s.lives) (h : s.deviceByte dev a 1 = none) :
    exec (.rootPortDeviceAccess dev a (some [v]) n) s = .next s := by
  show alive s (some (s.deviceAccess dev a (some [v]) n)) = _
  rw [alive_next hl]
  unfold State.deviceAccess
  simp only [List.length_singleton, List.range_one, List.map_cons, List.map_nil, Nat.add_zero, h]
  rfl

theorem device_reads {dev a x k : Nat} (hl : s.lives) (h : s.deviceByte dev a 0 = some (x, k)) :
    Happens (.rootPortDeviceAccess dev a none 1) s (fun t =>
      t.mem = s.mem ∧ t.out = s.out ++ [.device dev [(s.mem.read k x, s.physBad x 1)]]) := by
  refine ⟨s.emit (.device dev [(s.mem.read k x, s.physBad x 1)]), ?_, rfl, rfl⟩
  show alive s (some (s.deviceAccess dev a none 1)) = _
  rw [alive_next hl]
  unfold State.deviceAccess
  simp only [List.range_one, List.map_cons, List.map_nil, Nat.add_zero, h]
  rfl

/-! ### The register window (R5, R20, R335) -/

theorem superWrite_next {core a n : Nat} {v : Option Reg} (hl : s.lives) (hb : 5 ≤ s.pkg.boot) (hc : core < 32) (ha : a < 2 ^ 64)
    (hn : n = 1 ∨ n = 2 ∨ n = 4 ∨ n = 8) : exec (.registerWrite (.super core a n v)) s = .next (s.superAccess core a n v) := by
  show running s (if core < 32 ∧ a < 2 ^ 64 ∧ (n = 1 ∨ n = 2 ∨ n = 4 ∨ n = 8) then some (s.superAccess core a n v) else none) = _
  rw [if_pos ⟨hc, ha, hn⟩, running_next hl hb]

/-- Only an aligned 64-bit access of the window is one (R5). -/
theorem State.superAccess_window_faults {o n : Nat} (ho : o < windowBytes) (hbad : n ≠ 8 ∨ o % 8 ≠ 0) (core : Nat) (v : Option Reg) :
    s.superAccess core (windowBase + o) n v = s.emit (.accessFault core (windowBase + o)) := by
  unfold State.superAccess
  dsimp only
  rw [if_pos ⟨Nat.le_add_right .., Nat.add_lt_add_left ho _⟩, Nat.add_sub_cancel_left]
  exact if_pos hbad

/-- An aligned load of the window answers with the word (R5). -/
theorem State.superAccess_window_loads {o : Nat} (ho : o < windowBytes) (ha : o % 8 = 0) (core : Nat) :
    s.superAccess core (windowBase + o) 8 none = s.emit (.loaded core (windowBase + o) (s.windowRead o) false) := by
  unfold State.superAccess
  dsimp only
  rw [if_pos ⟨Nat.le_add_right .., Nat.add_lt_add_left ho _⟩, Nat.add_sub_cancel_left]
  exact if_neg (by omega)

theorem window_faults {core o n : Nat} {v : Option Reg} (hl : s.lives) (hb : 5 ≤ s.pkg.boot) (hc : core < 32) (ho : o < 0x10000000)
    (hn : n = 1 ∨ n = 2 ∨ n = 4 ∨ n = 8) (hbad : n ≠ 8 ∨ o % 8 ≠ 0) :
    Happens (.registerWrite (.super core (0x80000000000000 + o) n v)) s (fun t =>
      t = { s with out := s.out ++ [.accessFault core (0x80000000000000 + o)] }) :=
  ⟨s.superAccess core (windowBase + o) n v, superWrite_next hl hb hc (by show 0x80000000000000 + o < 2 ^ 64; omega) hn,
    State.superAccess_window_faults ho hbad core v⟩

theorem window_loads {core o w : Nat} (hl : s.lives) (hb : 5 ≤ s.pkg.boot) (hc : core < 32) (ho : o < 0x10000000) (ha : o % 8 = 0)
    (hw : s.windowRead o = w) : Happens (.registerWrite (.super core (0x80000000000000 + o) 8 none)) s (fun t =>
      t = { s with out := s.out ++ [.loaded core (0x80000000000000 + o) w false] }) := by
  refine ⟨s.superAccess core (windowBase + o) 8 none, superWrite_next hl hb hc (by show 0x80000000000000 + o < 2 ^ 64; omega) (by decide), ?_⟩
  rw [State.superAccess_window_loads ho ha, ← hw]
  rfl

/-- What the write-only word, the mailbox's words and the plane map's word read as (R5, R335, R355). -/
theorem State.windowRead_words (s : State) : s.windowRead 0x10000 = 0 ∧
    s.windowRead 0x10008 = s.mailbox.area - s.mailbox.area / 2 ^ 48 % 2 ^ 8 * 2 ^ 48 ∧
    s.windowRead 0x10010 = s.mailbox.limit ∧ s.windowRead 0x20000 = s.pkg.planeWord := by
  have hfield : bits s.mailbox.area 55 48 = s.mailbox.area / 2 ^ 48 % 2 ^ 8 := by unfold bits; rfl
  refine ⟨?_, ?_, ?_, ?_⟩
  · simp [State.windowRead]
  · rw [← hfield]
    simp [State.windowRead]
  · simp [State.windowRead]
  · simp [State.windowRead]

theorem context_made {w c p sc : Nat} (hl : s.lives) (hb : 5 ≤ s.pkg.boot) (hen : (s.part p).enabled = true)
    (hwing : (s.part p).hasWing w = true) (hw : w < Config.wings) (hc : c < 64) (hp : p < 16) (h2 : 2 ≤ sc) (h4 : sc ≤ 4) :
    Happens (.registerWrite (.context w c p sc)) s (fun t =>
      t.mem = s.mem ∧ t.ctxOf w c p = some ⟨w, c, p, sc, 0, 0, 0, 0, 0, []⟩) := by
  refine ⟨{ s with fl := { s.fl with ctxs := s.fl.ctxs.filter (fun x => !(x.wing == w && x.ctx == c)) ++ [newCtx w c p sc] } }, ?_, rfl, ?_⟩
  · show running s (s.regWrite (.context w c p sc)) = _
    unfold State.regWrite
    dsimp only
    rw [if_pos ⟨hw, hc, hp, hen, hwing, h2, h4⟩, running_next hl hb]
  · unfold State.ctxOf
    dsimp only
    rw [List.find?_append, List.find?_eq_none.2, Option.none_or, List.find?_cons_of_pos]
    · rfl
    · unfold newCtx
      simp
    · intro x hx
      have hother := (List.mem_filter.1 hx).2
      rw [Bool.not_eq_true'] at hother
      rw [hother, Bool.false_and]
      decide

theorem clock_set {m : Nat} (hl : s.lives) (hb : 5 ≤ s.pkg.boot) (h0 : 0 < m) (h940 : m ≤ 940) (hsealed : s.sealedLive = false) :
    Happens (.registerWrite (.clock m)) s (fun t => t.pkg.mhz = m) := by
  refine ⟨s.setClock m, ?_, rfl⟩
  show running s (if s.sealedLive ∨ m = 0 ∨ 940 < m then none else some (s.setClock m)) = _
  rw [if_neg (by rw [hsealed]; simp; omega), running_next hl hb]

end

/-- Settles O51: each of the events by its rule. -/
theorem isolationEvents : Obligations.IsolationEvents := by
  intro s hl hp hf
  refine ⟨fun part word v hb hpart hword => ⟨s.tableWrite part word v.toNat, ?_, State.tableWrite_spec (by omega)⟩,
    fun key hk hs hr => scrub_ends hl hk hs hr, fun fn h1 h16 hup hretry => configRequest_retried hl h1 h16 hup hretry,
    fun fn h1 h16 hup hready hr => function_resets hl hp hf h1 h16 hup hready hr, fun part hst => reset_ends hl hp hf hst,
    link_resets hl hp hf, fun hw => window_opens hl hw, fun part v hpart hv hup hready => unmask_refused hl hpart hv hup hready,
    fun part v hpart hv hup hready hr => entry_unmasks hl hf hpart hv hup hready hr,
    fun part vbase pbase p hpage hb hlock hv hk hnew hb1 hb2 hne hmov => page_migrates hl hb hpage hlock hv hk hnew hb1 hb2 hne hmov,
    fun dev a v n => ⟨fun x k h => device_writes hl h, fun h => device_misses hl h, fun x k h => device_reads hl h⟩,
    fun core o n v hb hc ho hn hbad => window_faults hl hb hc ho hn hbad, fun core hb hc p hmem => ?_,
    fun w c p sc hb hen hwing hw hc hpart h2 h4 => context_made hl hb hen hwing hw hc hpart h2 h4,
    fun m hb h0 h940 hsealed => clock_set hl hb h0 h940 hsealed⟩
  · show running s (if part < 16 ∧ word < 8 then some (s.tableWrite part word v.toNat) else none) = _
    rw [if_pos ⟨hpart, hword⟩, running_next hl hb]
  · simp only [List.mem_cons, List.not_mem_nil, or_false] at hmem
    obtain ⟨hrequest, harea, hlimit, hplane⟩ := s.windowRead_words
    rcases hmem with rfl | rfl | rfl | rfl
    · exact window_loads (o := 0x10000) hl hb hc (by decide) (by decide) hrequest
    · exact window_loads (o := 0x10008) hl hb hc (by decide) (by decide) harea
    · exact window_loads (o := 0x10010) hl hb hc (by decide) (by decide) hlimit
    · exact window_loads (o := 0x20000) hl hb hc (by decide) (by decide) hplane

end Sys2Proof.Machine
end
